-- ==== Sys2Proof/Word.lean ====
section
/-! DEFINITION. The word types of the machine and their plainest arithmetic. -/
namespace Sys2Proof

/-- A 32-bit instruction word (R24). -/
abbrev Code := BitVec 32
/-- A 64-bit scalar value (R4, R66). -/
abbrev Word := BitVec 64
/-- A byte of memory (R26). -/
abbrev Byte := BitVec 8
/-- A 6-bit operand code (R30, R32). -/
abbrev Opnd := BitVec 6
/-- A stall count (R24). -/
abbrev Stall := BitVec 3
/-- A 32-bit element of a vector lane or of an accumulator (R32). -/
abbrev Elem := BitVec 32

end Sys2Proof
end

