-- ==== Sys2Proof/Syntax.lean ====
section
/-! DEFINITION. The instructions: one constructor per row of the opcode table.  A row with an encoding is an
instruction word, and its arguments are the word's fields as encoded (`S` is the stall count).  A row without one is an
event of the machine; its operands (the unit it happens at, the pending item it concerns, what comes from outside)
stand in the state's event register, as an instruction's operands stand in the state's registers. -/
namespace Sys2Proof

inductive Instr where
  /-- R81: Writes a + b modulo 2^64 to d and pushes it. -/
  | add (S : BitVec 3) (d a b : BitVec 6)
  /-- R81: Writes a − b modulo 2^64 to d and pushes it. -/
  | sub (S : BitVec 3) (d a b : BitVec 6)
  /-- R81: Writes the bitwise and of a and b to d and pushes it. -/
  | and (S : BitVec 3) (d a b : BitVec 6)
  /-- R81: Writes the bitwise or of a and b to d and pushes it. -/
  | or (S : BitVec 3) (d a b : BitVec 6)
  /-- R81: Writes the bitwise xor of a and b to d and pushes it. -/
  | xor (S : BitVec 3) (d a b : BitVec 6)
  /-- R81: Writes a and not b to d and pushes it. -/
  | andn (S : BitVec 3) (d a b : BitVec 6)
  /-- R81: Shifts a left by b mod 64, with zeros shifted in. -/
  | shl (S : BitVec 3) (d a b : BitVec 6)
  /-- R81: Shifts a right logically by b mod 64. -/
  | shr (S : BitVec 3) (d a b : BitVec 6)
  /-- R81: Shifts a right arithmetically by b mod 64. -/
  | sar (S : BitVec 3) (d a b : BitVec 6)
  /-- R81: Rotates a left by b mod 64. -/
  | rot (S : BitVec 3) (d a b : BitVec 6)
  /-- R81: Writes the signed minimum of a and b. -/
  | min (S : BitVec 3) (d a b : BitVec 6)
  /-- R81: Writes the cardinal minimum of a and b. -/
  | minc (S : BitVec 3) (d a b : BitVec 6)
  /-- R81: Writes the signed maximum of a and b. -/
  | max (S : BitVec 3) (d a b : BitVec 6)
  /-- R81: Writes the cardinal maximum of a and b. -/
  | maxc (S : BitVec 3) (d a b : BitVec 6)
  /-- R81: Writes a if q1 is nonzero, otherwise b. -/
  | sel (S : BitVec 3) (d a b : BitVec 6)
  /-- R82: Writes the low 64 bits of a × b. -/
  | mul (S : BitVec 3) (d a b : BitVec 6)
  /-- R82: Writes the high 64 bits of the signed product of a and b. -/
  | mulh (S : BitVec 3) (d a b : BitVec 6)
  /-- R82: Writes the high 64 bits of the cardinal product of a and b. -/
  | mulhc (S : BitVec 3) (d a b : BitVec 6)
  /-- R82: Writes the signed quotient of a and b, truncated, using the shared divider for 24 cycles. -/
  | div (S : BitVec 3) (d a b : BitVec 6)
  /-- R82: Writes the cardinal quotient of a and b. -/
  | divc (S : BitVec 3) (d a b : BitVec 6)
  /-- R82: Writes the signed remainder of a and b. -/
  | rem (S : BitVec 3) (d a b : BitVec 6)
  /-- R82: Writes the cardinal remainder of a and b. -/
  | remc (S : BitVec 3) (d a b : BitVec 6)
  /-- R82: Writes the number of leading zero bits of a. -/
  | clz (S : BitVec 3) (d a : BitVec 6)
  /-- R82: Writes the number of trailing zero bits of a. -/
  | ctz (S : BitVec 3) (d a : BitVec 6)
  /-- R82: Writes the number of one bits of a. -/
  | popc (S : BitVec 3) (d a : BitVec 6)
  /-- R82: Writes the bytes of a in reverse order. -/
  | bswap (S : BitVec 3) (d a : BitVec 6)
  /-- R82: Writes a to d and pushes it. -/
  | mov (S : BitVec 3) (d a : BitVec 6)
  /-- R83: Writes 1 when the integer condition in fn holds between a and b, otherwise 0. -/
  | cmp (S : BitVec 3) (d a b : BitVec 6) (c : BitVec 4)
  /-- R84: Writes a plus the sign-extended immediate. -/
  | addi (S : BitVec 3) (d a : BitVec 6) (i : BitVec 10)
  /-- R84: Writes a and the sign-extended immediate. -/
  | andi (S : BitVec 3) (d a : BitVec 6) (i : BitVec 10)
  /-- R84: Writes a or the sign-extended immediate. -/
  | ori (S : BitVec 3) (d a : BitVec 6) (i : BitVec 10)
  /-- R84: Writes a xor the sign-extended immediate. -/
  | xori (S : BitVec 3) (d a : BitVec 6) (i : BitVec 10)
  /-- R84: Shifts a left by an immediate count of 0–63. -/
  | shli (S : BitVec 3) (d a i : BitVec 6)
  /-- R84: Shifts a right logically by an immediate count. -/
  | shri (S : BitVec 3) (d a i : BitVec 6)
  /-- R84: Shifts a right arithmetically by an immediate count. -/
  | sari (S : BitVec 3) (d a i : BitVec 6)
  /-- R85: Writes the sign-extended 16-bit immediate. -/
  | li (S : BitVec 3) (d : BitVec 6) (i : BitVec 16)
  /-- R85: Shifts its source, taken from d, left 16 bits, merges in the immediate and writes the result. -/
  | lsh (S : BitVec 3) (d : BitVec 6) (i : BitVec 16)
  /-- R86: Branches by a word offset when a compares to zero under the condition in field b. -/
  | br (S : BitVec 3) (a c : BitVec 6) (o : BitVec 10)
  /-- R86: Branches when a equals b. -/
  | bcEq (S : BitVec 3) (a b : BitVec 6) (o : BitVec 10)
  /-- R86: Branches when a differs from b. -/
  | bcNe (S : BitVec 3) (a b : BitVec 6) (o : BitVec 10)
  /-- R86: Branches when a is signed-less than b. -/
  | bcLt (S : BitVec 3) (a b : BitVec 6) (o : BitVec 10)
  /-- R86: Branches when a is cardinal-less than b. -/
  | bcLtc (S : BitVec 3) (a b : BitVec 6) (o : BitVec 10)
  /-- R86: Branches when a is signed-less than or equal to b. -/
  | bcLe (S : BitVec 3) (a b : BitVec 6) (o : BitVec 10)
  /-- R86: Branches when a is cardinal-less than or equal to b. -/
  | bcLec (S : BitVec 3) (a b : BitVec 6) (o : BitVec 10)
  /-- R87: Jumps by a 22-bit word offset. -/
  | j (S : BitVec 3) (o : BitVec 22)
  /-- R87: Jumps by a word offset, writes the link to g31 and pushes it. -/
  | jal (S : BitVec 3) (o : BitVec 22)
  /-- R87: Jumps to the address in a, writing the link to d, or traps on a misaligned target. -/
  | jr (S : BitVec 3) (d a : BitVec 6)
  /-- R88: Holds back the context's next word for n cycles beyond its stall count; nop is stall 0. -/
  | stall (S : BitVec 3) (i : BitVec 16)
  /-- R109: Writes the rounded floating sum of a and b in the prefixed formats. -/
  | fadd (S : BitVec 3) (d a b : BitVec 6)
  /-- R109: Writes the rounded floating difference of a and b. -/
  | fsub (S : BitVec 3) (d a b : BitVec 6)
  /-- R109: Writes the rounded floating product of a and b. -/
  | fmul (S : BitVec 3) (d a b : BitVec 6)
  /-- R109: Writes the rounded floating quotient, using the divide-root unit for 18 cycles. -/
  | fdiv (S : BitVec 3) (d a b : BitVec 6)
  /-- R109: Writes the rounded square root of a. -/
  | fsqrt (S : BitVec 3) (d a : BitVec 6)
  /-- R109: Writes the IEEE minimum of a and b. -/
  | fmin (S : BitVec 3) (d a b : BitVec 6)
  /-- R109: Writes the IEEE maximum of a and b. -/
  | fmax (S : BitVec 3) (d a b : BitVec 6)
  /-- R109: Writes a with its sign bit inverted. -/
  | fneg (S : BitVec 3) (d a : BitVec 6)
  /-- R109: Writes the one-hot class mask of a. -/
  | fclass (S : BitVec 3) (d a : BitVec 6)
  /-- R109: Writes a × b + q1 with one rounding. -/
  | fma (S : BitVec 3) (d a b : BitVec 6)
  /-- R110: Writes 1 when the floating condition in fn holds between a and b. -/
  | fcmp (S : BitVec 3) (d a b : BitVec 6) (c : BitVec 4)
  /-- R111: Converts a from format FA to format FD. -/
  | cvt (S : BitVec 3) (d a : BitVec 6)
  /-- R112: Encodes element a as a block mantissa against exponent b. -/
  | bxenc (S : BitVec 3) (d a b : BitVec 6)
  /-- R112: Decodes mantissa a against exponent b to format FD. -/
  | bxdec (S : BitVec 3) (d a b : BitVec 6)
  /-- R112: Writes the block exponent chosen for the single value a. -/
  | bxexp (S : BitVec 3) (d a : BitVec 6)
  /-- R135: Loads a local word at base plus scaled offset, with fixed timing. -/
  | ld (S : BitVec 3) (d b : BitVec 6) (o : BitVec 10)
  /-- R135: Stores a word to local store at base plus scaled offset. -/
  | st (S : BitVec 3) (v b : BitVec 6) (o : BitVec 10)
  /-- R135: Loads a local word at a plus b scaled by the width. -/
  | ldx (S : BitVec 3) (d a b : BitVec 6)
  /-- R135: Stores a local word at a plus b scaled by the width. -/
  | stx (S : BitVec 3) (v a b : BitVec 6)
  /-- R136: Translates a global address and sends a load to its home slice, counting in ldc. -/
  | ldg (S : BitVec 3) (d b : BitVec 6) (o : BitVec 10)
  /-- R136: Translates a global address and sends a store to its home slice, counting in stc. -/
  | stg (S : BitVec 3) (v b : BitVec 6) (o : BitVec 10)
  /-- R137: Global load with acquire ordering at the scope SC. -/
  | ldgAcq (S : BitVec 3) (d a : BitVec 6) (c : BitVec 3)
  /-- R137: Global store held as a release at the scope SC. -/
  | stgRel (S : BitVec 3) (v a : BitVec 6) (c : BitVec 3)
  /-- R138: Sets local-store region descriptor N to base, size and swizzle span. -/
  | lsr (S : BitVec 3) (b z : BitVec 6) (n p : BitVec 3)
  /-- R141: Asks the home slice to bring a line into its line cache. -/
  | pref (S : BitVec 3) (a : BitVec 6)
  /-- R139: Holds the context until counter K is at most c(n). -/
  | waitc (S : BitVec 3) (n : BitVec 6) (k : BitVec 3)
  /-- R140: Sends a watch to the home slice and parks until the word differs from v. -/
  | waitv (S : BitVec 3) (v a : BitVec 6)
  /-- R141: Writes a modified line back to HBM, counting in stc. -/
  | wbk (S : BitVec 3) (a : BitVec 6)
  /-- R136: Global 64-bit load at a plus 8 × b. -/
  | ldgx (S : BitVec 3) (d a b : BitVec 6)
  /-- R146: Returning atomic add at the bank or home slice. -/
  | aadd (S : BitVec 3) (d a : BitVec 6) (o : BitVec 2) (c : BitVec 3) (l : BitVec 1)
  /-- R146: Returning atomic and. -/
  | aand (S : BitVec 3) (d a : BitVec 6) (o : BitVec 2) (c : BitVec 3) (l : BitVec 1)
  /-- R146: Returning atomic or. -/
  | aor (S : BitVec 3) (d a : BitVec 6) (o : BitVec 2) (c : BitVec 3) (l : BitVec 1)
  /-- R146: Returning atomic xor. -/
  | axor (S : BitVec 3) (d a : BitVec 6) (o : BitVec 2) (c : BitVec 3) (l : BitVec 1)
  /-- R146: Returning atomic minimum. -/
  | amin (S : BitVec 3) (d a : BitVec 6) (o : BitVec 2) (c : BitVec 3) (l : BitVec 1)
  /-- R146: Returning atomic maximum. -/
  | amax (S : BitVec 3) (d a : BitVec 6) (o : BitVec 2) (c : BitVec 3) (l : BitVec 1)
  /-- R146: Returning atomic swap. -/
  | aswp (S : BitVec 3) (d a : BitVec 6) (o : BitVec 2) (c : BitVec 3) (l : BitVec 1)
  /-- R146: Returning atomic compare-and-swap with expected q2 and new q1. -/
  | acas (S : BitVec 3) (d a : BitVec 6) (o : BitVec 2) (c : BitVec 3) (l : BitVec 1)
  /-- R146: Returning atomic increment that wraps to 0 at the bound q2. -/
  | aincw (S : BitVec 3) (d a : BitVec 6) (o : BitVec 2) (c : BitVec 3) (l : BitVec 1)
  /-- R146: Returning atomic add bounded by q2. -/
  | abadd (S : BitVec 3) (d a : BitVec 6) (o : BitVec 2) (c : BitVec 3) (l : BitVec 1)
  /-- R149: Non-returning reduction at the home slice, optionally arriving at a barrier object. -/
  | red (S : BitVec 3) (d a : BitVec 6) (x : BitVec 4) (o : BitVec 2) (c : BitVec 3)
  /-- R153: Release arrival at a barrier object at device scope, returning phase and done. -/
  | barm (S : BitVec 3) (d a : BitVec 6)
  /-- R153: Parks the context until the barrier object completes a phase. -/
  | bwait (S : BitVec 3) (d a p : BitVec 6)
  /-- R169: Queues an elementwise add. -/
  | vadd (S : BitVec 3) (d a b : BitVec 6) (k : BitVec 1)
  /-- R169: Queues an elementwise subtract. -/
  | vsub (S : BitVec 3) (d a b : BitVec 6) (k : BitVec 1)
  /-- R169: Queues an elementwise multiply. -/
  | vmul (S : BitVec 3) (d a b : BitVec 6) (k : BitVec 1)
  /-- R169: Queues an elementwise fused multiply-add into vd. -/
  | vfma (S : BitVec 3) (d a b : BitVec 6) (k : BitVec 1)
  /-- R169: Queues an elementwise minimum. -/
  | vmin (S : BitVec 3) (d a b : BitVec 6) (k : BitVec 1)
  /-- R169: Queues an elementwise maximum. -/
  | vmax (S : BitVec 3) (d a b : BitVec 6) (k : BitVec 1)
  /-- R170: Queues an elementwise absolute value. -/
  | vabs (S : BitVec 3) (d a : BitVec 6)
  /-- R170: Queues an elementwise negation. -/
  | vneg (S : BitVec 3) (d a : BitVec 6)
  /-- R169: Queues an elementwise and. -/
  | vand (S : BitVec 3) (d a b : BitVec 6) (k : BitVec 1)
  /-- R169: Queues an elementwise or. -/
  | vor (S : BitVec 3) (d a b : BitVec 6) (k : BitVec 1)
  /-- R169: Queues an elementwise xor. -/
  | vxor (S : BitVec 3) (d a b : BitVec 6) (k : BitVec 1)
  /-- R169: Queues an elementwise left shift. -/
  | vshl (S : BitVec 3) (d a b : BitVec 6) (k : BitVec 1)
  /-- R169: Queues an elementwise logical right shift. -/
  | vshr (S : BitVec 3) (d a b : BitVec 6) (k : BitVec 1)
  /-- R169: Queues an elementwise arithmetic right shift. -/
  | vsar (S : BitVec 3) (d a b : BitVec 6) (k : BitVec 1)
  /-- R172: Queues an elementwise compare under the condition in VM. -/
  | vcmp (S : BitVec 3) (d a b : BitVec 6) (k : BitVec 1) (m : BitVec 3)
  /-- R169: Queues an elementwise select on the old vd lane. -/
  | vsel (S : BitVec 3) (d a b : BitVec 6) (k : BitVec 1)
  /-- R171: Queues an elementwise format conversion from FA to FD. -/
  | vcvt (S : BitVec 3) (d a : BitVec 6)
  /-- R175: Queues a gathering permutation or rotation of lanes. -/
  | vperm (S : BitVec 3) (d a b : BitVec 6) (k : BitVec 1)
  /-- R174: Queues a broadcast of a scalar to every active lane. -/
  | vbcast (S : BitVec 3) (d b : BitVec 6)
  /-- R176: Queues a tree reduction over the active lanes. -/
  | vred (S : BitVec 3) (d a b : BitVec 6) (m : BitVec 3)
  /-- R176: Queues an ascending scan over the active lanes. -/
  | vscan (S : BitVec 3) (d a b : BitVec 6) (m : BitVec 3)
  /-- R177: Queues a strided vector load from local store. -/
  | vld (S : BitVec 3) (d a b : BitVec 6) (k : BitVec 1) (m : BitVec 3)
  /-- R177: Queues a strided vector store to local store. -/
  | vst (S : BitVec 3) (d a b : BitVec 6) (k : BitVec 1) (m : BitVec 3)
  /-- R178: Queues an indexed vector load. -/
  | vldx (S : BitVec 3) (d a b : BitVec 6)
  /-- R178: Queues an indexed vector store. -/
  | vstx (S : BitVec 3) (d a b : BitVec 6)
  /-- R179: Queues a write of index register ik in every active lane. -/
  | vidx (S : BitVec 3) (a b : BitVec 6) (k : BitVec 1) (m : BitVec 3)
  /-- R180: Sets the context's vector length in the scalar pipeline. -/
  | vsetvl (S : BitVec 3) (d a : BitVec 6)
  /-- R181: Queues a write of a scalar into one vector lane. -/
  | vmovsWrite (S : BitVec 3) (d a b : BitVec 6)
  /-- R181: Queues a read of one vector lane into a scalar destination. -/
  | vmovsRead (S : BitVec 3) (d a b : BitVec 6)
  /-- R170: Queues an elementwise reciprocal. -/
  | vrcp (S : BitVec 3) (d a : BitVec 6)
  /-- R170: Queues an elementwise reciprocal square root. -/
  | vrsqrt (S : BitVec 3) (d a : BitVec 6)
  /-- R170: Queues an elementwise power of two. -/
  | vexp2 (S : BitVec 3) (d a : BitVec 6)
  /-- R173: Queues a four-element dot product accumulated into vd. -/
  | vdot4 (S : BitVec 3) (d a b : BitVec 6)
  /-- R197: Appends a matrix multiply-accumulate entry to the core's matrix queue. -/
  | mma (S c : BitVec 3) (a b : BitVec 6) (x p m : BitVec 1)
  /-- R199: Appends a refinement entry that adds the remainder of a partial-plane product. -/
  | mmr (S c : BitVec 3) (a b : BitVec 6) (x : BitVec 1)
  /-- R200: Reads a tile descriptor and expands it into a sequence of mmas. -/
  | mtile (S : BitVec 3) (d : BitVec 6) (x p m : BitVec 1)
  /-- R200: Issues the next expanded mma of an mtile once the queue has room and updates DONE. -/
  | mtileExpansion
  /-- R201: Clears an accumulator or pair and its tag, once its pending entries complete. -/
  | mzero (S c : BitVec 3) (p : BitVec 1)
  /-- R201: Writes selected accumulator rows to local store, converting by FD. -/
  | mrd (S : BitVec 3) (d r : BitVec 6) (c : BitVec 3) (p : BitVec 1)
  /-- R201: Loads selected accumulator rows from local store. -/
  | mwr (S : BitVec 3) (d r : BitVec 6) (c : BitVec 3) (p : BitVec 1)
  /-- R202: Sets the core's sparsity stream register. -/
  | msk (S : BitVec 3) (a : BitVec 6)
  /-- R203: Closes the open batch and returns its number. -/
  | mcommit (S : BitVec 3) (d : BitVec 6)
  /-- R203: Waits until a held batch completes, merges its flags and frees it. -/
  | mwaitb (S : BitVec 3) (a : BitVec 6)
  /-- R204: Returns a matrix status item, optionally clearing the check counts. -/
  | mstat (S : BitVec 3) (d a : BitVec 6)
  /-- R212: Sends a probe of a key to its map slice. -/
  | kprobe (S : BitVec 3) (d a e : BitVec 6)
  /-- R212: Sends an insert of a key and value to its map slice. -/
  | kins (S : BitVec 3) (d a e : BitVec 6)
  /-- R212: Sends an upsert-combine of a key and value to its map slice. -/
  | kups (S : BitVec 3) (d a e : BitVec 6)
  /-- R212: Sends a removal of a key to its map slice. -/
  | krem (S : BitVec 3) (d a e : BitVec 6)
  /-- R226: Creates a keyed map from a descriptor and returns its handle. -/
  | knew (S : BitVec 3) (d a b : BitVec 6)
  /-- R226: Marks a map, drains its accepted operations and frees its storage. -/
  | kdel (S : BitVec 3) (d a : BitVec 6)
  /-- R219: Schedules an exchange of two maps' storage at the next sync.x. -/
  | kpub (S : BitVec 3) (d a b : BitVec 6)
  /-- R226: Reads or changes a map's threshold and facet class. -/
  | kcfg (S : BitVec 3) (d a b : BitVec 6)
  /-- R227: Copies up to 32 map entries from a cursor into local store. -/
  | kiter (S : BitVec 3) (d a b : BitVec 6)
  /-- R228: Returns a selected statistic of a map. -/
  | kstat (S : BitVec 3) (d a b : BitVec 6)
  /-- R247: Pushes a 32-byte command to an engine FIFO or returns full or busy status. -/
  | fpush (S : BitVec 3) (d a : BitVec 6) (f : BitVec 4)
  /-- R248: Pops the context's oldest result element for a FID, acquiring its data. -/
  | fpop (S : BitVec 3) (d : BitVec 6) (f : BitVec 4)
  /-- R248: Reads the context's oldest result element for a FID without removing it. -/
  | fpeek (S : BitVec 3) (d : BitVec 6) (f : BitVec 4)
  /-- R249: Returns FIFO occupancy and enc. -/
  | fstat (S : BitVec 3) (d : BitVec 6) (f : BitVec 4)
  /-- R268: Arms a landing slot on a PM tile header in the own store. -/
  | pland (S : BitVec 3) (d a : BitVec 6) (l : BitVec 4)
  /-- R269: Reads a landing slot's status word, acquiring counted sections. -/
  | pcnt (S : BitVec 3) (d : BitVec 6) (l : BitVec 4)
  /-- R270: Waits until a slot's counter reaches v or the slot ends. -/
  | pwait (S : BitVec 3) (d a : BitVec 6) (l : BitVec 4)
  /-- R271: Cancels a landing slot, freezing its counter and sending a cancel upstream. -/
  | pcancel (S : BitVec 3) (d : BitVec 6) (l : BitVec 4)
  /-- R276: Arrives at the group barrier ending the compute phase, with an optional route table. -/
  | syncC (S : BitVec 3) (d a : BitVec 6) (c : BitVec 2)
  /-- R276: Arrives at the group barrier ending the exchange phase. -/
  | syncX (S : BitVec 3) (d : BitVec 6) (c : BitVec 2)
  /-- R286: Reads a local word and sends it onto the exchange fabric. -/
  | xmit (S : BitVec 3) (b : BitVec 6) (o : BitVec 10)
  /-- R287: Pops the oldest word of an exchange input into local store. -/
  | xsel (S : BitVec 3) (b : BitVec 6) (k : BitVec 3) (o : BitVec 7)
  /-- R284: Reads a word of a kept imbalance record. -/
  | ssrd (S : BitVec 3) (d a : BitVec 6)
  /-- R296: Reads undo-log status, marks the superstep unrepeatable or sets the exempt range. -/
  | ulog (S : BitVec 3) (d a : BitVec 6) (o : BitVec 2)
  /-- R311: Requests a facet or clause array in a class and returns the grant status. -/
  | facq (S : BitVec 3) (d a : BitVec 6) (c : BitVec 2) (k : BitVec 1)
  /-- R312: Sets the core's surrender routine address. -/
  | fsur (S : BitVec 3) (d a : BitVec 6)
  /-- R312: Answers the recall of the running surrender routine and restores the control context. -/
  | fans (S : BitVec 3) (n : BitVec 2)
  /-- R313: Releases a unit held by the issuing gang. -/
  | frel (S : BitVec 3) (d a : BitVec 6)
  /-- R313: Supervisor takes back a unit held within the partition. -/
  | frecall (S : BitVec 3) (d a : BitVec 6)
  /-- R326: Writes a clause into a given column of a clause array. -/
  | cwr (S : BitVec 3) (d a b : BitVec 6)
  /-- R326: Clears a range of clause-array columns. -/
  | cclr (S : BitVec 3) (d a b : BitVec 6)
  /-- R326: Writes a clause into the lowest free column at or above a base. -/
  | clrn (S : BitVec 3) (d a b : BitVec 6)
  /-- R327: Makes a decision at a new level on the trail. -/
  | cdec (S : BitVec 3) (d a b : BitVec 6)
  /-- R327: Backtracks the trail to a level. -/
  | cback (S : BitVec 3) (d a b : BitVec 6)
  /-- R328: Runs propagation rounds up to a limit and returns the outcome. -/
  | cprop (S : BitVec 3) (d a b : BitVec 6)
  /-- R329: Reads a trail entry. -/
  | ctrail (S : BitVec 3) (d a b : BitVec 6)
  /-- R329: Reads a variable's or a column's state. -/
  | cval (S : BitVec 3) (d a b : BitVec 6)
  /-- R329: Reads array configuration or the last propagation result. -/
  | cconf (S : BitVec 3) (d a b : BitVec 6)
  /-- R337: Reads a launch descriptor and carries it to the scheduler, returning status as a long result. -/
  | launch (S : BitVec 3) (d a : BitVec 6)
  /-- R348: Starts the lowest free helper context at an entry, or returns −1. -/
  | hstart (S : BitVec 3) (d a : BitVec 6) (o : BitVec 10)
  /-- R349: Ends a helper, or the core's part of the gang when issued by x0. -/
  | hexit (S : BitVec 3)
  /-- R349: Waits for a helper's hexit and frees the helper. -/
  | hjoin (S : BitVec 3) (a : BitVec 6)
  /-- R346: Decrements successor counters, arms or reads a graph node's counter. -/
  | gdone (S : BitVec 3) (d a : BitVec 6) (m : BitVec 2)
  /-- R347: Selects the schedule of smallest sufficient capacity from a class table. -/
  | schsel (S : BitVec 3) (d a b : BitVec 6)
  /-- R370: Takes a software trap with cause n. -/
  | trap (S : BitVec 3) (n : BitVec 6)
  /-- R356: Restores the context from its trap frame and resumes. -/
  | eret (S : BitVec 3)
  /-- R371: Self-halts, or halts, resumes or flushes a range of contexts of the partition. -/
  | halt (S : BitVec 3) (d a : BitVec 6)
  /-- R370: Holds the context until each other ready context has issued or 11 cycles pass. -/
  | yield (S : BitVec 3)
  /-- R372: Reads a system register. -/
  | srr (S : BitVec 3) (d : BitVec 6) (n : BitVec 12)
  /-- R372: Checks and writes a system register that has no row of its own. -/
  | srw (S : BitVec 3) (v : BitVec 6) (n : BitVec 12)
  /-- R373: Reads an item of a target context or core through the register window. -/
  | wrd (S : BitVec 3) (d a b : BitVec 6)
  /-- R373: Writes an item of a target through the register window. -/
  | wwr (S : BitVec 3) (v a b : BitVec 6)
  /-- R373: Resumes a halted context at an address or its saved program counter. -/
  | wres (S : BitVec 3) (d a b : BitVec 6)
  /-- R374: Advances an ASID's generation and waits out accesses of the old one. -/
  | gen (S : BitVec 3) (d a : BitVec 6)
  /-- R374: Drops translation-cache entries of an ASID in a scope. -/
  | tlbi (S : BitVec 3) (d a b : BitVec 6)
  /-- R375: Zeroes cores, slices, HBM or the device with fresh check bits. -/
  | scrub (S : BitVec 3) (d a : BitVec 6)
  /-- R39: Captures the next words as a repeat frame replayed with staggered fields. -/
  | rpt (S m : BitVec 3) (c t : BitVec 4) (p : BitVec 10)
  /-- R38: Latches format and rounding codes for the next instruction. -/
  | pfx (S : BitVec 3) (a b : BitVec 6) (d : BitVec 4) (r : BitVec 2)
  /-- R50: An illegal word halts its context unchanged and sends a fault message with the cause. -/
  | illegalWordHalt
  /-- R354: A word that cannot be fetched takes a fetch fault when the context would issue it. -/
  | fetchFault
  /-- R76: The checker stage recomputes each retiring instruction 4 cycles after issue before its effects leave the core. -/
  | inOrderCheck
  /-- R68: A long-operation result reaches its slot, its register if still allowed, or the trap frame, and its counter falls. -/
  | resultArrival
  /-- R129: An acknowledgement from a home slice or HBM lowers stc. -/
  | storeAcknowledgement
  /-- R356: Once fixed-latency results have arrived, the frame is written, TREC set and the handler entered. -/
  | trapEntry
  /-- R359: A pending enabled interrupt is taken at an instruction boundary. -/
  | interrupt
  /-- R359: The time base reaches TCMP and the TIMER interrupt becomes pending. -/
  | timerCompare
  /-- R359: A write of TCMP sets the compare value and clears a pending TIMER. -/
  | tcmpWrite
  /-- R352: A write of 1 to IPEND clears the soft interrupt. -/
  | ipendWrite
  /-- R119: A page-table walk ends, fills the translation cache, sets A and D or raises an exact fault. -/
  | translationWalk
  /-- R123: A home slice performs a load, store or host or remote access to one of its lines. -/
  | globalAccessAtSlice
  /-- R133: A held release leaves the network interface once its earlier accesses have performed. -/
  | releaseDepart
  /-- R140: A waitv or bwait watch arrives at the home slice, waking at once or entering the watch table. -/
  | watchArrival
  /-- R143: The reduction unit performs a returning atomic and sends back the old value. -/
  | atomicAtSlice
  /-- R149: The reduction unit performs a reduction, acknowledges it and sends any barrier arrival. -/
  | reductionAtSlice
  /-- R152: An arrival increments a barrier object's count and may complete its phase. -/
  | barrierArrival
  /-- R159: A lane group, granted by its arbiter, begins a ready queue entry of a core. -/
  | vectorEntryBegin
  /-- R161: A gathering entry begins in all eight groups once every group has granted it. -/
  | gatheringPointBegin
  /-- R158: An entry that every group has executed or passed retires, merges its flags and lowers vqc. -/
  | vectorEntryRetire
  /-- R183: The plane array begins the next queue entry, checking its headers. -/
  | matrixEntryBegin
  /-- R183: An entry completes and writes its accumulator. -/
  | matrixEntryCompletion
  /-- R213: A map unit accepts a keyed operation, linearising it and returning value and status. -/
  | keyedOperationAccept
  /-- R214: A combining-buffer entry writes its key's value to its bucket and may retire. -/
  | combiningBufferWrite
  /-- R216: A slice runs a pending split step between operations, moving entries of bucket p. -/
  | splitStep
  /-- R217: After a facet grant the slice moves buckets into the facet between operations. -/
  | facetMigration
  /-- R217: A map unit answers a recall of its facet with SUMMARISE, moving buckets out. -/
  | mapUnitSurrender
  /-- R238: Copy engine moves rows between global memory and local store. -/
  | copy
  /-- R239: Copy engine copies local store to a core of another octant over BK. -/
  | copyl
  /-- R241: Gather engine copies table rows named by an index list. -/
  | gather
  /-- R242: Gather engine asks home slices to prefetch the rows of an index list. -/
  | gpre
  /-- R243: Installs the octant's hot-row set in negotiated facets. -/
  | hotset
  /-- R244: Codec compresses local 1 KiB blocks for a page kind. -/
  | codecCompress
  /-- R244: Codec expands stored blocks to 1 KiB each. -/
  | codecExpand
  /-- R244: Codec encodes f32 rows into a block-format tile with header. -/
  | codecBlockEncode
  /-- R244: Codec decodes a block-format tile to f32 values. -/
  | codecBlockDecode
  /-- R257: Plane port multicasts a tile in plane order to up to 16 slots. -/
  | pbcast
  /-- R259: Plane port performs an all-gather of tiles among members. -/
  | pgather
  /-- R260: Plane port sends FP32 chunks to members for a reduce-scatter. -/
  | prscat
  /-- R261: Plane port multicasts a tile to slots on other devices of the domain. -/
  | prelay
  /-- R235: A command's writes have performed, its element is written and enc falls. -/
  | commandCompletion
  /-- R243: An engine block answers a recall of a hot-set facet with SUMMARISE and drops its rows. -/
  | engineBlockSurrender
  /-- R254: A plane-cast section reaches a slot, binding or being refused, and raises CNT when it has performed. -/
  | sectionArrival
  /-- R260: A member's engine block takes a chunk, sums it and, after the last, encodes and lands the result. -/
  | prscatChunkArrival
  /-- R263: A cancel or refusal prunes a branch at a router and passes upstream when none is left. -/
  | cancelAtRouter
  /-- R278: The barrier releases a group's sync.c, binding exchange inputs and entering the exchange phase. -/
  | syncCRelease
  /-- R278: The barrier releases a group's sync.x, discarding unread words, advancing ssn and checkpointing. -/
  | syncXRelease
  /-- R288: A fabric word becomes available at a bound input, or is discarded at a full one. -/
  | exchangeWordArrival
  /-- R290: An exchange phase reaches 65,536 cycles and late participants trap with cause 55. -/
  | exchangeTimeout
  /-- R23: A consumed uncorrectable error is contained at its gang, fault domain or module. -/
  | uncorrectableError
  /-- R295: The gang stops, restores journals and logs, and repeats the superstep from its checkpoint. -/
  | rollback
  /-- R369: The device enters the viral state, blocking data traffic and halting every context. -/
  | viralEntry
  /-- R301: An arbiter takes a unit request and grants, revokes, posts a recall, waits or fails. -/
  | arbitration
  /-- R304: The control context saves its state and enters the surrender routine with the head record. -/
  | routineEntry
  /-- R305: A routine's 2,048th instruction is not fans, or it traps, and the unit is revoked. -/
  | routineOverrun
  /-- R306: A unit still held 65,536 cycles after a FINISH answer is revoked. -/
  | finishDeadline
  /-- R322: A clause array performs an arriving operation, or rejects it with cause 70. -/
  | clauseOperationAtArray
  /-- R335: The scheduler places a start on free octants, sets up its cores and starts it. -/
  | gangStart
  /-- R341: A switch-out command is accepted for a gang with a stop stamp. -/
  | switchOut
  /-- R341: The stamp is reached, the gang stops, drains and writes its frames. -/
  | preemptionStamp
  /-- R343: Checks frame tags, restores the gang's frames and re-injects held packets. -/
  | resume
  /-- R344: Stops a gang, discards its state and completes it with FAIL set. -/
  | kill
  /-- R339: Once every core has ended and its work drained, units are released and completion actions run. -/
  | gangCompletion
  /-- R333: A gang's resident cycle budget expires and a fault message is sent. -/
  | cycleBudgetExpiry
  /-- R363: A requested debug halt stops the contexts of its set. -/
  | debugHaltLanding
  /-- R365: A window write to IPOST sets pending interrupt bits of a target. -/
  | ipost
  /-- R367: A write of MODE 1 starts trace recording of an octant. -/
  | traceStart
  /-- R367: A write of MODE 2 arms recording to start at TST. -/
  | traceArm
  /-- R367: The time base reaches TST and recording starts. -/
  | traceStamp
  /-- R367: A write of STOP ends recording. -/
  | traceStop
  /-- R367: Recording ends after 65,536 cycles and the buffer is written. -/
  | traceEnd
  /-- R368: A write of INJS makes the next checked scalar instruction of CORE mismatch. -/
  | injectScalar
  /-- R368: A write of INJV makes the next residue-checked vector entry of CORE mismatch. -/
  | injectVector
  /-- R368: A write of INJM makes the next checked matrix step of CORE mismatch. -/
  | injectMatrix
  /-- R378: A host read or write through BAR4 performs at the line's home slice or is dropped. -/
  | hostMemoryAccess
  /-- R380: A 64-byte command write is placed in the partition's inbox or counted as dropped or full. -/
  | hostCommand
  /-- R384: A write of 1 to RESET resets the module with links kept trained. -/
  | warmReset
  /-- R384: A write of 2 to RESET resets the whole module. -/
  | coldReset
  /-- R394: A write of PLIM sets the power limit and records a power event. -/
  | plimWrite
  /-- R400: A write of 1 to TENANT kills, scrubs, re-verifies and tests the module. -/
  | tenantChange
  /-- R383: A write to a NOTIFY entry registers or unregisters a partition's notify ring. -/
  | notifyRegister
  /-- R399: A nonce written to ATTEST yields a signed quote within 500 ms. -/
  | quoteRequest
  /-- R387: A port receives a flit, accepting it in order or discarding it and sending a NAK. -/
  | flitReceive
  /-- R387: After 4 µs without progress the sender replays from the last acknowledged flit. -/
  | replayTimeout
  /-- R388: A failed lane makes the port narrow and retrain. -/
  | laneFailure
  /-- R388: A retraining port resumes data traffic at its new width. -/
  | portRetrainDone
  /-- R389: A request from another device is translated in its bound address space or refused. -/
  | remoteRequest
  /-- R392: A slice's daily pass reads and corrects every row and enters repair positions. -/
  | hbmScrubPass
  /-- R394: Every 10 µs module power and temperature are sampled and the clock stepped. -/
  | powerSample
  /-- R396: The boot steps run in order, choosing methods from the boot record. -/
  | startUp
  /-- R396: Ten seconds after a start failure the module cold resets. -/
  | startFailedReset
  /-- R388: A port reset through the management window retrains a narrowed scale-up port, which may widen again. -/
  | portReset
  /-- R343: Every core of a resumed gang makes its first issue in the first tick at or after the descriptor's TS. -/
  | resumeStamp
  /-- R397: Management sets or clears PIN and PM in a boot-record step entry to pin the method of later starts. -/
  | bootRecordPinWrite
  deriving DecidableEq, Repr

end Sys2Proof
end

