-- ==== Sys2Proof/WellFormed.lean ====
section
/-! DEFINITION. The field rules that a word shall keep (R29 to R51): one check for each cause of R51 that a word alone can
show.  An event of the machine has no word and keeps them all. -/
namespace Sys2Proof

/-- The causes of R51, by name. -/
inductive IllegalCause where
  | reservedMajor     -- 1
  | unassignedSub     -- 2
  | reservedBit       -- 3
  | reservedValue     -- 4
  | operandCode       -- 5
  | formatCode        -- 6
  | formatNotTaken    -- 7
  | repeatRule        -- 8
  deriving DecidableEq, Repr

/-- The cause number of R51. -/
def IllegalCause.code : IllegalCause → Nat
  | .reservedMajor => 1 | .unassignedSub => 2 | .reservedBit => 3 | .reservedValue => 4
  | .operandCode => 5 | .formatCode => 6 | .formatNotTaken => 7 | .repeatRule => 8

/-- A scalar destination code: g0 to g31, or push only (R30). -/
def destOk (d : Opnd) : Bool := d.toNat ≤ 0x1F || d == 0x3F

/-- The combinations of ORD, SC and L that R47 allows. -/
def orderOk (o : BitVec 2) (c : BitVec 3) (l : BitVec 1) : Bool :=
  c.toNat ≤ 4 && (c == 0 || o != 0) && (l == 0 || (o == 0 && c == 0))

/-- The register numbers that R352 assigns. -/
def sysregOk (n : BitVec 12) : Bool :=
  let k := n.toNat
  k ≤ 6 || k == 0x00F || (0x040 ≤ k && k ≤ 0x07F) || (0x100 ≤ k && k ≤ 0x103) || (0x200 ≤ k && k ≤ 0x205)
    || k == 0x20E || (0x210 ≤ k && k ≤ 0x21B) || (0x300 ≤ k && k ≤ 0x307)

/-- The codes of FA and FB that R35 lists. -/
def sourceFormatOk (f : BitVec 6) : Bool :=
  let k := f.toNat
  k ≤ 0x08 || (0x10 ≤ k && k ≤ 0x12) || (0x22 ≤ k && k ≤ 0x28) || (0x32 ≤ k && k ≤ 0x38)

/-- Bits that a form of the word does not use are zero (cause 3): vb of an immediate-stride vld or vst (R177), va of
a scalar vidx (R179).  The other reserved bits have no place in a constructor.  DESIGN CHOICE (log 176): vb of vred, of vscan and of a
vidx with BS = 0, which name none, may be anything (R176, R179). -/
def Instr.bitsOk : Instr → Bool
  | .add _ _ _ _ => true
  | .sub _ _ _ _ => true
  | .and _ _ _ _ => true
  | .or _ _ _ _ => true
  | .xor _ _ _ _ => true
  | .andn _ _ _ _ => true
  | .shl _ _ _ _ => true
  | .shr _ _ _ _ => true
  | .sar _ _ _ _ => true
  | .rot _ _ _ _ => true
  | .min _ _ _ _ => true
  | .minc _ _ _ _ => true
  | .max _ _ _ _ => true
  | .maxc _ _ _ _ => true
  | .sel _ _ _ _ => true
  | .mul _ _ _ _ => true
  | .mulh _ _ _ _ => true
  | .mulhc _ _ _ _ => true
  | .div _ _ _ _ => true
  | .divc _ _ _ _ => true
  | .rem _ _ _ _ => true
  | .remc _ _ _ _ => true
  | .clz _ _ _ => true
  | .ctz _ _ _ => true
  | .popc _ _ _ => true
  | .bswap _ _ _ => true
  | .mov _ _ _ => true
  | .cmp _ _ _ _ _ => true
  | .addi _ _ _ _ => true
  | .andi _ _ _ _ => true
  | .ori _ _ _ _ => true
  | .xori _ _ _ _ => true
  | .shli _ _ _ _ => true
  | .shri _ _ _ _ => true
  | .sari _ _ _ _ => true
  | .li _ _ _ => true
  | .lsh _ _ _ => true
  | .br _ _ _ _ => true
  | .bcEq _ _ _ _ => true
  | .bcNe _ _ _ _ => true
  | .bcLt _ _ _ _ => true
  | .bcLtc _ _ _ _ => true
  | .bcLe _ _ _ _ => true
  | .bcLec _ _ _ _ => true
  | .j _ _ => true
  | .jal _ _ => true
  | .jr _ _ _ => true
  | .stall _ _ => true
  | .fadd _ _ _ _ => true
  | .fsub _ _ _ _ => true
  | .fmul _ _ _ _ => true
  | .fdiv _ _ _ _ => true
  | .fsqrt _ _ _ => true
  | .fmin _ _ _ _ => true
  | .fmax _ _ _ _ => true
  | .fneg _ _ _ => true
  | .fclass _ _ _ => true
  | .fma _ _ _ _ => true
  | .fcmp _ _ _ _ _ => true
  | .cvt _ _ _ => true
  | .bxenc _ _ _ _ => true
  | .bxdec _ _ _ _ => true
  | .bxexp _ _ _ => true
  | .ld _ _ _ _ => true
  | .st _ _ _ _ => true
  | .ldx _ _ _ _ => true
  | .stx _ _ _ _ => true
  | .ldg _ _ _ _ => true
  | .stg _ _ _ _ => true
  | .ldgAcq _ _ _ _ => true
  | .stgRel _ _ _ _ => true
  | .lsr _ _ _ _ _ => true
  | .pref _ _ => true
  | .waitc _ _ _ => true
  | .waitv _ _ _ => true
  | .wbk _ _ => true
  | .ldgx _ _ _ _ => true
  | .aadd _ _ _ _ _ _ => true
  | .aand _ _ _ _ _ _ => true
  | .aor _ _ _ _ _ _ => true
  | .axor _ _ _ _ _ _ => true
  | .amin _ _ _ _ _ _ => true
  | .amax _ _ _ _ _ _ => true
  | .aswp _ _ _ _ _ _ => true
  | .acas _ _ _ _ _ _ => true
  | .aincw _ _ _ _ _ _ => true
  | .abadd _ _ _ _ _ _ => true
  | .red _ _ _ _ _ _ => true
  | .barm _ _ _ => true
  | .bwait _ _ _ _ => true
  | .vadd _ _ _ _ _ => true
  | .vsub _ _ _ _ _ => true
  | .vmul _ _ _ _ _ => true
  | .vfma _ _ _ _ _ => true
  | .vmin _ _ _ _ _ => true
  | .vmax _ _ _ _ _ => true
  | .vabs _ _ _ => true
  | .vneg _ _ _ => true
  | .vand _ _ _ _ _ => true
  | .vor _ _ _ _ _ => true
  | .vxor _ _ _ _ _ => true
  | .vshl _ _ _ _ _ => true
  | .vshr _ _ _ _ _ => true
  | .vsar _ _ _ _ _ => true
  | .vcmp _ _ _ _ _ _ => true
  | .vsel _ _ _ _ _ => true
  | .vcvt _ _ _ => true
  | .vperm _ _ _ _ _ => true
  | .vbcast _ _ _ => true
  | .vred _ _ _ _ _ => true
  | .vscan _ _ _ _ _ => true
  | .vld _ _ _ b k _ => k == 1 || b == 0
  | .vst _ _ _ b k _ => k == 1 || b == 0
  | .vldx _ _ _ _ => true
  | .vstx _ _ _ _ => true
  | .vidx _ a _ k _ => k == 0 || a == 0
  | .vsetvl _ _ _ => true
  | .vmovsWrite _ _ _ _ => true
  | .vmovsRead _ _ _ _ => true
  | .vrcp _ _ _ => true
  | .vrsqrt _ _ _ => true
  | .vexp2 _ _ _ => true
  | .vdot4 _ _ _ _ => true
  | .mma _ _ _ _ _ _ _ => true
  | .mmr _ _ _ _ _ => true
  | .mtile _ _ _ _ _ => true
  | .mzero _ _ _ => true
  | .mrd _ _ _ _ _ => true
  | .mwr _ _ _ _ _ => true
  | .msk _ _ => true
  | .mcommit _ _ => true
  | .mwaitb _ _ => true
  | .mstat _ _ _ => true
  | .kprobe _ _ _ _ => true
  | .kins _ _ _ _ => true
  | .kups _ _ _ _ => true
  | .krem _ _ _ _ => true
  | .knew _ _ _ _ => true
  | .kdel _ _ _ => true
  | .kpub _ _ _ _ => true
  | .kcfg _ _ _ _ => true
  | .kiter _ _ _ _ => true
  | .kstat _ _ _ _ => true
  | .fpush _ _ _ _ => true
  | .fpop _ _ _ => true
  | .fpeek _ _ _ => true
  | .fstat _ _ _ => true
  | .pland _ _ _ _ => true
  | .pcnt _ _ _ => true
  | .pwait _ _ _ _ => true
  | .pcancel _ _ _ => true
  | .syncC _ _ _ _ => true
  | .syncX _ _ _ => true
  | .xmit _ _ _ => true
  | .xsel _ _ _ _ => true
  | .ssrd _ _ _ => true
  | .ulog _ _ _ _ => true
  | .facq _ _ _ _ _ => true
  | .fsur _ _ _ => true
  | .fans _ _ => true
  | .frel _ _ _ => true
  | .frecall _ _ _ => true
  | .cwr _ _ _ _ => true
  | .cclr _ _ _ _ => true
  | .clrn _ _ _ _ => true
  | .cdec _ _ _ _ => true
  | .cback _ _ _ _ => true
  | .cprop _ _ _ _ => true
  | .ctrail _ _ _ _ => true
  | .cval _ _ _ _ => true
  | .cconf _ _ _ _ => true
  | .launch _ _ _ => true
  | .hstart _ _ _ _ => true
  | .hexit _ => true
  | .hjoin _ _ => true
  | .gdone _ _ _ _ => true
  | .schsel _ _ _ _ => true
  | .trap _ _ => true
  | .eret _ => true
  | .halt _ _ _ => true
  | .yield _ => true
  | .srr _ _ _ => true
  | .srw _ _ _ => true
  | .wrd _ _ _ _ => true
  | .wwr _ _ _ _ => true
  | .wres _ _ _ _ => true
  | .gen _ _ _ => true
  | .tlbi _ _ _ _ => true
  | .scrub _ _ _ => true
  | .rpt _ _ _ _ _ => true
  | .pfx _ _ _ _ _ => true
  | .mtileExpansion => true
  | .illegalWordHalt => true
  | .fetchFault => true
  | .inOrderCheck => true
  | .resultArrival => true
  | .storeAcknowledgement => true
  | .trapEntry => true
  | .interrupt => true
  | .timerCompare => true
  | .tcmpWrite => true
  | .ipendWrite => true
  | .translationWalk => true
  | .globalAccessAtSlice => true
  | .releaseDepart => true
  | .watchArrival => true
  | .atomicAtSlice => true
  | .reductionAtSlice => true
  | .barrierArrival => true
  | .vectorEntryBegin => true
  | .gatheringPointBegin => true
  | .vectorEntryRetire => true
  | .matrixEntryBegin => true
  | .matrixEntryCompletion => true
  | .keyedOperationAccept => true
  | .combiningBufferWrite => true
  | .splitStep => true
  | .facetMigration => true
  | .mapUnitSurrender => true
  | .copy => true
  | .copyl => true
  | .gather => true
  | .gpre => true
  | .hotset => true
  | .codecCompress => true
  | .codecExpand => true
  | .codecBlockEncode => true
  | .codecBlockDecode => true
  | .pbcast => true
  | .pgather => true
  | .prscat => true
  | .prelay => true
  | .commandCompletion => true
  | .engineBlockSurrender => true
  | .sectionArrival => true
  | .prscatChunkArrival => true
  | .cancelAtRouter => true
  | .syncCRelease => true
  | .syncXRelease => true
  | .exchangeWordArrival => true
  | .exchangeTimeout => true
  | .uncorrectableError => true
  | .rollback => true
  | .viralEntry => true
  | .arbitration => true
  | .routineEntry => true
  | .routineOverrun => true
  | .finishDeadline => true
  | .clauseOperationAtArray => true
  | .gangStart => true
  | .switchOut => true
  | .preemptionStamp => true
  | .resume => true
  | .kill => true
  | .gangCompletion => true
  | .cycleBudgetExpiry => true
  | .debugHaltLanding => true
  | .ipost => true
  | .traceStart => true
  | .traceArm => true
  | .traceStamp => true
  | .traceStop => true
  | .traceEnd => true
  | .injectScalar => true
  | .injectVector => true
  | .injectMatrix => true
  | .hostMemoryAccess => true
  | .hostCommand => true
  | .warmReset => true
  | .coldReset => true
  | .plimWrite => true
  | .tenantChange => true
  | .notifyRegister => true
  | .quoteRequest => true
  | .flitReceive => true
  | .replayTimeout => true
  | .laneFailure => true
  | .portRetrainDone => true
  | .remoteRequest => true
  | .hbmScrubPass => true
  | .powerSample => true
  | .startUp => true
  | .startFailedReset => true
  | .portReset => true
  | .resumeStamp => true
  | .bootRecordPinWrite => true

/-- No field holds a reserved value (cause 4). -/
def Instr.valuesOk : Instr → Bool
  | .add _ _ _ _ => true
  | .sub _ _ _ _ => true
  | .and _ _ _ _ => true
  | .or _ _ _ _ => true
  | .xor _ _ _ _ => true
  | .andn _ _ _ _ => true
  | .shl _ _ _ _ => true
  | .shr _ _ _ _ => true
  | .sar _ _ _ _ => true
  | .rot _ _ _ _ => true
  | .min _ _ _ _ => true
  | .minc _ _ _ _ => true
  | .max _ _ _ _ => true
  | .maxc _ _ _ _ => true
  | .sel _ _ _ _ => true
  | .mul _ _ _ _ => true
  | .mulh _ _ _ _ => true
  | .mulhc _ _ _ _ => true
  | .div _ _ _ _ => true
  | .divc _ _ _ _ => true
  | .rem _ _ _ _ => true
  | .remc _ _ _ _ => true
  | .clz _ _ _ => true
  | .ctz _ _ _ => true
  | .popc _ _ _ => true
  | .bswap _ _ _ => true
  | .mov _ _ _ => true
  | .cmp _ _ _ _ c => c.toNat ≤ 5
  | .addi _ _ _ _ => true
  | .andi _ _ _ _ => true
  | .ori _ _ _ _ => true
  | .xori _ _ _ _ => true
  | .shli _ _ _ _ => true
  | .shri _ _ _ _ => true
  | .sari _ _ _ _ => true
  | .li _ _ _ => true
  | .lsh _ _ _ => true
  | .br _ _ c _ => c.toNat ≤ 5
  | .bcEq _ _ _ _ => true
  | .bcNe _ _ _ _ => true
  | .bcLt _ _ _ _ => true
  | .bcLtc _ _ _ _ => true
  | .bcLe _ _ _ _ => true
  | .bcLec _ _ _ _ => true
  | .j _ _ => true
  | .jal _ _ => true
  | .jr _ _ _ => true
  | .stall _ _ => true
  | .fadd _ _ _ _ => true
  | .fsub _ _ _ _ => true
  | .fmul _ _ _ _ => true
  | .fdiv _ _ _ _ => true
  | .fsqrt _ _ _ => true
  | .fmin _ _ _ _ => true
  | .fmax _ _ _ _ => true
  | .fneg _ _ _ => true
  | .fclass _ _ _ => true
  | .fma _ _ _ _ => true
  | .fcmp _ _ _ _ c => c.toNat ≤ 4
  | .cvt _ _ _ => true
  | .bxenc _ _ _ _ => true
  | .bxdec _ _ _ _ => true
  | .bxexp _ _ _ => true
  | .ld _ _ _ _ => true
  | .st _ _ _ _ => true
  | .ldx _ _ _ _ => true
  | .stx _ _ _ _ => true
  | .ldg _ _ _ _ => true
  | .stg _ _ _ _ => true
  | .ldgAcq _ _ _ c => c.toNat ≤ 4
  | .stgRel _ _ _ c => c.toNat ≤ 4
  | .lsr _ _ _ _ p => p != 7
  | .pref _ _ => true
  | .waitc _ _ k => k.toNat ≤ 4
  | .waitv _ _ _ => true
  | .wbk _ _ => true
  | .ldgx _ _ _ _ => true
  | .aadd _ _ _ o c l => orderOk o c l
  | .aand _ _ _ o c l => orderOk o c l
  | .aor _ _ _ o c l => orderOk o c l
  | .axor _ _ _ o c l => orderOk o c l
  | .amin _ _ _ o c l => orderOk o c l
  | .amax _ _ _ o c l => orderOk o c l
  | .aswp _ _ _ o c l => orderOk o c l
  | .acas _ _ _ o c l => orderOk o c l
  | .aincw _ _ _ o c l => orderOk o c l
  | .abadd _ _ _ o c l => orderOk o c l
  | .red _ _ _ x o c => x.toNat ≤ 5 && o.toNat % 2 == 0 && orderOk o c 0
  | .barm _ _ _ => true
  | .bwait _ _ _ _ => true
  | .vadd _ _ _ _ _ => true
  | .vsub _ _ _ _ _ => true
  | .vmul _ _ _ _ _ => true
  | .vfma _ _ _ _ _ => true
  | .vmin _ _ _ _ _ => true
  | .vmax _ _ _ _ _ => true
  | .vabs _ _ _ => true
  | .vneg _ _ _ => true
  | .vand _ _ _ _ _ => true
  | .vor _ _ _ _ _ => true
  | .vxor _ _ _ _ _ => true
  | .vshl _ _ _ _ _ => true
  | .vshr _ _ _ _ _ => true
  | .vsar _ _ _ _ _ => true
  | .vcmp _ _ _ _ _ m => m != 7
  | .vsel _ _ _ _ _ => true
  | .vcvt _ _ _ => true
  | .vperm _ _ _ _ _ => true
  | .vbcast _ _ _ => true
  | .vred _ _ _ _ m => m.toNat ≤ 5
  | .vscan _ _ _ _ m => m.toNat ≤ 5
  | .vld _ _ _ _ k m => if k == 1 then m == 0 else m != 7
  | .vst _ _ _ _ k m => if k == 1 then m == 0 else m != 7
  | .vldx _ _ _ _ => true
  | .vstx _ _ _ _ => true
  | .vidx _ _ _ _ _ => true
  | .vsetvl _ _ _ => true
  | .vmovsWrite _ _ _ _ => true
  | .vmovsRead _ _ _ _ => true
  | .vrcp _ _ _ => true
  | .vrsqrt _ _ _ => true
  | .vexp2 _ _ _ => true
  | .vdot4 _ _ _ _ => true
  | .mma _ c _ _ x p m => (x == 0 || c.toNat % 2 == 0) && (m == 0 || p == 1)
  | .mmr _ c _ _ x => x == 0 || c.toNat % 2 == 0
  | .mtile _ _ _ _ _ => true
  | .mzero _ c p => p == 0 || c.toNat % 2 == 0
  | .mrd _ _ _ c p => p == 0 || c.toNat % 2 == 0
  | .mwr _ _ _ c p => p == 0 || c.toNat % 2 == 0
  | .msk _ _ => true
  | .mcommit _ _ => true
  | .mwaitb _ _ => true
  | .mstat _ _ _ => true
  | .kprobe _ _ _ _ => true
  | .kins _ _ _ _ => true
  | .kups _ _ _ _ => true
  | .krem _ _ _ _ => true
  | .knew _ _ _ _ => true
  | .kdel _ _ _ => true
  | .kpub _ _ _ _ => true
  | .kcfg _ _ _ _ => true
  | .kiter _ _ _ _ => true
  | .kstat _ _ _ _ => true
  | .fpush _ _ _ f => f.toNat ≤ 3 || f.toNat == 5
  | .fpop _ _ f => f.toNat ≤ 3 || f.toNat == 5 || f.toNat == 15
  | .fpeek _ _ f => f.toNat ≤ 3 || f.toNat == 5 || f.toNat == 15
  | .fstat _ _ f => f.toNat ≤ 3 || f.toNat == 5 || f.toNat == 15
  | .pland _ _ _ _ => true
  | .pcnt _ _ _ => true
  | .pwait _ _ _ _ => true
  | .pcancel _ _ _ => true
  | .syncC _ _ _ _ => true
  | .syncX _ _ _ => true
  | .xmit _ _ _ => true
  | .xsel _ _ _ _ => true
  | .ssrd _ _ _ => true
  | .ulog _ _ _ o => o != 3
  | .facq _ _ _ c _ => c != 3
  | .fsur _ _ _ => true
  | .fans _ n => n != 3
  | .frel _ _ _ => true
  | .frecall _ _ _ => true
  | .cwr _ _ _ _ => true
  | .cclr _ _ _ _ => true
  | .clrn _ _ _ _ => true
  | .cdec _ _ _ _ => true
  | .cback _ _ _ _ => true
  | .cprop _ _ _ _ => true
  | .ctrail _ _ _ _ => true
  | .cval _ _ _ _ => true
  | .cconf _ _ _ _ => true
  | .launch _ _ _ => true
  | .hstart _ _ _ _ => true
  | .hexit _ => true
  | .hjoin _ _ => true
  | .gdone _ _ _ m => m != 3
  | .schsel _ _ _ _ => true
  | .trap _ _ => true
  | .eret _ => true
  | .halt _ _ _ => true
  | .yield _ => true
  | .srr _ _ n => sysregOk n
  | .srw _ _ n => sysregOk n
  | .wrd _ _ _ _ => true
  | .wwr _ _ _ _ => true
  | .wres _ _ _ _ => true
  | .gen _ _ _ => true
  | .tlbi _ _ _ _ => true
  | .scrub _ _ _ => true
  | .rpt _ _ _ _ _ => true
  | .pfx _ _ _ d r => d != 15 && r != 3
  | .mtileExpansion => true
  | .illegalWordHalt => true
  | .fetchFault => true
  | .inOrderCheck => true
  | .resultArrival => true
  | .storeAcknowledgement => true
  | .trapEntry => true
  | .interrupt => true
  | .timerCompare => true
  | .tcmpWrite => true
  | .ipendWrite => true
  | .translationWalk => true
  | .globalAccessAtSlice => true
  | .releaseDepart => true
  | .watchArrival => true
  | .atomicAtSlice => true
  | .reductionAtSlice => true
  | .barrierArrival => true
  | .vectorEntryBegin => true
  | .gatheringPointBegin => true
  | .vectorEntryRetire => true
  | .matrixEntryBegin => true
  | .matrixEntryCompletion => true
  | .keyedOperationAccept => true
  | .combiningBufferWrite => true
  | .splitStep => true
  | .facetMigration => true
  | .mapUnitSurrender => true
  | .copy => true
  | .copyl => true
  | .gather => true
  | .gpre => true
  | .hotset => true
  | .codecCompress => true
  | .codecExpand => true
  | .codecBlockEncode => true
  | .codecBlockDecode => true
  | .pbcast => true
  | .pgather => true
  | .prscat => true
  | .prelay => true
  | .commandCompletion => true
  | .engineBlockSurrender => true
  | .sectionArrival => true
  | .prscatChunkArrival => true
  | .cancelAtRouter => true
  | .syncCRelease => true
  | .syncXRelease => true
  | .exchangeWordArrival => true
  | .exchangeTimeout => true
  | .uncorrectableError => true
  | .rollback => true
  | .viralEntry => true
  | .arbitration => true
  | .routineEntry => true
  | .routineOverrun => true
  | .finishDeadline => true
  | .clauseOperationAtArray => true
  | .gangStart => true
  | .switchOut => true
  | .preemptionStamp => true
  | .resume => true
  | .kill => true
  | .gangCompletion => true
  | .cycleBudgetExpiry => true
  | .debugHaltLanding => true
  | .ipost => true
  | .traceStart => true
  | .traceArm => true
  | .traceStamp => true
  | .traceStop => true
  | .traceEnd => true
  | .injectScalar => true
  | .injectVector => true
  | .injectMatrix => true
  | .hostMemoryAccess => true
  | .hostCommand => true
  | .warmReset => true
  | .coldReset => true
  | .plimWrite => true
  | .tenantChange => true
  | .notifyRegister => true
  | .quoteRequest => true
  | .flitReceive => true
  | .replayTimeout => true
  | .laneFailure => true
  | .portRetrainDone => true
  | .remoteRequest => true
  | .hbmScrubPass => true
  | .powerSample => true
  | .startUp => true
  | .startFailedReset => true
  | .portReset => true
  | .resumeStamp => true
  | .bootRecordPinWrite => true

/-- Every destination field holds a destination code (cause 5). -/
def Instr.codesOk : Instr → Bool
  | .add _ d _ _ => destOk d
  | .sub _ d _ _ => destOk d
  | .and _ d _ _ => destOk d
  | .or _ d _ _ => destOk d
  | .xor _ d _ _ => destOk d
  | .andn _ d _ _ => destOk d
  | .shl _ d _ _ => destOk d
  | .shr _ d _ _ => destOk d
  | .sar _ d _ _ => destOk d
  | .rot _ d _ _ => destOk d
  | .min _ d _ _ => destOk d
  | .minc _ d _ _ => destOk d
  | .max _ d _ _ => destOk d
  | .maxc _ d _ _ => destOk d
  | .sel _ d _ _ => destOk d
  | .mul _ d _ _ => destOk d
  | .mulh _ d _ _ => destOk d
  | .mulhc _ d _ _ => destOk d
  | .div _ d _ _ => destOk d
  | .divc _ d _ _ => destOk d
  | .rem _ d _ _ => destOk d
  | .remc _ d _ _ => destOk d
  | .clz _ d _ => destOk d
  | .ctz _ d _ => destOk d
  | .popc _ d _ => destOk d
  | .bswap _ d _ => destOk d
  | .mov _ d _ => destOk d
  | .cmp _ d _ _ _ => destOk d
  | .addi _ d _ _ => destOk d
  | .andi _ d _ _ => destOk d
  | .ori _ d _ _ => destOk d
  | .xori _ d _ _ => destOk d
  | .shli _ d _ _ => destOk d
  | .shri _ d _ _ => destOk d
  | .sari _ d _ _ => destOk d
  | .li _ d _ => destOk d
  | .lsh _ d _ => destOk d
  | .br _ _ _ _ => true
  | .bcEq _ _ _ _ => true
  | .bcNe _ _ _ _ => true
  | .bcLt _ _ _ _ => true
  | .bcLtc _ _ _ _ => true
  | .bcLe _ _ _ _ => true
  | .bcLec _ _ _ _ => true
  | .j _ _ => true
  | .jal _ _ => true
  | .jr _ d _ => destOk d
  | .stall _ _ => true
  | .fadd _ d _ _ => destOk d
  | .fsub _ d _ _ => destOk d
  | .fmul _ d _ _ => destOk d
  | .fdiv _ d _ _ => destOk d
  | .fsqrt _ d _ => destOk d
  | .fmin _ d _ _ => destOk d
  | .fmax _ d _ _ => destOk d
  | .fneg _ d _ => destOk d
  | .fclass _ d _ => destOk d
  | .fma _ d _ _ => destOk d
  | .fcmp _ d _ _ _ => destOk d
  | .cvt _ d _ => destOk d
  | .bxenc _ d _ _ => destOk d
  | .bxdec _ d _ _ => destOk d
  | .bxexp _ d _ => destOk d
  | .ld _ d _ _ => destOk d
  | .st _ _ _ _ => true
  | .ldx _ d _ _ => destOk d
  | .stx _ _ _ _ => true
  | .ldg _ d _ _ => destOk d
  | .stg _ _ _ _ => true
  | .ldgAcq _ d _ _ => destOk d
  | .stgRel _ _ _ _ => true
  | .lsr _ _ _ _ _ => true
  | .pref _ _ => true
  | .waitc _ _ _ => true
  | .waitv _ _ _ => true
  | .wbk _ _ => true
  | .ldgx _ d _ _ => destOk d
  | .aadd _ d _ _ _ _ => destOk d
  | .aand _ d _ _ _ _ => destOk d
  | .aor _ d _ _ _ _ => destOk d
  | .axor _ d _ _ _ _ => destOk d
  | .amin _ d _ _ _ _ => destOk d
  | .amax _ d _ _ _ _ => destOk d
  | .aswp _ d _ _ _ _ => destOk d
  | .acas _ d _ _ _ _ => destOk d
  | .aincw _ d _ _ _ _ => destOk d
  | .abadd _ d _ _ _ _ => destOk d
  | .red _ _ _ _ _ _ => true
  | .barm _ d _ => destOk d
  | .bwait _ d _ _ => destOk d
  | .vadd _ _ _ _ _ => true
  | .vsub _ _ _ _ _ => true
  | .vmul _ _ _ _ _ => true
  | .vfma _ _ _ _ _ => true
  | .vmin _ _ _ _ _ => true
  | .vmax _ _ _ _ _ => true
  | .vabs _ _ _ => true
  | .vneg _ _ _ => true
  | .vand _ _ _ _ _ => true
  | .vor _ _ _ _ _ => true
  | .vxor _ _ _ _ _ => true
  | .vshl _ _ _ _ _ => true
  | .vshr _ _ _ _ _ => true
  | .vsar _ _ _ _ _ => true
  | .vcmp _ _ _ _ _ _ => true
  | .vsel _ _ _ _ _ => true
  | .vcvt _ _ _ => true
  | .vperm _ _ _ _ _ => true
  | .vbcast _ _ _ => true
  | .vred _ _ _ _ _ => true
  | .vscan _ _ _ _ _ => true
  | .vld _ _ _ _ _ _ => true
  | .vst _ _ _ _ _ _ => true
  | .vldx _ _ _ _ => true
  | .vstx _ _ _ _ => true
  | .vidx _ _ _ _ _ => true
  | .vsetvl _ d _ => destOk d
  | .vmovsWrite _ _ _ _ => true
  | .vmovsRead _ d _ _ => destOk d
  | .vrcp _ _ _ => true
  | .vrsqrt _ _ _ => true
  | .vexp2 _ _ _ => true
  | .vdot4 _ _ _ _ => true
  | .mma _ _ _ _ _ _ _ => true
  | .mmr _ _ _ _ _ => true
  | .mtile _ _ _ _ _ => true
  | .mzero _ _ _ => true
  | .mrd _ _ _ _ _ => true
  | .mwr _ _ _ _ _ => true
  | .msk _ _ => true
  | .mcommit _ d => destOk d
  | .mwaitb _ _ => true
  | .mstat _ d _ => destOk d
  | .kprobe _ d _ e => destOk d && destOk e
  | .kins _ d _ e => destOk d && destOk e
  | .kups _ d _ e => destOk d && destOk e
  | .krem _ d _ e => destOk d && destOk e
  | .knew _ d _ _ => destOk d
  | .kdel _ d _ => destOk d
  | .kpub _ d _ _ => destOk d
  | .kcfg _ d _ _ => destOk d
  | .kiter _ d _ _ => destOk d
  | .kstat _ d _ _ => destOk d
  | .fpush _ d _ _ => destOk d
  | .fpop _ d _ => destOk d
  | .fpeek _ d _ => destOk d
  | .fstat _ d _ => destOk d
  | .pland _ d _ _ => destOk d
  | .pcnt _ d _ => destOk d
  | .pwait _ d _ _ => destOk d
  | .pcancel _ d _ => destOk d
  | .syncC _ d _ _ => destOk d
  | .syncX _ d _ => destOk d
  | .xmit _ _ _ => true
  | .xsel _ _ _ _ => true
  | .ssrd _ d _ => destOk d
  | .ulog _ d _ _ => destOk d
  | .facq _ d _ _ _ => destOk d
  | .fsur _ d _ => destOk d
  | .fans _ _ => true
  | .frel _ d _ => destOk d
  | .frecall _ d _ => destOk d
  | .cwr _ d _ _ => destOk d
  | .cclr _ d _ _ => destOk d
  | .clrn _ d _ _ => destOk d
  | .cdec _ d _ _ => destOk d
  | .cback _ d _ _ => destOk d
  | .cprop _ d _ _ => destOk d
  | .ctrail _ d _ _ => destOk d
  | .cval _ d _ _ => destOk d
  | .cconf _ d _ _ => destOk d
  | .launch _ d _ => destOk d
  | .hstart _ d _ _ => destOk d
  | .hexit _ => true
  | .hjoin _ _ => true
  | .gdone _ d _ _ => destOk d
  | .schsel _ d _ _ => destOk d
  | .trap _ _ => true
  | .eret _ => true
  | .halt _ d _ => destOk d
  | .yield _ => true
  | .srr _ d _ => destOk d
  | .srw _ _ _ => true
  | .wrd _ d _ _ => destOk d
  | .wwr _ _ _ _ => true
  | .wres _ d _ _ => destOk d
  | .gen _ d _ => destOk d
  | .tlbi _ d _ _ => destOk d
  | .scrub _ d _ => destOk d
  | .rpt _ _ _ _ _ => true
  | .pfx _ _ _ _ _ => true
  | .mtileExpansion => true
  | .illegalWordHalt => true
  | .fetchFault => true
  | .inOrderCheck => true
  | .resultArrival => true
  | .storeAcknowledgement => true
  | .trapEntry => true
  | .interrupt => true
  | .timerCompare => true
  | .tcmpWrite => true
  | .ipendWrite => true
  | .translationWalk => true
  | .globalAccessAtSlice => true
  | .releaseDepart => true
  | .watchArrival => true
  | .atomicAtSlice => true
  | .reductionAtSlice => true
  | .barrierArrival => true
  | .vectorEntryBegin => true
  | .gatheringPointBegin => true
  | .vectorEntryRetire => true
  | .matrixEntryBegin => true
  | .matrixEntryCompletion => true
  | .keyedOperationAccept => true
  | .combiningBufferWrite => true
  | .splitStep => true
  | .facetMigration => true
  | .mapUnitSurrender => true
  | .copy => true
  | .copyl => true
  | .gather => true
  | .gpre => true
  | .hotset => true
  | .codecCompress => true
  | .codecExpand => true
  | .codecBlockEncode => true
  | .codecBlockDecode => true
  | .pbcast => true
  | .pgather => true
  | .prscat => true
  | .prelay => true
  | .commandCompletion => true
  | .engineBlockSurrender => true
  | .sectionArrival => true
  | .prscatChunkArrival => true
  | .cancelAtRouter => true
  | .syncCRelease => true
  | .syncXRelease => true
  | .exchangeWordArrival => true
  | .exchangeTimeout => true
  | .uncorrectableError => true
  | .rollback => true
  | .viralEntry => true
  | .arbitration => true
  | .routineEntry => true
  | .routineOverrun => true
  | .finishDeadline => true
  | .clauseOperationAtArray => true
  | .gangStart => true
  | .switchOut => true
  | .preemptionStamp => true
  | .resume => true
  | .kill => true
  | .gangCompletion => true
  | .cycleBudgetExpiry => true
  | .debugHaltLanding => true
  | .ipost => true
  | .traceStart => true
  | .traceArm => true
  | .traceStamp => true
  | .traceStop => true
  | .traceEnd => true
  | .injectScalar => true
  | .injectVector => true
  | .injectMatrix => true
  | .hostMemoryAccess => true
  | .hostCommand => true
  | .warmReset => true
  | .coldReset => true
  | .plimWrite => true
  | .tenantChange => true
  | .notifyRegister => true
  | .quoteRequest => true
  | .flitReceive => true
  | .replayTimeout => true
  | .laneFailure => true
  | .portRetrainDone => true
  | .remoteRequest => true
  | .hbmScrubPass => true
  | .powerSample => true
  | .startUp => true
  | .startFailedReset => true
  | .portReset => true
  | .resumeStamp => true
  | .bootRecordPinWrite => true

/-- A prefix names formats that exist (cause 6). -/
def Instr.formatsOk : Instr → Bool
  | .add _ _ _ _ => true
  | .sub _ _ _ _ => true
  | .and _ _ _ _ => true
  | .or _ _ _ _ => true
  | .xor _ _ _ _ => true
  | .andn _ _ _ _ => true
  | .shl _ _ _ _ => true
  | .shr _ _ _ _ => true
  | .sar _ _ _ _ => true
  | .rot _ _ _ _ => true
  | .min _ _ _ _ => true
  | .minc _ _ _ _ => true
  | .max _ _ _ _ => true
  | .maxc _ _ _ _ => true
  | .sel _ _ _ _ => true
  | .mul _ _ _ _ => true
  | .mulh _ _ _ _ => true
  | .mulhc _ _ _ _ => true
  | .div _ _ _ _ => true
  | .divc _ _ _ _ => true
  | .rem _ _ _ _ => true
  | .remc _ _ _ _ => true
  | .clz _ _ _ => true
  | .ctz _ _ _ => true
  | .popc _ _ _ => true
  | .bswap _ _ _ => true
  | .mov _ _ _ => true
  | .cmp _ _ _ _ _ => true
  | .addi _ _ _ _ => true
  | .andi _ _ _ _ => true
  | .ori _ _ _ _ => true
  | .xori _ _ _ _ => true
  | .shli _ _ _ _ => true
  | .shri _ _ _ _ => true
  | .sari _ _ _ _ => true
  | .li _ _ _ => true
  | .lsh _ _ _ => true
  | .br _ _ _ _ => true
  | .bcEq _ _ _ _ => true
  | .bcNe _ _ _ _ => true
  | .bcLt _ _ _ _ => true
  | .bcLtc _ _ _ _ => true
  | .bcLe _ _ _ _ => true
  | .bcLec _ _ _ _ => true
  | .j _ _ => true
  | .jal _ _ => true
  | .jr _ _ _ => true
  | .stall _ _ => true
  | .fadd _ _ _ _ => true
  | .fsub _ _ _ _ => true
  | .fmul _ _ _ _ => true
  | .fdiv _ _ _ _ => true
  | .fsqrt _ _ _ => true
  | .fmin _ _ _ _ => true
  | .fmax _ _ _ _ => true
  | .fneg _ _ _ => true
  | .fclass _ _ _ => true
  | .fma _ _ _ _ => true
  | .fcmp _ _ _ _ _ => true
  | .cvt _ _ _ => true
  | .bxenc _ _ _ _ => true
  | .bxdec _ _ _ _ => true
  | .bxexp _ _ _ => true
  | .ld _ _ _ _ => true
  | .st _ _ _ _ => true
  | .ldx _ _ _ _ => true
  | .stx _ _ _ _ => true
  | .ldg _ _ _ _ => true
  | .stg _ _ _ _ => true
  | .ldgAcq _ _ _ _ => true
  | .stgRel _ _ _ _ => true
  | .lsr _ _ _ _ _ => true
  | .pref _ _ => true
  | .waitc _ _ _ => true
  | .waitv _ _ _ => true
  | .wbk _ _ => true
  | .ldgx _ _ _ _ => true
  | .aadd _ _ _ _ _ _ => true
  | .aand _ _ _ _ _ _ => true
  | .aor _ _ _ _ _ _ => true
  | .axor _ _ _ _ _ _ => true
  | .amin _ _ _ _ _ _ => true
  | .amax _ _ _ _ _ _ => true
  | .aswp _ _ _ _ _ _ => true
  | .acas _ _ _ _ _ _ => true
  | .aincw _ _ _ _ _ _ => true
  | .abadd _ _ _ _ _ _ => true
  | .red _ _ _ _ _ _ => true
  | .barm _ _ _ => true
  | .bwait _ _ _ _ => true
  | .vadd _ _ _ _ _ => true
  | .vsub _ _ _ _ _ => true
  | .vmul _ _ _ _ _ => true
  | .vfma _ _ _ _ _ => true
  | .vmin _ _ _ _ _ => true
  | .vmax _ _ _ _ _ => true
  | .vabs _ _ _ => true
  | .vneg _ _ _ => true
  | .vand _ _ _ _ _ => true
  | .vor _ _ _ _ _ => true
  | .vxor _ _ _ _ _ => true
  | .vshl _ _ _ _ _ => true
  | .vshr _ _ _ _ _ => true
  | .vsar _ _ _ _ _ => true
  | .vcmp _ _ _ _ _ _ => true
  | .vsel _ _ _ _ _ => true
  | .vcvt _ _ _ => true
  | .vperm _ _ _ _ _ => true
  | .vbcast _ _ _ => true
  | .vred _ _ _ _ _ => true
  | .vscan _ _ _ _ _ => true
  | .vld _ _ _ _ _ _ => true
  | .vst _ _ _ _ _ _ => true
  | .vldx _ _ _ _ => true
  | .vstx _ _ _ _ => true
  | .vidx _ _ _ _ _ => true
  | .vsetvl _ _ _ => true
  | .vmovsWrite _ _ _ _ => true
  | .vmovsRead _ _ _ _ => true
  | .vrcp _ _ _ => true
  | .vrsqrt _ _ _ => true
  | .vexp2 _ _ _ => true
  | .vdot4 _ _ _ _ => true
  | .mma _ _ _ _ _ _ _ => true
  | .mmr _ _ _ _ _ => true
  | .mtile _ _ _ _ _ => true
  | .mzero _ _ _ => true
  | .mrd _ _ _ _ _ => true
  | .mwr _ _ _ _ _ => true
  | .msk _ _ => true
  | .mcommit _ _ => true
  | .mwaitb _ _ => true
  | .mstat _ _ _ => true
  | .kprobe _ _ _ _ => true
  | .kins _ _ _ _ => true
  | .kups _ _ _ _ => true
  | .krem _ _ _ _ => true
  | .knew _ _ _ _ => true
  | .kdel _ _ _ => true
  | .kpub _ _ _ _ => true
  | .kcfg _ _ _ _ => true
  | .kiter _ _ _ _ => true
  | .kstat _ _ _ _ => true
  | .fpush _ _ _ _ => true
  | .fpop _ _ _ => true
  | .fpeek _ _ _ => true
  | .fstat _ _ _ => true
  | .pland _ _ _ _ => true
  | .pcnt _ _ _ => true
  | .pwait _ _ _ _ => true
  | .pcancel _ _ _ => true
  | .syncC _ _ _ _ => true
  | .syncX _ _ _ => true
  | .xmit _ _ _ => true
  | .xsel _ _ _ _ => true
  | .ssrd _ _ _ => true
  | .ulog _ _ _ _ => true
  | .facq _ _ _ _ _ => true
  | .fsur _ _ _ => true
  | .fans _ _ => true
  | .frel _ _ _ => true
  | .frecall _ _ _ => true
  | .cwr _ _ _ _ => true
  | .cclr _ _ _ _ => true
  | .clrn _ _ _ _ => true
  | .cdec _ _ _ _ => true
  | .cback _ _ _ _ => true
  | .cprop _ _ _ _ => true
  | .ctrail _ _ _ _ => true
  | .cval _ _ _ _ => true
  | .cconf _ _ _ _ => true
  | .launch _ _ _ => true
  | .hstart _ _ _ _ => true
  | .hexit _ => true
  | .hjoin _ _ => true
  | .gdone _ _ _ _ => true
  | .schsel _ _ _ _ => true
  | .trap _ _ => true
  | .eret _ => true
  | .halt _ _ _ => true
  | .yield _ => true
  | .srr _ _ _ => true
  | .srw _ _ _ => true
  | .wrd _ _ _ _ => true
  | .wwr _ _ _ _ => true
  | .wres _ _ _ _ => true
  | .gen _ _ _ => true
  | .tlbi _ _ _ _ => true
  | .scrub _ _ _ => true
  | .rpt _ _ _ _ _ => true
  | .pfx _ a b _ _ => sourceFormatOk a && sourceFormatOk b
  | .mtileExpansion => true
  | .illegalWordHalt => true
  | .fetchFault => true
  | .inOrderCheck => true
  | .resultArrival => true
  | .storeAcknowledgement => true
  | .trapEntry => true
  | .interrupt => true
  | .timerCompare => true
  | .tcmpWrite => true
  | .ipendWrite => true
  | .translationWalk => true
  | .globalAccessAtSlice => true
  | .releaseDepart => true
  | .watchArrival => true
  | .atomicAtSlice => true
  | .reductionAtSlice => true
  | .barrierArrival => true
  | .vectorEntryBegin => true
  | .gatheringPointBegin => true
  | .vectorEntryRetire => true
  | .matrixEntryBegin => true
  | .matrixEntryCompletion => true
  | .keyedOperationAccept => true
  | .combiningBufferWrite => true
  | .splitStep => true
  | .facetMigration => true
  | .mapUnitSurrender => true
  | .copy => true
  | .copyl => true
  | .gather => true
  | .gpre => true
  | .hotset => true
  | .codecCompress => true
  | .codecExpand => true
  | .codecBlockEncode => true
  | .codecBlockDecode => true
  | .pbcast => true
  | .pgather => true
  | .prscat => true
  | .prelay => true
  | .commandCompletion => true
  | .engineBlockSurrender => true
  | .sectionArrival => true
  | .prscatChunkArrival => true
  | .cancelAtRouter => true
  | .syncCRelease => true
  | .syncXRelease => true
  | .exchangeWordArrival => true
  | .exchangeTimeout => true
  | .uncorrectableError => true
  | .rollback => true
  | .viralEntry => true
  | .arbitration => true
  | .routineEntry => true
  | .routineOverrun => true
  | .finishDeadline => true
  | .clauseOperationAtArray => true
  | .gangStart => true
  | .switchOut => true
  | .preemptionStamp => true
  | .resume => true
  | .kill => true
  | .gangCompletion => true
  | .cycleBudgetExpiry => true
  | .debugHaltLanding => true
  | .ipost => true
  | .traceStart => true
  | .traceArm => true
  | .traceStamp => true
  | .traceStop => true
  | .traceEnd => true
  | .injectScalar => true
  | .injectVector => true
  | .injectMatrix => true
  | .hostMemoryAccess => true
  | .hostCommand => true
  | .warmReset => true
  | .coldReset => true
  | .plimWrite => true
  | .tenantChange => true
  | .notifyRegister => true
  | .quoteRequest => true
  | .flitReceive => true
  | .replayTimeout => true
  | .laneFailure => true
  | .portRetrainDone => true
  | .remoteRequest => true
  | .hbmScrubPass => true
  | .powerSample => true
  | .startUp => true
  | .startFailedReset => true
  | .portReset => true
  | .resumeStamp => true
  | .bootRecordPinWrite => true

/-- The field rules, all together. -/
def Instr.WellFormed (i : Instr) : Bool := i.bitsOk && i.valuesOk && i.codesOk && i.formatsOk

end Sys2Proof
end

