-- ==== Sys2Proof/Decode.lean ====
section
/-! DEFINITION. Reading an instruction word (R24 to R51) and writing one.  A word is read by its major opcode and
sub-function; a bit that the row fixes and the word does not hold as fixed is a reserved bit or a reserved value; the
field checks of WellFormed follow.  The first cause that applies names the refusal (R51). -/
namespace Sys2Proof

/-- The `n` bits of a word from bit `lo` up (R27). -/
def Code.get (w : Code) (lo n : Nat) : BitVec n := BitVec.ofNat n (w.toNat / 2 ^ lo)

/-- The 12-bit register number of srr and srw, split over bits 15:10 and 5:0 (R372). -/
def Code.num (w : Code) : BitVec 12 := BitVec.ofNat 12 (w.toNat / 2 ^ 10 % 64 * 64 + w.toNat % 64)

/-- Major 0x00, selected by fn. -/
def build00 (w : Code) : Option Instr :=
  match (w.get 0 4).toNat with
  | 0 => some (.add (w.get 29 3) (w.get 16 6) (w.get 10 6) (w.get 4 6))
  | 1 => some (.sub (w.get 29 3) (w.get 16 6) (w.get 10 6) (w.get 4 6))
  | 2 => some (.and (w.get 29 3) (w.get 16 6) (w.get 10 6) (w.get 4 6))
  | 3 => some (.or (w.get 29 3) (w.get 16 6) (w.get 10 6) (w.get 4 6))
  | 4 => some (.xor (w.get 29 3) (w.get 16 6) (w.get 10 6) (w.get 4 6))
  | 5 => some (.andn (w.get 29 3) (w.get 16 6) (w.get 10 6) (w.get 4 6))
  | 6 => some (.shl (w.get 29 3) (w.get 16 6) (w.get 10 6) (w.get 4 6))
  | 7 => some (.shr (w.get 29 3) (w.get 16 6) (w.get 10 6) (w.get 4 6))
  | 8 => some (.sar (w.get 29 3) (w.get 16 6) (w.get 10 6) (w.get 4 6))
  | 9 => some (.rot (w.get 29 3) (w.get 16 6) (w.get 10 6) (w.get 4 6))
  | 10 => some (.min (w.get 29 3) (w.get 16 6) (w.get 10 6) (w.get 4 6))
  | 11 => some (.minc (w.get 29 3) (w.get 16 6) (w.get 10 6) (w.get 4 6))
  | 12 => some (.max (w.get 29 3) (w.get 16 6) (w.get 10 6) (w.get 4 6))
  | 13 => some (.maxc (w.get 29 3) (w.get 16 6) (w.get 10 6) (w.get 4 6))
  | 14 => some (.sel (w.get 29 3) (w.get 16 6) (w.get 10 6) (w.get 4 6))
  | _ => none

/-- Major 0x01, selected by fn. -/
def build01 (w : Code) : Option Instr :=
  match (w.get 0 4).toNat with
  | 0 => some (.mul (w.get 29 3) (w.get 16 6) (w.get 10 6) (w.get 4 6))
  | 1 => some (.mulh (w.get 29 3) (w.get 16 6) (w.get 10 6) (w.get 4 6))
  | 2 => some (.mulhc (w.get 29 3) (w.get 16 6) (w.get 10 6) (w.get 4 6))
  | 3 => some (.div (w.get 29 3) (w.get 16 6) (w.get 10 6) (w.get 4 6))
  | 4 => some (.divc (w.get 29 3) (w.get 16 6) (w.get 10 6) (w.get 4 6))
  | 5 => some (.rem (w.get 29 3) (w.get 16 6) (w.get 10 6) (w.get 4 6))
  | 6 => some (.remc (w.get 29 3) (w.get 16 6) (w.get 10 6) (w.get 4 6))
  | 7 => some (.clz (w.get 29 3) (w.get 16 6) (w.get 10 6))
  | 8 => some (.ctz (w.get 29 3) (w.get 16 6) (w.get 10 6))
  | 9 => some (.popc (w.get 29 3) (w.get 16 6) (w.get 10 6))
  | 10 => some (.bswap (w.get 29 3) (w.get 16 6) (w.get 10 6))
  | 11 => some (.mov (w.get 29 3) (w.get 16 6) (w.get 10 6))
  | _ => none

/-- Major 0x19, selected by fn. -/
def build19 (w : Code) : Option Instr :=
  match (w.get 0 4).toNat with
  | 0 => some (.jr (w.get 29 3) (w.get 16 6) (w.get 10 6))
  | _ => none

/-- Major 0x1B, selected by fn. -/
def build1B (w : Code) : Option Instr :=
  match (w.get 0 4).toNat with
  | 0 => some (.fadd (w.get 29 3) (w.get 16 6) (w.get 10 6) (w.get 4 6))
  | 1 => some (.fsub (w.get 29 3) (w.get 16 6) (w.get 10 6) (w.get 4 6))
  | 2 => some (.fmul (w.get 29 3) (w.get 16 6) (w.get 10 6) (w.get 4 6))
  | 3 => some (.fdiv (w.get 29 3) (w.get 16 6) (w.get 10 6) (w.get 4 6))
  | 4 => some (.fsqrt (w.get 29 3) (w.get 16 6) (w.get 10 6))
  | 5 => some (.fmin (w.get 29 3) (w.get 16 6) (w.get 10 6) (w.get 4 6))
  | 6 => some (.fmax (w.get 29 3) (w.get 16 6) (w.get 10 6) (w.get 4 6))
  | 7 => some (.fneg (w.get 29 3) (w.get 16 6) (w.get 10 6))
  | 8 => some (.fclass (w.get 29 3) (w.get 16 6) (w.get 10 6))
  | 9 => some (.fma (w.get 29 3) (w.get 16 6) (w.get 10 6) (w.get 4 6))
  | _ => none

/-- Major 0x1D, selected by fn. -/
def build1D (w : Code) : Option Instr :=
  match (w.get 0 4).toNat with
  | 0 => some (.cvt (w.get 29 3) (w.get 16 6) (w.get 10 6))
  | 1 => some (.bxenc (w.get 29 3) (w.get 16 6) (w.get 10 6) (w.get 4 6))
  | 2 => some (.bxdec (w.get 29 3) (w.get 16 6) (w.get 10 6) (w.get 4 6))
  | 3 => some (.bxexp (w.get 29 3) (w.get 16 6) (w.get 10 6))
  | _ => none

/-- Major 0x22, selected by fn. -/
def build22 (w : Code) : Option Instr :=
  match (w.get 0 4).toNat with
  | 0 => some (.ldx (w.get 29 3) (w.get 16 6) (w.get 10 6) (w.get 4 6))
  | _ => none

/-- Major 0x23, selected by fn. -/
def build23 (w : Code) : Option Instr :=
  match (w.get 0 4).toNat with
  | 0 => some (.stx (w.get 29 3) (w.get 16 6) (w.get 10 6) (w.get 4 6))
  | _ => none

/-- Major 0x26, selected by XF. -/
def build26 (w : Code) : Option Instr :=
  match (w.get 6 4).toNat with
  | 0 => some (.ldgAcq (w.get 29 3) (w.get 16 6) (w.get 10 6) (w.get 1 3))
  | 1 => some (.stgRel (w.get 29 3) (w.get 16 6) (w.get 10 6) (w.get 1 3))
  | _ => none

/-- Major 0x27, selected by XF. -/
def build27 (w : Code) : Option Instr :=
  match (w.get 6 4).toNat with
  | 0 => some (.lsr (w.get 29 3) (w.get 16 6) (w.get 10 6) (w.get 3 3) (w.get 0 3))
  | 1 => some (.pref (w.get 29 3) (w.get 10 6))
  | 2 => some (.waitc (w.get 29 3) (w.get 10 6) (w.get 3 3))
  | 3 => some (.waitv (w.get 29 3) (w.get 16 6) (w.get 10 6))
  | 4 => some (.wbk (w.get 29 3) (w.get 10 6))
  | 5 => some (.ldgx (w.get 29 3) (w.get 16 6) (w.get 10 6) (w.get 0 6))
  | _ => none

/-- Major 0x28, selected by XF. -/
def build28 (w : Code) : Option Instr :=
  match (w.get 6 4).toNat with
  | 0 => some (.aadd (w.get 29 3) (w.get 16 6) (w.get 10 6) (w.get 4 2) (w.get 1 3) (w.get 0 1))
  | 1 => some (.aand (w.get 29 3) (w.get 16 6) (w.get 10 6) (w.get 4 2) (w.get 1 3) (w.get 0 1))
  | 2 => some (.aor (w.get 29 3) (w.get 16 6) (w.get 10 6) (w.get 4 2) (w.get 1 3) (w.get 0 1))
  | 3 => some (.axor (w.get 29 3) (w.get 16 6) (w.get 10 6) (w.get 4 2) (w.get 1 3) (w.get 0 1))
  | 4 => some (.amin (w.get 29 3) (w.get 16 6) (w.get 10 6) (w.get 4 2) (w.get 1 3) (w.get 0 1))
  | 5 => some (.amax (w.get 29 3) (w.get 16 6) (w.get 10 6) (w.get 4 2) (w.get 1 3) (w.get 0 1))
  | 6 => some (.aswp (w.get 29 3) (w.get 16 6) (w.get 10 6) (w.get 4 2) (w.get 1 3) (w.get 0 1))
  | 7 => some (.acas (w.get 29 3) (w.get 16 6) (w.get 10 6) (w.get 4 2) (w.get 1 3) (w.get 0 1))
  | 8 => some (.aincw (w.get 29 3) (w.get 16 6) (w.get 10 6) (w.get 4 2) (w.get 1 3) (w.get 0 1))
  | 9 => some (.abadd (w.get 29 3) (w.get 16 6) (w.get 10 6) (w.get 4 2) (w.get 1 3) (w.get 0 1))
  | _ => none

/-- Major 0x2A, selected by XF. -/
def build2A (w : Code) : Option Instr :=
  match (w.get 6 4).toNat with
  | 0 => some (.barm (w.get 29 3) (w.get 16 6) (w.get 10 6))
  | 1 => some (.bwait (w.get 29 3) (w.get 16 6) (w.get 10 6) (w.get 0 6))
  | _ => none

/-- Major 0x53, selected by XF. -/
def build53 (w : Code) : Option Instr :=
  match (w.get 6 4).toNat with
  | 0 => some (.mzero (w.get 29 3) (w.get 3 3) (w.get 2 1))
  | 1 => some (.mrd (w.get 29 3) (w.get 16 6) (w.get 10 6) (w.get 3 3) (w.get 2 1))
  | 2 => some (.mwr (w.get 29 3) (w.get 16 6) (w.get 10 6) (w.get 3 3) (w.get 2 1))
  | _ => none

/-- Major 0x55, selected by XF. -/
def build55 (w : Code) : Option Instr :=
  match (w.get 6 4).toNat with
  | 0 => some (.mcommit (w.get 29 3) (w.get 16 6))
  | 1 => some (.mwaitb (w.get 29 3) (w.get 10 6))
  | 2 => some (.mstat (w.get 29 3) (w.get 16 6) (w.get 10 6))
  | _ => none

/-- Major 0x5C, selected by XF. -/
def build5C (w : Code) : Option Instr :=
  match (w.get 6 4).toNat with
  | 0 => some (.knew (w.get 29 3) (w.get 16 6) (w.get 10 6) (w.get 0 6))
  | 1 => some (.kdel (w.get 29 3) (w.get 16 6) (w.get 10 6))
  | 2 => some (.kpub (w.get 29 3) (w.get 16 6) (w.get 10 6) (w.get 0 6))
  | 3 => some (.kcfg (w.get 29 3) (w.get 16 6) (w.get 10 6) (w.get 0 6))
  | _ => none

/-- Major 0x5D, selected by XF. -/
def build5D (w : Code) : Option Instr :=
  match (w.get 6 4).toNat with
  | 0 => some (.kiter (w.get 29 3) (w.get 16 6) (w.get 10 6) (w.get 0 6))
  | 1 => some (.kstat (w.get 29 3) (w.get 16 6) (w.get 10 6) (w.get 0 6))
  | _ => none

/-- Major 0x60, selected by XF. -/
def build60 (w : Code) : Option Instr :=
  match (w.get 6 4).toNat with
  | 0 => some (.fpush (w.get 29 3) (w.get 16 6) (w.get 10 6) (w.get 0 4))
  | 1 => some (.fpop (w.get 29 3) (w.get 16 6) (w.get 0 4))
  | 2 => some (.fpeek (w.get 29 3) (w.get 16 6) (w.get 0 4))
  | 3 => some (.fstat (w.get 29 3) (w.get 16 6) (w.get 0 4))
  | _ => none

/-- Major 0x61, selected by XF. -/
def build61 (w : Code) : Option Instr :=
  match (w.get 6 4).toNat with
  | 0 => some (.pland (w.get 29 3) (w.get 16 6) (w.get 10 6) (w.get 0 4))
  | 1 => some (.pcnt (w.get 29 3) (w.get 16 6) (w.get 0 4))
  | 2 => some (.pwait (w.get 29 3) (w.get 16 6) (w.get 10 6) (w.get 0 4))
  | 3 => some (.pcancel (w.get 29 3) (w.get 16 6) (w.get 0 4))
  | _ => none

/-- Major 0x67, selected by XF. -/
def build67 (w : Code) : Option Instr :=
  match (w.get 6 4).toNat with
  | 0 => some (.ssrd (w.get 29 3) (w.get 16 6) (w.get 10 6))
  | 1 => some (.ulog (w.get 29 3) (w.get 16 6) (w.get 10 6) (w.get 0 2))
  | _ => none

/-- Major 0x69, selected by XF. -/
def build69 (w : Code) : Option Instr :=
  match (w.get 6 4).toNat with
  | 0 => some (.fsur (w.get 29 3) (w.get 16 6) (w.get 10 6))
  | 1 => some (.fans (w.get 29 3) (w.get 0 2))
  | _ => none

/-- Major 0x6A, selected by XF. -/
def build6A (w : Code) : Option Instr :=
  match (w.get 6 4).toNat with
  | 0 => some (.frel (w.get 29 3) (w.get 16 6) (w.get 10 6))
  | 1 => some (.frecall (w.get 29 3) (w.get 16 6) (w.get 10 6))
  | _ => none

/-- Major 0x6C, selected by XF. -/
def build6C (w : Code) : Option Instr :=
  match (w.get 6 4).toNat with
  | 0 => some (.cwr (w.get 29 3) (w.get 16 6) (w.get 10 6) (w.get 0 6))
  | 1 => some (.cclr (w.get 29 3) (w.get 16 6) (w.get 10 6) (w.get 0 6))
  | 2 => some (.clrn (w.get 29 3) (w.get 16 6) (w.get 10 6) (w.get 0 6))
  | _ => none

/-- Major 0x6D, selected by XF. -/
def build6D (w : Code) : Option Instr :=
  match (w.get 6 4).toNat with
  | 0 => some (.cdec (w.get 29 3) (w.get 16 6) (w.get 10 6) (w.get 0 6))
  | 1 => some (.cback (w.get 29 3) (w.get 16 6) (w.get 10 6) (w.get 0 6))
  | 2 => some (.cprop (w.get 29 3) (w.get 16 6) (w.get 10 6) (w.get 0 6))
  | _ => none

/-- Major 0x6E, selected by XF. -/
def build6E (w : Code) : Option Instr :=
  match (w.get 6 4).toNat with
  | 0 => some (.ctrail (w.get 29 3) (w.get 16 6) (w.get 10 6) (w.get 0 6))
  | 1 => some (.cval (w.get 29 3) (w.get 16 6) (w.get 10 6) (w.get 0 6))
  | 2 => some (.cconf (w.get 29 3) (w.get 16 6) (w.get 10 6) (w.get 0 6))
  | _ => none

/-- Major 0x72, selected by XF. -/
def build72 (w : Code) : Option Instr :=
  match (w.get 6 4).toNat with
  | 0 => some (.hexit (w.get 29 3))
  | 1 => some (.hjoin (w.get 29 3) (w.get 10 6))
  | _ => none

/-- Major 0x78, selected by XF. -/
def build78 (w : Code) : Option Instr :=
  match (w.get 6 4).toNat with
  | 0 => some (.trap (w.get 29 3) (w.get 0 6))
  | 1 => some (.eret (w.get 29 3))
  | 2 => some (.halt (w.get 29 3) (w.get 16 6) (w.get 10 6))
  | 3 => some (.yield (w.get 29 3))
  | _ => none

/-- Major 0x79, selected by XF. -/
def build79 (w : Code) : Option Instr :=
  match (w.get 6 4).toNat with
  | 0 => some (.srr (w.get 29 3) (w.get 16 6) (w.num))
  | 1 => some (.srw (w.get 29 3) (w.get 16 6) (w.num))
  | _ => none

/-- Major 0x7A, selected by XF. -/
def build7A (w : Code) : Option Instr :=
  match (w.get 6 4).toNat with
  | 0 => some (.wrd (w.get 29 3) (w.get 16 6) (w.get 10 6) (w.get 0 6))
  | 1 => some (.wwr (w.get 29 3) (w.get 16 6) (w.get 10 6) (w.get 0 6))
  | 2 => some (.wres (w.get 29 3) (w.get 16 6) (w.get 10 6) (w.get 0 6))
  | _ => none

/-- Major 0x7B, selected by XF. -/
def build7B (w : Code) : Option Instr :=
  match (w.get 6 4).toNat with
  | 0 => some (.gen (w.get 29 3) (w.get 16 6) (w.get 10 6))
  | 1 => some (.tlbi (w.get 29 3) (w.get 16 6) (w.get 10 6) (w.get 0 6))
  | _ => none

/-- The constructor of a word's major opcode and sub-function, its fields as the word holds them (R43 to R49); none
where the major is reserved or the sub-function unassigned.  DESIGN CHOICE (log 176): vred and vscan keep whatever vb the word has,
and nothing reads it (R176). -/
def build (w : Code) : Option Instr :=
  match (w.get 22 7).toNat with
  | 0x00 => build00 w
  | 0x01 => build01 w
  | 0x02 => if (w.get 0 4).toNat ≤ 5 then some (.cmp (w.get 29 3) (w.get 16 6) (w.get 10 6) (w.get 4 6) (w.get 0 4)) else none
  | 0x04 => some (.addi (w.get 29 3) (w.get 16 6) (w.get 10 6) (w.get 0 10))
  | 0x05 => some (.andi (w.get 29 3) (w.get 16 6) (w.get 10 6) (w.get 0 10))
  | 0x06 => some (.ori (w.get 29 3) (w.get 16 6) (w.get 10 6) (w.get 0 10))
  | 0x07 => some (.xori (w.get 29 3) (w.get 16 6) (w.get 10 6) (w.get 0 10))
  | 0x08 => some (.shli (w.get 29 3) (w.get 16 6) (w.get 10 6) (w.get 0 6))
  | 0x09 => some (.shri (w.get 29 3) (w.get 16 6) (w.get 10 6) (w.get 0 6))
  | 0x0A => some (.sari (w.get 29 3) (w.get 16 6) (w.get 10 6) (w.get 0 6))
  | 0x0B => some (.li (w.get 29 3) (w.get 16 6) (w.get 0 16))
  | 0x0C => some (.lsh (w.get 29 3) (w.get 16 6) (w.get 0 16))
  | 0x10 => some (.br (w.get 29 3) (w.get 16 6) (w.get 10 6) (w.get 0 10))
  | 0x11 => some (.bcEq (w.get 29 3) (w.get 16 6) (w.get 10 6) (w.get 0 10))
  | 0x12 => some (.bcNe (w.get 29 3) (w.get 16 6) (w.get 10 6) (w.get 0 10))
  | 0x13 => some (.bcLt (w.get 29 3) (w.get 16 6) (w.get 10 6) (w.get 0 10))
  | 0x14 => some (.bcLtc (w.get 29 3) (w.get 16 6) (w.get 10 6) (w.get 0 10))
  | 0x15 => some (.bcLe (w.get 29 3) (w.get 16 6) (w.get 10 6) (w.get 0 10))
  | 0x16 => some (.bcLec (w.get 29 3) (w.get 16 6) (w.get 10 6) (w.get 0 10))
  | 0x17 => some (.j (w.get 29 3) (w.get 0 22))
  | 0x18 => some (.jal (w.get 29 3) (w.get 0 22))
  | 0x19 => build19 w
  | 0x1A => some (.stall (w.get 29 3) (w.get 0 16))
  | 0x1B => build1B w
  | 0x1C => if (w.get 0 4).toNat ≤ 4 then some (.fcmp (w.get 29 3) (w.get 16 6) (w.get 10 6) (w.get 4 6) (w.get 0 4)) else none
  | 0x1D => build1D w
  | 0x20 => some (.ld (w.get 29 3) (w.get 16 6) (w.get 10 6) (w.get 0 10))
  | 0x21 => some (.st (w.get 29 3) (w.get 16 6) (w.get 10 6) (w.get 0 10))
  | 0x22 => build22 w
  | 0x23 => build23 w
  | 0x24 => some (.ldg (w.get 29 3) (w.get 16 6) (w.get 10 6) (w.get 0 10))
  | 0x25 => some (.stg (w.get 29 3) (w.get 16 6) (w.get 10 6) (w.get 0 10))
  | 0x26 => build26 w
  | 0x27 => build27 w
  | 0x28 => build28 w
  | 0x29 => if (w.get 6 4).toNat ≤ 5 then some (.red (w.get 29 3) (w.get 16 6) (w.get 10 6) (w.get 6 4) (w.get 4 2) (w.get 1 3)) else none
  | 0x2A => build2A w
  | 0x30 => some (.vadd (w.get 29 3) (w.get 16 6) (w.get 10 6) (w.get 4 6) (w.get 3 1))
  | 0x31 => some (.vsub (w.get 29 3) (w.get 16 6) (w.get 10 6) (w.get 4 6) (w.get 3 1))
  | 0x32 => some (.vmul (w.get 29 3) (w.get 16 6) (w.get 10 6) (w.get 4 6) (w.get 3 1))
  | 0x33 => some (.vfma (w.get 29 3) (w.get 16 6) (w.get 10 6) (w.get 4 6) (w.get 3 1))
  | 0x34 => some (.vmin (w.get 29 3) (w.get 16 6) (w.get 10 6) (w.get 4 6) (w.get 3 1))
  | 0x35 => some (.vmax (w.get 29 3) (w.get 16 6) (w.get 10 6) (w.get 4 6) (w.get 3 1))
  | 0x36 => some (.vabs (w.get 29 3) (w.get 16 6) (w.get 10 6))
  | 0x37 => some (.vneg (w.get 29 3) (w.get 16 6) (w.get 10 6))
  | 0x38 => some (.vand (w.get 29 3) (w.get 16 6) (w.get 10 6) (w.get 4 6) (w.get 3 1))
  | 0x39 => some (.vor (w.get 29 3) (w.get 16 6) (w.get 10 6) (w.get 4 6) (w.get 3 1))
  | 0x3A => some (.vxor (w.get 29 3) (w.get 16 6) (w.get 10 6) (w.get 4 6) (w.get 3 1))
  | 0x3B => some (.vshl (w.get 29 3) (w.get 16 6) (w.get 10 6) (w.get 4 6) (w.get 3 1))
  | 0x3C => some (.vshr (w.get 29 3) (w.get 16 6) (w.get 10 6) (w.get 4 6) (w.get 3 1))
  | 0x3D => some (.vsar (w.get 29 3) (w.get 16 6) (w.get 10 6) (w.get 4 6) (w.get 3 1))
  | 0x3E => some (.vcmp (w.get 29 3) (w.get 16 6) (w.get 10 6) (w.get 4 6) (w.get 3 1) (w.get 0 3))
  | 0x3F => some (.vsel (w.get 29 3) (w.get 16 6) (w.get 10 6) (w.get 4 6) (w.get 3 1))
  | 0x40 => some (.vcvt (w.get 29 3) (w.get 16 6) (w.get 10 6))
  | 0x41 => some (.vperm (w.get 29 3) (w.get 16 6) (w.get 10 6) (w.get 4 6) (w.get 3 1))
  | 0x42 => some (.vbcast (w.get 29 3) (w.get 16 6) (w.get 4 6))
  | 0x43 => some (.vred (w.get 29 3) (w.get 16 6) (w.get 10 6) (w.get 4 6) (w.get 0 3))
  | 0x44 => some (.vscan (w.get 29 3) (w.get 16 6) (w.get 10 6) (w.get 4 6) (w.get 0 3))
  | 0x45 => some (.vld (w.get 29 3) (w.get 16 6) (w.get 10 6) (w.get 4 6) (w.get 3 1) (w.get 0 3))
  | 0x46 => some (.vst (w.get 29 3) (w.get 16 6) (w.get 10 6) (w.get 4 6) (w.get 3 1) (w.get 0 3))
  | 0x47 => some (.vldx (w.get 29 3) (w.get 16 6) (w.get 10 6) (w.get 4 6))
  | 0x48 => some (.vstx (w.get 29 3) (w.get 16 6) (w.get 10 6) (w.get 4 6))
  | 0x49 => some (.vidx (w.get 29 3) (w.get 10 6) (w.get 4 6) (w.get 3 1) (w.get 0 3))
  | 0x4A => some (.vsetvl (w.get 29 3) (w.get 16 6) (w.get 10 6))
  | 0x4B => if w.get 0 3 = 1 then some (.vmovsRead (w.get 29 3) (w.get 16 6) (w.get 10 6) (w.get 4 6)) else some (.vmovsWrite (w.get 29 3) (w.get 16 6) (w.get 10 6) (w.get 4 6))
  | 0x4C => some (.vrcp (w.get 29 3) (w.get 16 6) (w.get 10 6))
  | 0x4D => some (.vrsqrt (w.get 29 3) (w.get 16 6) (w.get 10 6))
  | 0x4E => some (.vexp2 (w.get 29 3) (w.get 16 6) (w.get 10 6))
  | 0x4F => some (.vdot4 (w.get 29 3) (w.get 16 6) (w.get 10 6) (w.get 4 6))
  | 0x50 => some (.mma (w.get 29 3) (w.get 16 3) (w.get 10 6) (w.get 4 6) (w.get 3 1) (w.get 2 1) (w.get 1 1))
  | 0x51 => some (.mmr (w.get 29 3) (w.get 16 3) (w.get 10 6) (w.get 4 6) (w.get 3 1))
  | 0x52 => some (.mtile (w.get 29 3) (w.get 16 6) (w.get 3 1) (w.get 2 1) (w.get 1 1))
  | 0x53 => build53 w
  | 0x54 => some (.msk (w.get 29 3) (w.get 10 6))
  | 0x55 => build55 w
  | 0x58 => some (.kprobe (w.get 29 3) (w.get 16 6) (w.get 10 6) (w.get 4 6))
  | 0x59 => some (.kins (w.get 29 3) (w.get 16 6) (w.get 10 6) (w.get 4 6))
  | 0x5A => some (.kups (w.get 29 3) (w.get 16 6) (w.get 10 6) (w.get 4 6))
  | 0x5B => some (.krem (w.get 29 3) (w.get 16 6) (w.get 10 6) (w.get 4 6))
  | 0x5C => build5C w
  | 0x5D => build5D w
  | 0x60 => build60 w
  | 0x61 => build61 w
  | 0x64 => if w.get 2 1 = 0 then some (.syncC (w.get 29 3) (w.get 16 6) (w.get 10 6) (w.get 0 2)) else some (.syncX (w.get 29 3) (w.get 16 6) (w.get 0 2))
  | 0x65 => some (.xmit (w.get 29 3) (w.get 10 6) (w.get 0 10))
  | 0x66 => some (.xsel (w.get 29 3) (w.get 10 6) (w.get 7 3) (w.get 0 7))
  | 0x67 => build67 w
  | 0x68 => some (.facq (w.get 29 3) (w.get 16 6) (w.get 10 6) (w.get 8 2) (w.get 7 1))
  | 0x69 => build69 w
  | 0x6A => build6A w
  | 0x6C => build6C w
  | 0x6D => build6D w
  | 0x6E => build6E w
  | 0x70 => some (.launch (w.get 29 3) (w.get 16 6) (w.get 10 6))
  | 0x71 => some (.hstart (w.get 29 3) (w.get 16 6) (w.get 10 6) (w.get 0 10))
  | 0x72 => build72 w
  | 0x73 => some (.gdone (w.get 29 3) (w.get 16 6) (w.get 10 6) (w.get 8 2))
  | 0x74 => some (.schsel (w.get 29 3) (w.get 16 6) (w.get 10 6) (w.get 4 6))
  | 0x78 => build78 w
  | 0x79 => build79 w
  | 0x7A => build7A w
  | 0x7B => build7B w
  | 0x7C => some (.scrub (w.get 29 3) (w.get 16 6) (w.get 10 6))
  | 0x7E => some (.rpt (w.get 29 3) (w.get 19 3) (w.get 15 4) (w.get 11 4) (w.get 1 10))
  | 0x7F => some (.pfx (w.get 29 3) (w.get 16 6) (w.get 10 6) (w.get 6 4) (w.get 4 2))
  | _ => none

/-- The 23 reserved majors (R49). -/
def majorReserved (op : Nat) : Bool :=
  [0x03, 0x0D, 0x0E, 0x0F, 0x1E, 0x1F, 0x2B, 0x2C, 0x2D, 0x2E, 0x2F, 0x56, 0x57, 0x5E, 0x5F, 0x62, 0x63, 0x6B, 0x6F, 0x75, 0x76, 0x77, 0x7D].contains op

/-- The sum of the fields of a word, each a low bit position and a value (R27). -/
def sumFields : List (Nat × Nat) → Nat
  | [] => 0
  | (lo, n) :: fs => n * 2 ^ lo + sumFields fs

/-- The word with the fixed bits `base` and the fields given. -/
def asm (base : Nat) (fs : List (Nat × Nat)) : Option Code := some (BitVec.ofNat 32 (base + sumFields fs))

/-- The words of the instructions, from the encoding tables; an event has none. -/
def encode : Instr → Option Code
  | .add S d a b => asm 0x00000000 [(29, S.toNat), (16, d.toNat), (10, a.toNat), (4, b.toNat)]
  | .sub S d a b => asm 0x00000001 [(29, S.toNat), (16, d.toNat), (10, a.toNat), (4, b.toNat)]
  | .and S d a b => asm 0x00000002 [(29, S.toNat), (16, d.toNat), (10, a.toNat), (4, b.toNat)]
  | .or S d a b => asm 0x00000003 [(29, S.toNat), (16, d.toNat), (10, a.toNat), (4, b.toNat)]
  | .xor S d a b => asm 0x00000004 [(29, S.toNat), (16, d.toNat), (10, a.toNat), (4, b.toNat)]
  | .andn S d a b => asm 0x00000005 [(29, S.toNat), (16, d.toNat), (10, a.toNat), (4, b.toNat)]
  | .shl S d a b => asm 0x00000006 [(29, S.toNat), (16, d.toNat), (10, a.toNat), (4, b.toNat)]
  | .shr S d a b => asm 0x00000007 [(29, S.toNat), (16, d.toNat), (10, a.toNat), (4, b.toNat)]
  | .sar S d a b => asm 0x00000008 [(29, S.toNat), (16, d.toNat), (10, a.toNat), (4, b.toNat)]
  | .rot S d a b => asm 0x00000009 [(29, S.toNat), (16, d.toNat), (10, a.toNat), (4, b.toNat)]
  | .min S d a b => asm 0x0000000A [(29, S.toNat), (16, d.toNat), (10, a.toNat), (4, b.toNat)]
  | .minc S d a b => asm 0x0000000B [(29, S.toNat), (16, d.toNat), (10, a.toNat), (4, b.toNat)]
  | .max S d a b => asm 0x0000000C [(29, S.toNat), (16, d.toNat), (10, a.toNat), (4, b.toNat)]
  | .maxc S d a b => asm 0x0000000D [(29, S.toNat), (16, d.toNat), (10, a.toNat), (4, b.toNat)]
  | .sel S d a b => asm 0x0000000E [(29, S.toNat), (16, d.toNat), (10, a.toNat), (4, b.toNat)]
  | .mul S d a b => asm 0x00400000 [(29, S.toNat), (16, d.toNat), (10, a.toNat), (4, b.toNat)]
  | .mulh S d a b => asm 0x00400001 [(29, S.toNat), (16, d.toNat), (10, a.toNat), (4, b.toNat)]
  | .mulhc S d a b => asm 0x00400002 [(29, S.toNat), (16, d.toNat), (10, a.toNat), (4, b.toNat)]
  | .div S d a b => asm 0x00400003 [(29, S.toNat), (16, d.toNat), (10, a.toNat), (4, b.toNat)]
  | .divc S d a b => asm 0x00400004 [(29, S.toNat), (16, d.toNat), (10, a.toNat), (4, b.toNat)]
  | .rem S d a b => asm 0x00400005 [(29, S.toNat), (16, d.toNat), (10, a.toNat), (4, b.toNat)]
  | .remc S d a b => asm 0x00400006 [(29, S.toNat), (16, d.toNat), (10, a.toNat), (4, b.toNat)]
  | .clz S d a => asm 0x00400007 [(29, S.toNat), (16, d.toNat), (10, a.toNat)]
  | .ctz S d a => asm 0x00400008 [(29, S.toNat), (16, d.toNat), (10, a.toNat)]
  | .popc S d a => asm 0x00400009 [(29, S.toNat), (16, d.toNat), (10, a.toNat)]
  | .bswap S d a => asm 0x0040000A [(29, S.toNat), (16, d.toNat), (10, a.toNat)]
  | .mov S d a => asm 0x0040000B [(29, S.toNat), (16, d.toNat), (10, a.toNat)]
  | .cmp S d a b c => asm 0x00800000 [(29, S.toNat), (16, d.toNat), (10, a.toNat), (4, b.toNat), (0, c.toNat)]
  | .addi S d a i => asm 0x01000000 [(29, S.toNat), (16, d.toNat), (10, a.toNat), (0, i.toNat)]
  | .andi S d a i => asm 0x01400000 [(29, S.toNat), (16, d.toNat), (10, a.toNat), (0, i.toNat)]
  | .ori S d a i => asm 0x01800000 [(29, S.toNat), (16, d.toNat), (10, a.toNat), (0, i.toNat)]
  | .xori S d a i => asm 0x01C00000 [(29, S.toNat), (16, d.toNat), (10, a.toNat), (0, i.toNat)]
  | .shli S d a i => asm 0x02000000 [(29, S.toNat), (16, d.toNat), (10, a.toNat), (0, i.toNat)]
  | .shri S d a i => asm 0x02400000 [(29, S.toNat), (16, d.toNat), (10, a.toNat), (0, i.toNat)]
  | .sari S d a i => asm 0x02800000 [(29, S.toNat), (16, d.toNat), (10, a.toNat), (0, i.toNat)]
  | .li S d i => asm 0x02C00000 [(29, S.toNat), (16, d.toNat), (0, i.toNat)]
  | .lsh S d i => asm 0x03000000 [(29, S.toNat), (16, d.toNat), (0, i.toNat)]
  | .br S a c o => asm 0x04000000 [(29, S.toNat), (16, a.toNat), (10, c.toNat), (0, o.toNat)]
  | .bcEq S a b o => asm 0x04400000 [(29, S.toNat), (16, a.toNat), (10, b.toNat), (0, o.toNat)]
  | .bcNe S a b o => asm 0x04800000 [(29, S.toNat), (16, a.toNat), (10, b.toNat), (0, o.toNat)]
  | .bcLt S a b o => asm 0x04C00000 [(29, S.toNat), (16, a.toNat), (10, b.toNat), (0, o.toNat)]
  | .bcLtc S a b o => asm 0x05000000 [(29, S.toNat), (16, a.toNat), (10, b.toNat), (0, o.toNat)]
  | .bcLe S a b o => asm 0x05400000 [(29, S.toNat), (16, a.toNat), (10, b.toNat), (0, o.toNat)]
  | .bcLec S a b o => asm 0x05800000 [(29, S.toNat), (16, a.toNat), (10, b.toNat), (0, o.toNat)]
  | .j S o => asm 0x05C00000 [(29, S.toNat), (0, o.toNat)]
  | .jal S o => asm 0x06000000 [(29, S.toNat), (0, o.toNat)]
  | .jr S d a => asm 0x06400000 [(29, S.toNat), (16, d.toNat), (10, a.toNat)]
  | .stall S i => asm 0x06800000 [(29, S.toNat), (0, i.toNat)]
  | .fadd S d a b => asm 0x06C00000 [(29, S.toNat), (16, d.toNat), (10, a.toNat), (4, b.toNat)]
  | .fsub S d a b => asm 0x06C00001 [(29, S.toNat), (16, d.toNat), (10, a.toNat), (4, b.toNat)]
  | .fmul S d a b => asm 0x06C00002 [(29, S.toNat), (16, d.toNat), (10, a.toNat), (4, b.toNat)]
  | .fdiv S d a b => asm 0x06C00003 [(29, S.toNat), (16, d.toNat), (10, a.toNat), (4, b.toNat)]
  | .fsqrt S d a => asm 0x06C00004 [(29, S.toNat), (16, d.toNat), (10, a.toNat)]
  | .fmin S d a b => asm 0x06C00005 [(29, S.toNat), (16, d.toNat), (10, a.toNat), (4, b.toNat)]
  | .fmax S d a b => asm 0x06C00006 [(29, S.toNat), (16, d.toNat), (10, a.toNat), (4, b.toNat)]
  | .fneg S d a => asm 0x06C00007 [(29, S.toNat), (16, d.toNat), (10, a.toNat)]
  | .fclass S d a => asm 0x06C00008 [(29, S.toNat), (16, d.toNat), (10, a.toNat)]
  | .fma S d a b => asm 0x06C00009 [(29, S.toNat), (16, d.toNat), (10, a.toNat), (4, b.toNat)]
  | .fcmp S d a b c => asm 0x07000000 [(29, S.toNat), (16, d.toNat), (10, a.toNat), (4, b.toNat), (0, c.toNat)]
  | .cvt S d a => asm 0x07400000 [(29, S.toNat), (16, d.toNat), (10, a.toNat)]
  | .bxenc S d a b => asm 0x07400001 [(29, S.toNat), (16, d.toNat), (10, a.toNat), (4, b.toNat)]
  | .bxdec S d a b => asm 0x07400002 [(29, S.toNat), (16, d.toNat), (10, a.toNat), (4, b.toNat)]
  | .bxexp S d a => asm 0x07400003 [(29, S.toNat), (16, d.toNat), (10, a.toNat)]
  | .ld S d b o => asm 0x08000000 [(29, S.toNat), (16, d.toNat), (10, b.toNat), (0, o.toNat)]
  | .st S v b o => asm 0x08400000 [(29, S.toNat), (16, v.toNat), (10, b.toNat), (0, o.toNat)]
  | .ldx S d a b => asm 0x08800000 [(29, S.toNat), (16, d.toNat), (10, a.toNat), (4, b.toNat)]
  | .stx S v a b => asm 0x08C00000 [(29, S.toNat), (16, v.toNat), (10, a.toNat), (4, b.toNat)]
  | .ldg S d b o => asm 0x09000000 [(29, S.toNat), (16, d.toNat), (10, b.toNat), (0, o.toNat)]
  | .stg S v b o => asm 0x09400000 [(29, S.toNat), (16, v.toNat), (10, b.toNat), (0, o.toNat)]
  | .ldgAcq S d a c => asm 0x09800000 [(29, S.toNat), (16, d.toNat), (10, a.toNat), (1, c.toNat)]
  | .stgRel S v a c => asm 0x09800040 [(29, S.toNat), (16, v.toNat), (10, a.toNat), (1, c.toNat)]
  | .lsr S b z n p => asm 0x09C00000 [(29, S.toNat), (16, b.toNat), (10, z.toNat), (3, n.toNat), (0, p.toNat)]
  | .pref S a => asm 0x09C00040 [(29, S.toNat), (10, a.toNat)]
  | .waitc S n k => asm 0x09C00080 [(29, S.toNat), (10, n.toNat), (3, k.toNat)]
  | .waitv S v a => asm 0x09C000C0 [(29, S.toNat), (16, v.toNat), (10, a.toNat)]
  | .wbk S a => asm 0x09C00100 [(29, S.toNat), (10, a.toNat)]
  | .ldgx S d a b => asm 0x09C00140 [(29, S.toNat), (16, d.toNat), (10, a.toNat), (0, b.toNat)]
  | .aadd S d a o c l => asm 0x0A000000 [(29, S.toNat), (16, d.toNat), (10, a.toNat), (4, o.toNat), (1, c.toNat), (0, l.toNat)]
  | .aand S d a o c l => asm 0x0A000040 [(29, S.toNat), (16, d.toNat), (10, a.toNat), (4, o.toNat), (1, c.toNat), (0, l.toNat)]
  | .aor S d a o c l => asm 0x0A000080 [(29, S.toNat), (16, d.toNat), (10, a.toNat), (4, o.toNat), (1, c.toNat), (0, l.toNat)]
  | .axor S d a o c l => asm 0x0A0000C0 [(29, S.toNat), (16, d.toNat), (10, a.toNat), (4, o.toNat), (1, c.toNat), (0, l.toNat)]
  | .amin S d a o c l => asm 0x0A000100 [(29, S.toNat), (16, d.toNat), (10, a.toNat), (4, o.toNat), (1, c.toNat), (0, l.toNat)]
  | .amax S d a o c l => asm 0x0A000140 [(29, S.toNat), (16, d.toNat), (10, a.toNat), (4, o.toNat), (1, c.toNat), (0, l.toNat)]
  | .aswp S d a o c l => asm 0x0A000180 [(29, S.toNat), (16, d.toNat), (10, a.toNat), (4, o.toNat), (1, c.toNat), (0, l.toNat)]
  | .acas S d a o c l => asm 0x0A0001C0 [(29, S.toNat), (16, d.toNat), (10, a.toNat), (4, o.toNat), (1, c.toNat), (0, l.toNat)]
  | .aincw S d a o c l => asm 0x0A000200 [(29, S.toNat), (16, d.toNat), (10, a.toNat), (4, o.toNat), (1, c.toNat), (0, l.toNat)]
  | .abadd S d a o c l => asm 0x0A000240 [(29, S.toNat), (16, d.toNat), (10, a.toNat), (4, o.toNat), (1, c.toNat), (0, l.toNat)]
  | .red S d a x o c => asm 0x0A400000 [(29, S.toNat), (16, d.toNat), (10, a.toNat), (6, x.toNat), (4, o.toNat), (1, c.toNat)]
  | .barm S d a => asm 0x0A800000 [(29, S.toNat), (16, d.toNat), (10, a.toNat)]
  | .bwait S d a p => asm 0x0A800040 [(29, S.toNat), (16, d.toNat), (10, a.toNat), (0, p.toNat)]
  | .vadd S d a b k => asm 0x0C000000 [(29, S.toNat), (16, d.toNat), (10, a.toNat), (4, b.toNat), (3, k.toNat)]
  | .vsub S d a b k => asm 0x0C400000 [(29, S.toNat), (16, d.toNat), (10, a.toNat), (4, b.toNat), (3, k.toNat)]
  | .vmul S d a b k => asm 0x0C800000 [(29, S.toNat), (16, d.toNat), (10, a.toNat), (4, b.toNat), (3, k.toNat)]
  | .vfma S d a b k => asm 0x0CC00000 [(29, S.toNat), (16, d.toNat), (10, a.toNat), (4, b.toNat), (3, k.toNat)]
  | .vmin S d a b k => asm 0x0D000000 [(29, S.toNat), (16, d.toNat), (10, a.toNat), (4, b.toNat), (3, k.toNat)]
  | .vmax S d a b k => asm 0x0D400000 [(29, S.toNat), (16, d.toNat), (10, a.toNat), (4, b.toNat), (3, k.toNat)]
  | .vabs S d a => asm 0x0D800000 [(29, S.toNat), (16, d.toNat), (10, a.toNat)]
  | .vneg S d a => asm 0x0DC00000 [(29, S.toNat), (16, d.toNat), (10, a.toNat)]
  | .vand S d a b k => asm 0x0E000000 [(29, S.toNat), (16, d.toNat), (10, a.toNat), (4, b.toNat), (3, k.toNat)]
  | .vor S d a b k => asm 0x0E400000 [(29, S.toNat), (16, d.toNat), (10, a.toNat), (4, b.toNat), (3, k.toNat)]
  | .vxor S d a b k => asm 0x0E800000 [(29, S.toNat), (16, d.toNat), (10, a.toNat), (4, b.toNat), (3, k.toNat)]
  | .vshl S d a b k => asm 0x0EC00000 [(29, S.toNat), (16, d.toNat), (10, a.toNat), (4, b.toNat), (3, k.toNat)]
  | .vshr S d a b k => asm 0x0F000000 [(29, S.toNat), (16, d.toNat), (10, a.toNat), (4, b.toNat), (3, k.toNat)]
  | .vsar S d a b k => asm 0x0F400000 [(29, S.toNat), (16, d.toNat), (10, a.toNat), (4, b.toNat), (3, k.toNat)]
  | .vcmp S d a b k m => asm 0x0F800000 [(29, S.toNat), (16, d.toNat), (10, a.toNat), (4, b.toNat), (3, k.toNat), (0, m.toNat)]
  | .vsel S d a b k => asm 0x0FC00000 [(29, S.toNat), (16, d.toNat), (10, a.toNat), (4, b.toNat), (3, k.toNat)]
  | .vcvt S d a => asm 0x10000000 [(29, S.toNat), (16, d.toNat), (10, a.toNat)]
  | .vperm S d a b k => asm 0x10400000 [(29, S.toNat), (16, d.toNat), (10, a.toNat), (4, b.toNat), (3, k.toNat)]
  | .vbcast S d b => asm 0x10800008 [(29, S.toNat), (16, d.toNat), (4, b.toNat)]
  | .vred S d a b m => asm 0x10C00000 [(29, S.toNat), (16, d.toNat), (10, a.toNat), (4, b.toNat), (0, m.toNat)]
  | .vscan S d a b m => asm 0x11000000 [(29, S.toNat), (16, d.toNat), (10, a.toNat), (4, b.toNat), (0, m.toNat)]
  | .vld S d a b k m => asm 0x11400000 [(29, S.toNat), (16, d.toNat), (10, a.toNat), (4, b.toNat), (3, k.toNat), (0, m.toNat)]
  | .vst S d a b k m => asm 0x11800000 [(29, S.toNat), (16, d.toNat), (10, a.toNat), (4, b.toNat), (3, k.toNat), (0, m.toNat)]
  | .vldx S d a b => asm 0x11C00008 [(29, S.toNat), (16, d.toNat), (10, a.toNat), (4, b.toNat)]
  | .vstx S d a b => asm 0x12000008 [(29, S.toNat), (16, d.toNat), (10, a.toNat), (4, b.toNat)]
  | .vidx S a b k m => asm 0x12400000 [(29, S.toNat), (10, a.toNat), (4, b.toNat), (3, k.toNat), (0, m.toNat)]
  | .vsetvl S d a => asm 0x12800000 [(29, S.toNat), (16, d.toNat), (10, a.toNat)]
  | .vmovsWrite S d a b => asm 0x12C00008 [(29, S.toNat), (16, d.toNat), (10, a.toNat), (4, b.toNat)]
  | .vmovsRead S d a b => asm 0x12C00009 [(29, S.toNat), (16, d.toNat), (10, a.toNat), (4, b.toNat)]
  | .vrcp S d a => asm 0x13000000 [(29, S.toNat), (16, d.toNat), (10, a.toNat)]
  | .vrsqrt S d a => asm 0x13400000 [(29, S.toNat), (16, d.toNat), (10, a.toNat)]
  | .vexp2 S d a => asm 0x13800000 [(29, S.toNat), (16, d.toNat), (10, a.toNat)]
  | .vdot4 S d a b => asm 0x13C00000 [(29, S.toNat), (16, d.toNat), (10, a.toNat), (4, b.toNat)]
  | .mma S c a b x p m => asm 0x14000000 [(29, S.toNat), (16, c.toNat), (10, a.toNat), (4, b.toNat), (3, x.toNat), (2, p.toNat), (1, m.toNat)]
  | .mmr S c a b x => asm 0x14400000 [(29, S.toNat), (16, c.toNat), (10, a.toNat), (4, b.toNat), (3, x.toNat)]
  | .mtile S d x p m => asm 0x14800000 [(29, S.toNat), (16, d.toNat), (3, x.toNat), (2, p.toNat), (1, m.toNat)]
  | .mzero S c p => asm 0x14C00000 [(29, S.toNat), (3, c.toNat), (2, p.toNat)]
  | .mrd S d r c p => asm 0x14C00040 [(29, S.toNat), (16, d.toNat), (10, r.toNat), (3, c.toNat), (2, p.toNat)]
  | .mwr S d r c p => asm 0x14C00080 [(29, S.toNat), (16, d.toNat), (10, r.toNat), (3, c.toNat), (2, p.toNat)]
  | .msk S a => asm 0x15000000 [(29, S.toNat), (10, a.toNat)]
  | .mcommit S d => asm 0x15400000 [(29, S.toNat), (16, d.toNat)]
  | .mwaitb S a => asm 0x15400040 [(29, S.toNat), (10, a.toNat)]
  | .mstat S d a => asm 0x15400080 [(29, S.toNat), (16, d.toNat), (10, a.toNat)]
  | .kprobe S d a e => asm 0x16000000 [(29, S.toNat), (16, d.toNat), (10, a.toNat), (4, e.toNat)]
  | .kins S d a e => asm 0x16400000 [(29, S.toNat), (16, d.toNat), (10, a.toNat), (4, e.toNat)]
  | .kups S d a e => asm 0x16800000 [(29, S.toNat), (16, d.toNat), (10, a.toNat), (4, e.toNat)]
  | .krem S d a e => asm 0x16C00000 [(29, S.toNat), (16, d.toNat), (10, a.toNat), (4, e.toNat)]
  | .knew S d a b => asm 0x17000000 [(29, S.toNat), (16, d.toNat), (10, a.toNat), (0, b.toNat)]
  | .kdel S d a => asm 0x17000040 [(29, S.toNat), (16, d.toNat), (10, a.toNat)]
  | .kpub S d a b => asm 0x17000080 [(29, S.toNat), (16, d.toNat), (10, a.toNat), (0, b.toNat)]
  | .kcfg S d a b => asm 0x170000C0 [(29, S.toNat), (16, d.toNat), (10, a.toNat), (0, b.toNat)]
  | .kiter S d a b => asm 0x17400000 [(29, S.toNat), (16, d.toNat), (10, a.toNat), (0, b.toNat)]
  | .kstat S d a b => asm 0x17400040 [(29, S.toNat), (16, d.toNat), (10, a.toNat), (0, b.toNat)]
  | .fpush S d a f => asm 0x18000000 [(29, S.toNat), (16, d.toNat), (10, a.toNat), (0, f.toNat)]
  | .fpop S d f => asm 0x18000040 [(29, S.toNat), (16, d.toNat), (0, f.toNat)]
  | .fpeek S d f => asm 0x18000080 [(29, S.toNat), (16, d.toNat), (0, f.toNat)]
  | .fstat S d f => asm 0x180000C0 [(29, S.toNat), (16, d.toNat), (0, f.toNat)]
  | .pland S d a l => asm 0x18400000 [(29, S.toNat), (16, d.toNat), (10, a.toNat), (0, l.toNat)]
  | .pcnt S d l => asm 0x18400040 [(29, S.toNat), (16, d.toNat), (0, l.toNat)]
  | .pwait S d a l => asm 0x18400080 [(29, S.toNat), (16, d.toNat), (10, a.toNat), (0, l.toNat)]
  | .pcancel S d l => asm 0x184000C0 [(29, S.toNat), (16, d.toNat), (0, l.toNat)]
  | .syncC S d a c => asm 0x19000000 [(29, S.toNat), (16, d.toNat), (10, a.toNat), (0, c.toNat)]
  | .syncX S d c => asm 0x19000004 [(29, S.toNat), (16, d.toNat), (0, c.toNat)]
  | .xmit S b o => asm 0x19400000 [(29, S.toNat), (10, b.toNat), (0, o.toNat)]
  | .xsel S b k o => asm 0x19800000 [(29, S.toNat), (10, b.toNat), (7, k.toNat), (0, o.toNat)]
  | .ssrd S d a => asm 0x19C00000 [(29, S.toNat), (16, d.toNat), (10, a.toNat)]
  | .ulog S d a o => asm 0x19C00040 [(29, S.toNat), (16, d.toNat), (10, a.toNat), (0, o.toNat)]
  | .facq S d a c k => asm 0x1A000000 [(29, S.toNat), (16, d.toNat), (10, a.toNat), (8, c.toNat), (7, k.toNat)]
  | .fsur S d a => asm 0x1A400000 [(29, S.toNat), (16, d.toNat), (10, a.toNat)]
  | .fans S n => asm 0x1A400040 [(29, S.toNat), (0, n.toNat)]
  | .frel S d a => asm 0x1A800000 [(29, S.toNat), (16, d.toNat), (10, a.toNat)]
  | .frecall S d a => asm 0x1A800040 [(29, S.toNat), (16, d.toNat), (10, a.toNat)]
  | .cwr S d a b => asm 0x1B000000 [(29, S.toNat), (16, d.toNat), (10, a.toNat), (0, b.toNat)]
  | .cclr S d a b => asm 0x1B000040 [(29, S.toNat), (16, d.toNat), (10, a.toNat), (0, b.toNat)]
  | .clrn S d a b => asm 0x1B000080 [(29, S.toNat), (16, d.toNat), (10, a.toNat), (0, b.toNat)]
  | .cdec S d a b => asm 0x1B400000 [(29, S.toNat), (16, d.toNat), (10, a.toNat), (0, b.toNat)]
  | .cback S d a b => asm 0x1B400040 [(29, S.toNat), (16, d.toNat), (10, a.toNat), (0, b.toNat)]
  | .cprop S d a b => asm 0x1B400080 [(29, S.toNat), (16, d.toNat), (10, a.toNat), (0, b.toNat)]
  | .ctrail S d a b => asm 0x1B800000 [(29, S.toNat), (16, d.toNat), (10, a.toNat), (0, b.toNat)]
  | .cval S d a b => asm 0x1B800040 [(29, S.toNat), (16, d.toNat), (10, a.toNat), (0, b.toNat)]
  | .cconf S d a b => asm 0x1B800080 [(29, S.toNat), (16, d.toNat), (10, a.toNat), (0, b.toNat)]
  | .launch S d a => asm 0x1C000000 [(29, S.toNat), (16, d.toNat), (10, a.toNat)]
  | .hstart S d a o => asm 0x1C400000 [(29, S.toNat), (16, d.toNat), (10, a.toNat), (0, o.toNat)]
  | .hexit S => asm 0x1C800000 [(29, S.toNat)]
  | .hjoin S a => asm 0x1C800040 [(29, S.toNat), (10, a.toNat)]
  | .gdone S d a m => asm 0x1CC00000 [(29, S.toNat), (16, d.toNat), (10, a.toNat), (8, m.toNat)]
  | .schsel S d a b => asm 0x1D000000 [(29, S.toNat), (16, d.toNat), (10, a.toNat), (4, b.toNat)]
  | .trap S n => asm 0x1E000000 [(29, S.toNat), (0, n.toNat)]
  | .eret S => asm 0x1E000040 [(29, S.toNat)]
  | .halt S d a => asm 0x1E000080 [(29, S.toNat), (16, d.toNat), (10, a.toNat)]
  | .yield S => asm 0x1E0000C0 [(29, S.toNat)]
  | .srr S d n => asm 0x1E400000 [(29, S.toNat), (16, d.toNat), (10, n.toNat / 64), (0, n.toNat % 64)]
  | .srw S v n => asm 0x1E400040 [(29, S.toNat), (16, v.toNat), (10, n.toNat / 64), (0, n.toNat % 64)]
  | .wrd S d a b => asm 0x1E800000 [(29, S.toNat), (16, d.toNat), (10, a.toNat), (0, b.toNat)]
  | .wwr S v a b => asm 0x1E800040 [(29, S.toNat), (16, v.toNat), (10, a.toNat), (0, b.toNat)]
  | .wres S d a b => asm 0x1E800080 [(29, S.toNat), (16, d.toNat), (10, a.toNat), (0, b.toNat)]
  | .gen S d a => asm 0x1EC00000 [(29, S.toNat), (16, d.toNat), (10, a.toNat)]
  | .tlbi S d a b => asm 0x1EC00040 [(29, S.toNat), (16, d.toNat), (10, a.toNat), (0, b.toNat)]
  | .scrub S d a => asm 0x1F000000 [(29, S.toNat), (16, d.toNat), (10, a.toNat)]
  | .rpt S m c t p => asm 0x1F800000 [(29, S.toNat), (19, m.toNat), (15, c.toNat), (11, t.toNat), (1, p.toNat)]
  | .pfx S a b d r => asm 0x1FC00000 [(29, S.toNat), (16, a.toNat), (10, b.toNat), (6, d.toNat), (4, r.toNat)]
  | .mtileExpansion => none
  | .illegalWordHalt => none
  | .fetchFault => none
  | .inOrderCheck => none
  | .resultArrival => none
  | .storeAcknowledgement => none
  | .trapEntry => none
  | .interrupt => none
  | .timerCompare => none
  | .tcmpWrite => none
  | .ipendWrite => none
  | .translationWalk => none
  | .globalAccessAtSlice => none
  | .releaseDepart => none
  | .watchArrival => none
  | .atomicAtSlice => none
  | .reductionAtSlice => none
  | .barrierArrival => none
  | .vectorEntryBegin => none
  | .gatheringPointBegin => none
  | .vectorEntryRetire => none
  | .matrixEntryBegin => none
  | .matrixEntryCompletion => none
  | .keyedOperationAccept => none
  | .combiningBufferWrite => none
  | .splitStep => none
  | .facetMigration => none
  | .mapUnitSurrender => none
  | .copy => none
  | .copyl => none
  | .gather => none
  | .gpre => none
  | .hotset => none
  | .codecCompress => none
  | .codecExpand => none
  | .codecBlockEncode => none
  | .codecBlockDecode => none
  | .pbcast => none
  | .pgather => none
  | .prscat => none
  | .prelay => none
  | .commandCompletion => none
  | .engineBlockSurrender => none
  | .sectionArrival => none
  | .prscatChunkArrival => none
  | .cancelAtRouter => none
  | .syncCRelease => none
  | .syncXRelease => none
  | .exchangeWordArrival => none
  | .exchangeTimeout => none
  | .uncorrectableError => none
  | .rollback => none
  | .viralEntry => none
  | .arbitration => none
  | .routineEntry => none
  | .routineOverrun => none
  | .finishDeadline => none
  | .clauseOperationAtArray => none
  | .gangStart => none
  | .switchOut => none
  | .preemptionStamp => none
  | .resume => none
  | .kill => none
  | .gangCompletion => none
  | .cycleBudgetExpiry => none
  | .debugHaltLanding => none
  | .ipost => none
  | .traceStart => none
  | .traceArm => none
  | .traceStamp => none
  | .traceStop => none
  | .traceEnd => none
  | .injectScalar => none
  | .injectVector => none
  | .injectMatrix => none
  | .hostMemoryAccess => none
  | .hostCommand => none
  | .warmReset => none
  | .coldReset => none
  | .plimWrite => none
  | .tenantChange => none
  | .notifyRegister => none
  | .quoteRequest => none
  | .flitReceive => none
  | .replayTimeout => none
  | .laneFailure => none
  | .portRetrainDone => none
  | .remoteRequest => none
  | .hbmScrubPass => none
  | .powerSample => none
  | .startUp => none
  | .startFailedReset => none
  | .portReset => none
  | .resumeStamp => none
  | .bootRecordPinWrite => none

/-- The bits of a word that hold a value some majors fix: BS and VM of the vector majors (R33, R168). -/
def valueMask (op : Nat) : Code := if 0x30 ≤ op ∧ op ≤ 0x4F then 0xF else 0

/-- What the machine reads from a word: an instruction, or a refusal by its cause (R50, R51). -/
inductive Decoded where
  | instr (i : Instr)
  | illegal (c : IllegalCause)
  deriving DecidableEq, Repr

/-- The checks of R51 on a constructor read from the word `w`, lowest cause first. -/
def checkWord (w : Code) (i : Instr) : Decoded :=
  let diff := w ^^^ (encode i).getD 0
  if diff &&& ~~~(valueMask (w.get 22 7).toNat) ≠ 0 then .illegal .reservedBit
  else if i.bitsOk = false then .illegal .reservedBit
  else if diff ≠ 0 then .illegal .reservedValue
  else if i.valuesOk = false then .illegal .reservedValue
  else if i.codesOk = false then .illegal .operandCode
  else if i.formatsOk = false then .illegal .formatCode
  else .instr i

/-- Decoding: total on every word, refusing by the cause of R51. -/
def decode (w : Code) : Decoded :=
  if majorReserved (w.get 22 7).toNat then .illegal .reservedMajor
  else match build w with
    | none => .illegal .unassignedSub
    | some i => checkWord w i

/-- A word of four bytes in memory order (R26). -/
def codeOfBytes (b0 b1 b2 b3 : Byte) : Code :=
  BitVec.ofNat 32 (b0.toNat + b1.toNat * 2 ^ 8 + b2.toNat * 2 ^ 16 + b3.toNat * 2 ^ 24)

/-- Decoding of bytes: the first word and the bytes after it, or a refusal; none where a word's bytes are missing. -/
def decodeBytes : List Byte → Option (Decoded × List Byte)
  | b0 :: b1 :: b2 :: b3 :: rest => some (decode (codeOfBytes b0 b1 b2 b3), rest)
  | _ => none

/-- The host's probe: the instruction read from the word whose bits are `w`, laid out as R26 lays it out. -/
def decodeTableWord (nbits w : Nat) : Option Instr :=
  let v := w % 2 ^ nbits
  let b (k : Nat) : Byte := BitVec.ofNat 8 (v / 256 ^ k)
  match decodeBytes [b 0, b 1, b 2, b 3] with
  | some (.instr i, _) => some i
  | _ => none

end Sys2Proof
end

