-- ==== Sys2Proof/Machine/Bits.lean ====
section
/-! DEFINITION. Bit fields, sign extension and byte order (R26, R28, R77). -/
namespace Sys2Proof.Machine

/-- Bits `lo + w - 1` down to `lo` of the number `n`. -/
def bitsOf (n lo w : Nat) : Nat := (n >>> lo) % 2 ^ w

/-- Bits `lo + w - 1` down to `lo` of a 64-bit value, as a number. -/
def fld (v : Word) (lo w : Nat) : Nat := bitsOf v.toNat lo w

/-- Bit `i` of a 64-bit value. -/
def bit (v : Word) (i : Nat) : Bool := v.getLsbD i

/-- The number `n` with its `w` bits from `lo` up replaced by `x`. -/
def putBits (n lo w x : Nat) : Nat :=
  (n >>> (lo + w)) <<< (lo + w) + (x % 2 ^ w) <<< lo + n % 2 ^ lo

/-- The 64-bit value with its `w` bits from `lo` up replaced by `x`. -/
def putFld (v : Word) (lo w x : Nat) : Word := BitVec.ofNat 64 (putBits v.toNat lo w x)

/-- A truth value as a number. -/
def b2n (b : Bool) : Nat := if b then 1 else 0

/-- A truth value as a 64-bit result, 1 or 0 (R83). -/
def boolWord (b : Bool) : Word := if b then 1 else 0

/-- A number as a 64-bit value, modulo 2^64. -/
def word (n : Nat) : Word := BitVec.ofNat 64 n

/-- An integer as a 64-bit value, modulo 2^64. -/
def iword (z : Int) : Word := BitVec.ofInt 64 z

/-- The two's complement reading of the low `w` bits of a number. -/
def sgn (w n : Nat) : Int :=
  let m := n % 2 ^ w
  if m < 2 ^ (w - 1) then (m : Int) else (m : Int) - (2 : Int) ^ w

/-- The low `w` bits of an integer, as a number. -/
def wrapNat (w : Nat) (z : Int) : Nat := (z % (2 : Int) ^ w).toNat

/-- A little-endian number of the bytes given, the first byte the lowest (R26). -/
def ofBytes : List Byte → Nat
  | [] => 0
  | b :: bs => b.toNat + 256 * ofBytes bs

/-- The `k` bytes of a number, lowest first (R26). -/
def toBytes : Nat → Nat → List Byte
  | 0, _ => []
  | k + 1, n => BitVec.ofNat 8 n :: toBytes k (n / 256)

/-- Round `n` up to a multiple of `m`. -/
def alignUp (n m : Nat) : Nat := (n + m - 1) / m * m

/-- The number of one bits among the low `w` bits. -/
def popCount : Nat → Nat → Nat
  | 0, _ => 0
  | w + 1, n => n % 2 + popCount w (n / 2)

/-- The number of bits of `n`: the least `k` with `n < 2 ^ k`. -/
def bitLen (n : Nat) : Nat := if n = 0 then 0 else Nat.log2 n + 1

/-- Leading zeros of the low 64 bits (R82). -/
def clz64 (n : Nat) : Nat := 64 - bitLen (n % 2 ^ 64)

/-- Trailing zeros, at most `w` (R82). -/
def ctzN : Nat → Nat → Nat
  | 0, _ => 0
  | w + 1, n => if n % 2 = 1 then 0 else 1 + ctzN w (n / 2)

/-- The least of a list of numbers, none where it is empty. -/
def minOf : List Nat → Option Nat
  | [] => none
  | x :: xs => match minOf xs with
    | none => some x
    | some y => some (Nat.min x y)

/-- The first number `i` of the list that meets `p`. -/
def firstOf (p : Nat → Bool) : List Nat → Option Nat
  | [] => none
  | x :: xs => if p x then some x else firstOf p xs

end Sys2Proof.Machine
end

