-- ==== Sys2Proof/Machine/Float.lean ====
section
/-! DEFINITION. The binary float formats and the block formats (R90 to R102), and the operations on them: each result
is formed exactly and rounded once.  A finite value is a sign, a whole number and a power of two. -/
namespace Sys2Proof.Machine

/-- A binary float format: exponent bits, fraction bits and bias (R91). -/
structure FFmt where
  eb : Nat
  fb : Nat
  bias : Nat
  deriving DecidableEq, Repr

def f32 : FFmt := ⟨8, 23, 127⟩
def bf16 : FFmt := ⟨8, 7, 127⟩
def f16 : FFmt := ⟨5, 10, 15⟩

def FFmt.width (f : FFmt) : Nat := 1 + f.eb + f.fb

/-- The value of a float operand: `fin neg m e` is `m * 2 ^ e`, negated where `neg` (R91). -/
inductive FVal where
  | nan (signalling : Bool)
  | inf (neg : Bool)
  | fin (neg : Bool) (m : Nat) (e : Int)
  deriving DecidableEq, Repr

/-- The sticky flags of R77 and R95, as bits of a number. -/
def flagNX : Nat := 1
def flagUF : Nat := 2
def flagOF : Nat := 4
def flagDZ : Nat := 8
def flagNV : Nat := 16

/-- A result and the flags it raises. -/
abbrev Flagged := Nat × Nat

def FFmt.expMask (f : FFmt) : Nat := 2 ^ f.eb - 1
def FFmt.signBit (f : FFmt) (neg : Bool) : Nat := if neg then 2 ^ (f.eb + f.fb) else 0
/-- The canonical NaN (R92, R93). -/
def FFmt.nan (f : FFmt) : Nat := f.expMask * 2 ^ f.fb + 2 ^ (f.fb - 1)
def FFmt.infinity (f : FFmt) (neg : Bool) : Nat := f.signBit neg + f.expMask * 2 ^ f.fb
/-- The largest finite value (R92). -/
def FFmt.largest (f : FFmt) (neg : Bool) : Nat := f.signBit neg + (f.expMask * 2 ^ f.fb - 1)
def FFmt.zero (f : FFmt) (neg : Bool) : Nat := f.signBit neg

/-- Reading an operand of a float format from the low bits of `n` (R91). -/
def FFmt.read (f : FFmt) (n : Nat) : FVal :=
  let neg := bitsOf n (f.eb + f.fb) 1 == 1
  let e := bitsOf n f.fb f.eb
  let m := bitsOf n 0 f.fb
  if e = f.expMask then (if m = 0 then .inf neg else .nan (bitsOf n (f.fb - 1) 1 == 0))
  else if e = 0 then .fin neg m (1 - (f.bias : Int) - f.fb)
  else .fin neg (2 ^ f.fb + m) ((e : Int) - f.bias - f.fb)

/-- Whether a magnitude is rounded away from zero, from the comparison of the part cut off with one half: 0 nothing
cut, 1 below half, 2 half, 3 above half (R94). -/
def roundsUp (rm : Nat) (neg odd : Bool) (cut : Nat) : Bool :=
  match rm with
  | 0 => cut == 3 || (cut == 2 && odd)
  | 1 => false
  | 2 => neg && cut != 0
  | _ => !neg && cut != 0

/-- The part of `m` (and of a nonzero rest below it, where `sticky`) cut off by dropping `sh` bits. -/
def cutOf (m sh : Nat) (sticky : Bool) : Nat :=
  if sh = 0 then (if sticky then 1 else 0)
  else
    let r := m % 2 ^ sh
    let h := 2 ^ (sh - 1)
    if r = 0 ∧ sticky = false then 0
    else if r < h then 1
    else if r = h ∧ sticky = false then 2
    else 3

/-- `m * 2 ^ e` (with a nonzero rest below the last bit of `m`, where `sticky`) as a whole multiple of `2 ^ q`, rounded,
and whether it is inexact. -/
def roundAt (rm : Nat) (neg : Bool) (m : Nat) (e q : Int) (sticky : Bool) : Nat × Bool :=
  if q ≤ e then
    let k := m * 2 ^ (e - q).toNat
    (if roundsUp rm neg (k % 2 == 1) (cutOf k 0 sticky) then k + 1 else k, sticky)
  else
    let sh := (q - e).toNat
    let k := m / 2 ^ sh
    let cut := cutOf m sh sticky
    (if roundsUp rm neg (k % 2 == 1) cut then k + 1 else k, cut != 0)

/-- The overflow result of each rounding mode (R94). -/
def FFmt.overflow (f : FFmt) (rm : Nat) (neg : Bool) : Nat :=
  match rm with
  | 0 => f.infinity neg
  | 1 => f.largest neg
  | 2 => if neg then f.infinity true else f.largest false
  | _ => if neg then f.largest true else f.infinity false

/-- Rounding a nonzero magnitude `m * 2 ^ e` to a float format under mode `rm`, with the flags of R95; tininess is
judged after rounding to the format's precision with an unbounded exponent. -/
def FFmt.round (f : FFmt) (rm : Nat) (neg : Bool) (m : Nat) (e : Int) (sticky : Bool) : Flagged :=
  let top : Int := (bitLen m : Int) - 1 + e
  let emin : Int := 1 - (f.bias : Int)
  let qfree := top - f.fb
  let q := max qfree (emin - f.fb)
  let (k, inexact) := roundAt rm neg m e q sticky
  let (kf, _) := roundAt rm neg m e qfree sticky
  let tiny := decide (top < emin) && !(kf == 2 ^ (f.fb + 1) && decide (top + 1 = emin))
  let (k, q) := if k = 2 ^ (f.fb + 1) then (2 ^ f.fb, q + 1) else (k, q)
  let ef : Nat := if k < 2 ^ f.fb then 0 else (q + f.fb + f.bias).toNat
  if f.expMask ≤ ef then (f.overflow rm neg, flagOF + flagNX)
  else
    let frac := if k < 2 ^ f.fb then k else k - 2 ^ f.fb
    (f.signBit neg + ef * 2 ^ f.fb + frac,
      (if inexact then flagNX else 0) + (if tiny && inexact then flagUF else 0))

/-- The flags of reading operands: NV where one is a signalling NaN (R95). -/
def nvOf : List FVal → Nat
  | [] => 0
  | .nan true :: _ => flagNV
  | _ :: vs => nvOf vs

def FVal.isNan : FVal → Bool
  | .nan _ => true
  | _ => false

def FVal.isZero : FVal → Bool
  | .fin _ 0 _ => true
  | _ => false

def FVal.negative : FVal → Bool
  | .nan _ => false
  | .inf n => n
  | .fin n _ _ => n

def FVal.neg : FVal → FVal
  | .nan q => .nan q
  | .inf n => .inf (!n)
  | .fin n m e => .fin (!n) m e

/-- A value written in a float format, rounded once (R94); a NaN gives the canonical NaN (R93). -/
def FFmt.write (f : FFmt) (rm : Nat) : FVal → Flagged
  | .nan q => (f.nan, if q then flagNV else 0)
  | .inf n => (f.infinity n, 0)
  | .fin n 0 _ => (f.zero n, 0)
  | .fin n m e => f.round rm n m e false

/-- The exact sum of two finite values, a sign for an exact zero by the mode (R109). -/
def addFin (rm : Nat) (na : Bool) (ma : Nat) (ea : Int) (nb : Bool) (mb : Nat) (eb : Int) : FVal :=
  let e := min ea eb
  let za : Int := (if na then -1 else 1) * ((ma * 2 ^ (ea - e).toNat : Nat) : Int)
  let zb : Int := (if nb then -1 else 1) * ((mb * 2 ^ (eb - e).toNat : Nat) : Int)
  let z := za + zb
  if z = 0 then .fin (if na == nb then na else rm == 2) 0 0
  else .fin (decide (z < 0)) z.natAbs e

/-- The exact sum, `none` where it is invalid (R109). -/
def FVal.add (rm : Nat) : FVal → FVal → Option FVal
  | .nan _, _ => some (.nan false)
  | _, .nan _ => some (.nan false)
  | .inf n, .inf k => if n == k then some (.inf n) else none
  | .inf n, _ => some (.inf n)
  | _, .inf n => some (.inf n)
  | .fin na ma ea, .fin nb mb eb => some (addFin rm na ma ea nb mb eb)

/-- The exact product, `none` where it is invalid (R109). -/
def FVal.mul : FVal → FVal → Option FVal
  | .nan _, _ => some (.nan false)
  | _, .nan _ => some (.nan false)
  | .inf n, b => if b.isZero then none else some (.inf (n != b.negative))
  | a, .inf n => if a.isZero then none else some (.inf (n != a.negative))
  | .fin na ma ea, .fin nb mb eb => some (.fin (na != nb) (ma * mb) (ea + eb))

/-- Round an exact result to the format; an invalid one is the canonical NaN with NV. -/
def FFmt.result (f : FFmt) (rm : Nat) (fl : Nat) : Option FVal → Flagged
  | none => (f.nan, flagNV)
  | some v => let (r, g) := f.write rm v; (r, fl ||| g)

def FFmt.add (f : FFmt) (rm : Nat) (a b : FVal) : Flagged := f.result rm (nvOf [a, b]) (a.add rm b)
def FFmt.sub (f : FFmt) (rm : Nat) (a b : FVal) : Flagged := f.result rm (nvOf [a, b]) (a.add rm b.neg)
def FFmt.mul (f : FFmt) (rm : Nat) (a b : FVal) : Flagged := f.result rm (nvOf [a, b]) (a.mul b)

/-- Fused multiply-add with one rounding; 0 times infinity is invalid with any addend (R109). -/
def FFmt.fma (f : FFmt) (rm : Nat) (a b c : FVal) : Flagged :=
  let zeroInf := (a.isZero && (match b with | .inf _ => true | _ => false))
    || (b.isZero && (match a with | .inf _ => true | _ => false))
  if zeroInf then (f.nan, flagNV)
  else match a.mul b with
    | none => (f.nan, flagNV)
    | some p => f.result rm (nvOf [a, b, c]) (p.add rm c)

/-- Quotient (R109): finite nonzero over zero is infinite with DZ. -/
def FFmt.div (f : FFmt) (rm : Nat) (a b : FVal) : Flagged :=
  match a, b with
  | .nan _, _ => (f.nan, nvOf [a, b])
  | _, .nan _ => (f.nan, nvOf [a, b])
  | .inf _, .inf _ => (f.nan, flagNV)
  | .inf n, _ => (f.infinity (n != b.negative), 0)
  | .fin n _ _, .inf k => (f.zero (n != k), 0)
  | .fin na ma ea, .fin nb mb eb =>
    if mb = 0 then (if ma = 0 then (f.nan, flagNV) else (f.infinity (na != nb), flagDZ))
    else if ma = 0 then (f.zero (na != nb), 0)
    else
      let n := ma * 2 ^ 96
      f.round rm (na != nb) (n / mb) (ea - eb - 96) (n % mb != 0)

/-- The whole square root, bit by bit from bit `b - 1` down. -/
def isqrtGo (n : Nat) : Nat → Nat → Nat
  | 0, r => r
  | b + 1, r => isqrtGo n b (if (r + 2 ^ b) * (r + 2 ^ b) ≤ n then r + 2 ^ b else r)

/-- The whole square root of `n`. -/
def isqrt (n : Nat) : Nat := isqrtGo n (bitLen n / 2 + 1) 0

/-- Square root (R109). -/
def FFmt.sqrt (f : FFmt) (rm : Nat) (a : FVal) : Flagged :=
  match a with
  | .nan _ => (f.nan, nvOf [a])
  | .inf n => if n then (f.nan, flagNV) else (f.infinity false, 0)
  | .fin n m e =>
    if m = 0 then (f.zero n, 0)
    else if n then (f.nan, flagNV)
    else
      let (m, e) := if e % 2 = 0 then (m, e) else (2 * m, e - 1)
      let w := m * 2 ^ 128
      let r := isqrt w
      f.round rm false r (e / 2 - 64) (r * r != w)

/-- Whether `a < b` as numbers; false where one is a NaN. -/
def FVal.lt : FVal → FVal → Bool
  | .nan _, _ => false
  | _, .nan _ => false
  | .inf n, .inf k => n && !k
  | .inf n, .fin _ _ _ => n
  | .fin _ _ _, .inf k => !k
  | .fin na ma ea, .fin nb mb eb =>
    let e := min ea eb
    let za : Int := (if na then -1 else 1) * ((ma * 2 ^ (ea - e).toNat : Nat) : Int)
    let zb : Int := (if nb then -1 else 1) * ((mb * 2 ^ (eb - e).toNat : Nat) : Int)
    decide (za < zb)

/-- Whether `a = b` as numbers: both zeros are equal; false where one is a NaN. -/
def FVal.eq (a b : FVal) : Bool := !a.isNan && !b.isNan && !a.lt b && !b.lt a

/-- IEEE minimum: a NaN operand gives NaN, and -0 lies below +0 (R109). -/
def FVal.minimum (a b : FVal) : FVal :=
  if a.isNan || b.isNan then .nan false
  else if a.lt b then a else if b.lt a then b
  else if a.negative then a else b

/-- IEEE maximum (R109). -/
def FVal.maximum (a b : FVal) : FVal :=
  if a.isNan || b.isNan then .nan false
  else if a.lt b then b else if b.lt a then a
  else if a.negative then b else a

def FFmt.min (f : FFmt) (rm : Nat) (a b : FVal) : Flagged := f.result rm (nvOf [a, b]) (some (a.minimum b))
def FFmt.max (f : FFmt) (rm : Nat) (a b : FVal) : Flagged := f.result rm (nvOf [a, b]) (some (a.maximum b))

/-- The class mask of an operand of format `f` (R109). -/
def FFmt.classMask (f : FFmt) (n : Nat) : Nat :=
  match f.read n with
  | .nan s => if s then 256 else 512
  | .inf neg => if neg then 1 else 128
  | .fin neg m _ =>
    if m = 0 then (if neg then 8 else 16)
    else if bitsOf n f.fb f.eb = 0 then (if neg then 4 else 32)
    else (if neg then 2 else 64)

/-- The conditions of fcmp by its fn, and the flags (R110): eq, ne, lt, le, un. -/
def fcmpCond (c : Nat) (a b : FVal) : Bool × Nat :=
  let un := a.isNan || b.isNan
  let quiet := nvOf [a, b]
  let loud := if un then flagNV else 0
  match c with
  | 0 => (a.eq b, quiet)
  | 1 => (un || !a.eq b, quiet)
  | 2 => (a.lt b, loud)
  | 3 => (a.lt b || a.eq b, loud)
  | _ => (un, quiet)

/-- A finite value rounded to a whole number under mode `rm`, and whether it is inexact. -/
def roundInt (rm : Nat) (neg : Bool) (m : Nat) (e : Int) : Int × Bool :=
  let (k, x) := roundAt rm neg m e 0 false
  (if neg then -(k : Int) else (k : Int), x)

/-- An integer format: width and signedness (R90). -/
structure IFmt where
  w : Nat
  signed : Bool
  deriving DecidableEq, Repr

def IFmt.lo (f : IFmt) : Int := if f.signed then -((2 : Int) ^ (f.w - 1)) else 0
def IFmt.hi (f : IFmt) : Int := if f.signed then (2 : Int) ^ (f.w - 1) - 1 else (2 : Int) ^ f.w - 1
/-- The value of an integer operand (R90). -/
def IFmt.read (f : IFmt) (n : Nat) : Int := if f.signed then sgn f.w n else ((n % 2 ^ f.w : Nat) : Int)
/-- An integer result modulo its width, extended to 64 bits by its signedness (R90). -/
def IFmt.write (f : IFmt) (z : Int) : Word := iword (f.read (wrapNat f.w z))

/-- Float to integer (R111): rounded; out of range the nearest bound with NV; a NaN gives 0 with NV. -/
def IFmt.ofFloat (f : IFmt) (rm : Nat) : FVal → Word × Nat
  | .nan _ => (0, flagNV)
  | .inf n => (iword (if n then f.lo else f.hi), flagNV)
  | .fin n m e =>
    let (z, x) := roundInt rm n m e
    if f.hi < z then (iword f.hi, flagNV)
    else if z < f.lo then (iword f.lo, flagNV)
    else (iword z, if x then flagNX else 0)

/-- An integer as an exact value. -/
def FVal.ofInt (z : Int) : FVal := .fin (decide (z < 0)) z.natAbs 0

/-- A format named by a prefix code (R35, R36). -/
inductive Fmt where
  | dflt
  | int (f : IFmt)
  | float (f : FFmt)
  | bx (w : Nat)
  | rbx (w : Nat)
  | none
  deriving DecidableEq, Repr

/-- The formats of FA and FB (R35). -/
def srcFmt (c : Nat) : Fmt :=
  if c = 0 then .dflt
  else if c ≤ 4 then .int ⟨8 * 2 ^ (c - 1), true⟩
  else if c ≤ 8 then .int ⟨8 * 2 ^ (c - 5), false⟩
  else if c = 0x10 then .float f16 else if c = 0x11 then .float bf16 else if c = 0x12 then .float f32
  else if 0x22 ≤ c ∧ c ≤ 0x28 then .bx (c - 0x20)
  else if 0x32 ≤ c ∧ c ≤ 0x38 then .rbx (c - 0x30)
  else .none

/-- The formats of FD (R36). -/
def dstFmt (c : Nat) : Fmt :=
  if c = 0 then .dflt
  else if c ≤ 4 then .int ⟨8 * 2 ^ (c - 1), true⟩
  else if c ≤ 8 then .int ⟨8 * 2 ^ (c - 5), false⟩
  else if c = 9 then .float f16 else if c = 10 then .float bf16 else if c = 11 then .float f32
  else if c = 12 then .bx 4 else if c = 13 then .bx 8 else if c = 14 then .rbx 8
  else .none

/-- The exponent chosen for a block from its values (R100). -/
def blockExpGo : List FVal → Option Int → Option (Option Int)
  | [], best => some best
  | .fin _ 0 _ :: vs, best => blockExpGo vs best
  | .fin _ m e :: vs, best =>
    let t : Int := (bitLen m : Int) - 1 + e
    blockExpGo vs (match best with | none => some t | some b => some (max t b))
  | _ :: _, _ => none

/-- block_exp of R100. -/
def blockExp (vs : List FVal) : Nat :=
  match blockExpGo vs none with
  | none => 0xFF
  | some none => 0
  | some (some t) => (min (max (t + 128) 0) 254).toNat

/-- enc_elem of R101: the mantissa and its flags; `rm` is 0 for RNE and 1 for RTZ. -/
def encElem (x : FVal) (E w rm : Nat) : Int × Nat :=
  let hi : Int := (2 : Int) ^ (w - 1) - 1
  let lo : Int := -((2 : Int) ^ (w - 1))
  if E = 0xFF then (0, 0)
  else match x with
    | .nan _ => (0, flagNV)
    | .inf n => (if n then lo else hi, flagOF + flagNX)
    | .fin n m e =>
      let (z, inex) := roundInt rm n m (e + ((w : Int) - 1 + 127 - E))
      let fl := if inex then flagNX else 0
      let (z, fl) := if hi < z then (hi, fl ||| (flagOF + flagNX)) else if z < lo then (lo, fl ||| (flagOF + flagNX))
        else (z, fl)
      (z, if m ≠ 0 ∧ z = 0 then fl ||| flagUF else fl)

/-- The exact value of a mantissa of width `w` against `E` (R102). -/
def decElem (m : Int) (E w : Nat) : FVal :=
  if E = 0xFF then .nan false
  else .fin (decide (m < 0)) m.natAbs ((E : Int) - 127 - ((w : Int) - 1))

/-- The float named by a source format code 0x10 to 0x12. -/
def Fmt.asFloat : Fmt → Option FFmt
  | .float f => some f
  | _ => Option.none

/-- The integer named by a format. -/
def Fmt.asInt : Fmt → Option IFmt
  | .int f => some f
  | _ => Option.none

end Sys2Proof.Machine
end

