-- ==== Sys2Proof/Config.lean ====
section
/-! DEFINITION. What an implementation fixes and the free values.  A free value is a constant with no body, applied to a
plain counter of the state or to what it depends on: no proof can see what it is, so a claim holds whatever it is. -/
namespace Sys2Proof.Config

/-- A fresh free 64-bit value. -/
opaque freeWord : Nat → Word
/-- A fresh free number: a delay in cycles, an order, a choice among several outcomes. -/
opaque freeNat : Nat → Nat
/-- A fresh free choice of two outcomes. -/
opaque freeBool : Nat → Bool
/-- Which of the values of a code word a fetch gets, by the cycle, a plain counter and the place of the word (R26); used modulo
their number. -/
opaque freeFetch : Nat → Nat → Nat → Nat
/-- How far a core reads the time base from the ideal counter, by core and ideal count (R11); used modulo 17. -/
opaque skew : Nat → Nat → Nat
/-- A firmware image carries a good signature under the root key of a digest (R398). -/
opaque signed : List Byte → List Byte → Bool
/-- A byte of the SHAKE256 digest of a firmware image, by its number (R399). -/
opaque digestByte : List Byte → Nat → Byte
/-- A byte of the signature of a quote, by what is signed and its number (R399). -/
opaque signatureByte : List Byte → Nat → Byte
/-- The CRC-64 of the first 248 bytes of a flit, whose polynomial the spec does not give (R386). -/
opaque crc64 : List Byte → Nat
/-- The scale-up port that firmware assigns to a device of the domain (R385); used modulo 16. -/
opaque route : Nat → Nat
/-- The device number that the domain assigns, by start (R5); used modulo 320. -/
opaque device : Nat → Nat
/-- A byte of the payload of a flit, by what it says and its place (R386). -/
opaque payByte : List Nat → Nat → Byte
/-- The request that the payloads of one device, in order, make up, none where they are not whole yet: the partition that asks, what it
asks by the numbers of an event, the address and the operands (R386). -/
opaque payRequest : List Byte → Option (Nat × Nat × Nat × List Byte)
/-- What the payload of a flit of the response channel says, by the numbers that payByte encodes (R386). -/
opaque payResponse : List Byte → List Nat
/-- The boot record's options choose bonded links (R376, R397). -/
opaque bonded : List Byte → Bool
/-- The host link to which a partition's messages go (R376, R383); used modulo 2. -/
opaque linkOf : Nat → Nat
/-- The bytes a switch-out leaves in a save area (R341). -/
opaque frameByte : Nat → Byte
/-- Where the host regions begin in reserved HBM, in regions of 512 KiB (R379). -/
opaque hostBase : Nat
/-- Physical base of the host region of a command window in reserved HBM: 512 KiB each, no two alike, all within the 512 GiB of
the stacks; that they follow each other is the model's choice (R379). -/
def hostRegion (p : Nat) : Nat := 0x80000 * ((hostBase + p % 256) % 2 ^ 20)

end Sys2Proof.Config
end

