-- ==== Sys2Proof/Machine/SMap.lean ====
section
/-! DEFINITION. Sparse tables in one canonical form: pairs of a number and a value, the numbers strictly rising, no
entry equal to what an unlisted number reads as. Memories, register files and unit tables all use them. -/
namespace Sys2Proof.Machine

/-- A sparse table: key and value pairs, keys strictly rising. -/
abbrev SMap (α : Type) := List (Nat × α)

/-- The value at key `k`, or `d` where nothing is listed. -/
def SMap.get {α : Type} (d : α) : SMap α → Nat → α
  | [], _ => d
  | (j, v) :: m, k => if j = k then v else SMap.get d m k

/-- The entry at key `k`, if one is listed. -/
def SMap.find {α : Type} : SMap α → Nat → Option α
  | [], _ => none
  | (j, v) :: m, k => if j = k then some v else SMap.find m k

/-- List `v` at key `k`, replacing an entry already there and keeping the keys rising. -/
def SMap.put {α : Type} : SMap α → Nat → α → SMap α
  | [], k, v => [(k, v)]
  | (j, w) :: m, k, v =>
    if k < j then (k, v) :: (j, w) :: m
    else if k = j then (k, v) :: m
    else (j, w) :: SMap.put m k v

/-- Unlist key `k`. -/
def SMap.del {α : Type} : SMap α → Nat → SMap α
  | [], _ => []
  | (j, w) :: m, k => if j = k then SMap.del m k else (j, w) :: SMap.del m k

/-- Store `v` at key `k` of a table whose unlisted keys read `d`: storing `d` unlists the key. -/
def SMap.set {α : Type} [DecidableEq α] (d : α) (m : SMap α) (k : Nat) (v : α) : SMap α :=
  if v = d then SMap.del m k else SMap.put m k v

/-- The keys rise strictly from `lo` on. -/
def SMap.rising {α : Type} : Nat → SMap α → Bool
  | _, [] => true
  | lo, (j, _) :: m => decide (lo ≤ j) && SMap.rising (j + 1) m

/-- The canonical form: keys strictly rising and no entry equal to the default `d`. -/
def SMap.wf {α : Type} [DecidableEq α] (d : α) (m : SMap α) : Bool :=
  SMap.rising 0 m && m.all (fun e => decide (e.2 ≠ d))

/-- Replace the value at key `k` by its image under `f`, whether listed or not. -/
def SMap.upd {α : Type} (d : α) (m : SMap α) (k : Nat) (f : α → α) : SMap α :=
  SMap.put m k (f (SMap.get d m k))

/-- Apply `f` to every value listed. -/
def SMap.mapVals {α : Type} (m : SMap α) (f : α → α) : SMap α := m.map fun e => (e.1, f e.2)

/-- The next free key of a table: one more than the greatest key listed. -/
def SMap.nextKey {α : Type} : SMap α → Nat
  | [] => 0
  | (j, _) :: m => Nat.max (j + 1) (SMap.nextKey m)

end Sys2Proof.Machine
end

