-- ==== Sys2Proof/Machine/State.lean ====
section
/-! DEFINITION. The state of the machine: every piece of state the spec names, as plain data.  Tables are sparse: a core,
a register or a byte that is not listed reads as at reset. -/
namespace Sys2Proof.Machine

/-- A memory: bytes by address, in canonical form; a byte that nothing has written reads 0. -/
abbrev Mem := SMap Byte

/-- What an unlisted byte of a memory reads as. -/
def Mem.dflt : Byte := 0

/-- The canonical form of a memory. -/
def Mem.wf (m : Mem) : Bool := SMap.wf Mem.dflt m

/-- The status of a context (R358). -/
inductive CtxStatus where
  | free | running | halted | ended
  deriving DecidableEq, Repr

/-- A result that has not yet arrived (R66 to R74).  `slot` and `reg` name what it still writes; `frSlot` and `frReg`
what it still writes in the trap frame (R356).  `val` is the value of a fixed-latency result; a long-operation result
has none before it arrives, and its `slotAt` is 0; a sibling load has none before it performs. -/
structure Pend where
  id : Nat
  slot : Option Nat := none
  reg : Option Nat := none
  val : Option Word := none
  slotAt : Nat := 0
  regAt : Nat := 0
  flags : Nat := 0
  frSlot : Option Nat := none
  frReg : Option Nat := none
  deriving DecidableEq, Repr

/-- What a trap reports (R354). -/
structure TrapInfo where
  kind : Nat
  cause : Nat
  seq : Nat := 0
  det : Nat := 0
  addr : Nat := 0
  groups : List Nat := []
  code : Nat := 0
  deriving DecidableEq, Repr

/-- What holds back the next word of a context (R18, R75). -/
inductive Wait where
  | none
  /-- waitc: the counter by number and the limit; the pc stays at the waitc (R139). -/
  | counter (k limit : Nat)
  /-- the result of an acquire has not arrived (R133, R148). -/
  | arrival (id : Nat)
  /-- parked by waitv or bwait (R140, R153). -/
  | watch (id : Nat)
  /-- pwait: the slot, the count and the destination; the pc stays at the pwait (R270). -/
  | landing (slot n : Nat) (d : Opnd)
  /-- mwaitb: the batch; the pc stays at the mwaitb (R203). -/
  | batch (num : Nat)
  /-- arrived at a sync, which delivers its status to `d` at the release (R276, R278). -/
  | sync (d : Opnd)
  /-- yield: the contexts still to issue, and the cycle that ends it (R370). -/
  | others (ctxs : List Nat) (till : Nat)
  /-- a page-table walk for an address and the permissions it needs: 1 RD, 2 WR, 4 EX, 8 an engine's access (R119). -/
  | walk (va need : Nat)
  /-- the checker has found a mismatch: nothing more of the context commits (R76). -/
  | checked
  /-- a trap that is taken, or the entry of a surrender routine where it names none: it waits for the local accesses of the
  context and for the array's fetch of what lies under the frame (R74, R192, R356). -/
  | entry (i : Option TrapInfo)
  /-- an mtile issuing its expansion: the descriptor's address, the modifiers, and the cycle its stall count ends; the pc
  stays at the mtile (R25, R200). -/
  | tile (desc : Nat) (x pl mid : Bool) (till words : Nat)
  deriving DecidableEq, Repr

/-- A late fault that has reached its context and not yet trapped (R121, R165, R195, R354): what TREC and TADDR will hold,
and, for a rejected access, its program counter and what it was, by the number of R121's kinds: 0 a load, 1 a store, 2 an
atomic, 3 a reduction, 4 a watch. -/
structure LateFault where
  kind : Nat
  cause : Nat
  seq : Nat := 0
  det : Nat := 0
  addr : Nat := 0
  groups : List Nat := []
  pc : Nat := 0
  access : Nat := 0
  deriving DecidableEq, Repr

/-- An access counted in ldc or stc: its number, its home slice (none at a remote device), and whether it went through
the domain window (R129, R133). -/
structure Outst where
  id : Nat
  home : Option Nat := none
  dom : Bool := false
  load : Bool := false
  deriving DecidableEq, Repr

/-- A translation-cache entry (R119, R120): the page it covers, the leaf it holds, and the access counts it collects, loads,
writes and remote accesses by 64 KiB page. -/
structure TlbEntry where
  asid : Nat
  gen : Nat
  vpage : Nat
  size : Nat
  leaf : Nat
  leafAt : Nat
  counts : SMap (Nat × Nat × Nat) := []
  deriving DecidableEq, Repr

/-- One hardware context (R65 to R80, R352, R358 to R360).  `rewalk` says that a tlbi has met the walk it waits for; `walked` holds
what such walks found, each with the cycle of its end, for the one word that waits for it (R374).  `haltBack` is how far the repeat
word of the captured word that halted it lies before that word, 0 where none did (R50, R52). -/
structure Ctx where
  status : CtxStatus := .free
  hk : Nat := 0
  ih : Bool := false
  rt : Bool := false
  hp : Bool := false
  haltMk : Nat := 0
  haltCause : Nat := 0
  haltWord : Code := 0
  haltBack : Nat := 0
  pc : BitVec 52 := 0
  regs : SMap Word := []
  slots : SMap Word := []
  head : BitVec 4 := 0
  pend : List Pend := []
  st : Word := 0x100
  vl : Nat := 128
  readyAt : Nat := 0
  wait : Wait := .none
  frame : List Code := []
  frameRpt : Code := 0
  ld : List Outst := []
  stq : List Outst := []
  enc : Nat := 0
  mbc : Nat := 0
  vqc : Nat := 0
  mpend : Nat := 0
  late : List LateFault := []
  groups : List Nat := []
  trec : Word := 0
  taddr : Word := 0
  ien : Nat := 0
  soft : Bool := false
  tpost : Bool := false
  rewalk : Bool := false
  walked : List (Nat × TlbEntry) := []
  tcmp : Word := 0
  asel : Option Nat := none
  psel : Option Nat := none
  seqn : Nat := 0
  seqr : SMap Word := []
  localAt : Nat := 0
  localTo : Nat := 0
  issuedAt : Nat := 0
  frameAt : Nat := 0
  deriving DecidableEq, Repr

/-- The context state before anything is written: free, every register 0 (R69, R77, R336). -/
def Ctx.init : Ctx := {}

/-- A region descriptor of a local store (R114). -/
structure Region where
  base : Nat := 0
  size : Nat := 0
  span : Nat := 0
  deriving DecidableEq, Repr

/-- What a sibling access does at the bank. -/
inductive SibOp where
  | load | store
  | atomic (op : Nat)
  | xmit
  deriving DecidableEq, Repr

/-- A sibling local access on its way to another core's store (R116, R142). -/
structure Sib where
  due : Nat
  ctx : Nat
  target : Nat
  addr : Nat
  width : Nat
  signed : Bool
  op : SibOp
  v : Nat := 0
  u : Nat := 0
  id : Nat := 0
  deriving DecidableEq, Repr

/-- The snapshot of a control context at a checkpoint (R291). -/
structure Snap where
  regs : SMap Word := []
  slots : SMap Word := []
  head : BitVec 4 := 0
  st : Word := 0x100
  vl : Nat := 128
  pc : BitVec 52 := 0
  regions : SMap Region := []
  statusReg : Option Nat := none
  statusSlot : Option Nat := none
  ih : Bool := false
  deriving DecidableEq, Repr

/-- The exchange side of a core: phase, inputs, bindings and the sticky status bits (R274, R279, R285 to R288). -/
structure Exch where
  phase : Bool := false
  binds : SMap Nat := []
  newBinds : Option (SMap Nat) := none
  queues : SMap (List Word) := []
  waiting : List (Nat × Nat × Word) := []
  lastAt : Nat := 0
  xc : Bool := false
  xl : Bool := false
  xr : Bool := false
  deriving DecidableEq, Repr

/-- The undo log of a core and its exempt range (R292, R296): logged line addresses, newest first, each with the places
of its words and its pre-image, whether a line went unlogged, and the checkpoint's snapshot. -/
structure Undo where
  lines : List (Nat × List Nat × List Byte) := []
  lov : Bool := false
  exBase : Nat := 0
  exSize : Nat := 0
  snap : Snap := {}
  deriving DecidableEq, Repr

/-- A vector queue entry with what it captured at issue (R158), and how far the lane groups have got with it: those
that hold a grant at a gathering point, the cycle of the last grant, those that have begun or passed it, the cycle by
which its accesses have performed, the cycle by which it is done.  A dropped entry no longer counts in vqc (R165). -/
structure VEntry where
  seq : Nat
  ctx : Nat
  ins : Instr
  s1 : Word := 0
  s2 : Word := 0
  fa : Nat := 0
  fd : Nat := 0
  rm : Nat := 0
  vl : Nat := 128
  at_ : Nat := 0
  after : Nat := 0
  id : Nat := 0
  granted : List Nat := []
  grantAt : Nat := 0
  begun : List Nat := []
  memAt : Nat := 0
  doneAt : Nat := 0
  flags : Nat := 0
  dropped : Bool := false
  passed : List Nat := []
  wrote : List (Nat × Nat × Nat) := []
  deriving DecidableEq, Repr

/-- A lane's access to a sibling store on its way there, with the entry it is of (R162): a load into register `reg`, or a
store of `v`. -/
structure VSib where
  ctx : Nat
  seq : Nat
  due : Nat
  lane : Nat
  core : Nat
  addr : Nat
  reg : Option Nat := none
  v : Nat := 0
  deriving DecidableEq, Repr

/-- The vector side of a core (R156 to R165): registers by 64 * lane + number, index registers by 8 * lane + number,
the queue, sibling accesses on their way, the cycle each register is ready in each group (by 72 * group + number, the
index registers from 64 on), its credit at each group, the sequence number of the last entry each group completed (by
8 * context + group), and that a residue check has failed (R164). -/
structure VecState where
  v : SMap Elem := []
  ix : SMap (BitVec 6) := []
  q : List VEntry := []
  sibs : List VSib := []
  ready : SMap Nat := []
  credit : SMap Int := []
  last : SMap Nat := []
  failed : Bool := false
  deriving DecidableEq, Repr

/-- A matrix queue entry with what it captured at issue (R182): tile addresses `a` and `b`, formats `fa` and `fb`,
the mode by `fd` and the modifiers, the skip mask, the planes of .pl, a fault already found; and, from its begin on, the
stores its tiles lie in, their headers, what the array fetched under MG, the fill, the cycles of a step, the cycles
by which it has fetched and completes, that its batch counts complete without it (R195), and the elements of its
accumulator as it found them that a debugger has since written (R197). -/
structure MEntry where
  seq : Nat
  ctx : Nat
  acc : Nat
  pair : Bool
  pl : Bool
  mid : Bool
  refine : Bool
  a : Nat
  b : Nat
  fa : Nat
  fb : Nat
  fd : Nat
  mg : Bool
  skip : Nat
  planes : Nat := 0
  early : Option (Nat × Nat) := none
  at_ : Nat := 0
  after : Nat := 0
  batch : Nat := 0
  begunAt : Option Nat := none
  tagA : Nat := 0
  tagB : Nat := 0
  ks : Nat := 0
  da : List Byte := []
  db : List Byte := []
  fill : Nat := 0
  cost : Nat := 0
  fetchAt : Nat := 0
  doneAt : Nat := 0
  out : Bool := false
  was : SMap Elem := []
  deriving DecidableEq, Repr

/-- A batch of matrix entries of a context (R193): its number (0 while open), the entries outstanding and the flags. -/
structure Batch where
  ctx : Nat
  num : Nat
  left : Nat := 0
  flags : Nat := 0
  deriving DecidableEq, Repr

/-- The scale of an accumulator pair (R189): row and column exponents and the operand widths. -/
structure PairScale where
  er : List Nat
  ec : List Nat
  wa : Nat
  wb : Nat
  deriving DecidableEq, Repr

/-- What a word of the store held before a write: its place, the cycle of the write, the eight bytes, and, where the write was a
sibling access, the core and context that made it and the cycle of its issue (R192). -/
structure OldWord where
  place : Nat
  at_ : Nat
  bytes : List Byte
  by_ : Option (Nat × Nat × Nat) := none
  deriving DecidableEq, Repr

/-- The matrix side of a core (R182 to R204): the queue, the cycle the array is free from, the accumulators by
1024 * number + 32 * row + column, the pair scales that are set, the refine tags, the sparsity stream, the batches,
the commit counts by context, the old contents of words of this store written while an entry of the octant was pending,
newest first, and the check counts. -/
structure MatState where
  q : List MEntry := []
  freeAt : Nat := 0
  acc : SMap Elem := []
  scale : SMap PairScale := []
  tag : SMap Word := []
  sk : Word := 0
  batches : List Batch := []
  commits : SMap Nat := []
  hist : List OldWord := []
  chk : Nat := 0
  unc : Nat := 0
  deriving DecidableEq, Repr

/-- An engine command of a core (R230 to R237): its context, FID and bytes, what it waits for before it begins, the
address space and generation it was translated with, its progress in bytes or positions read and written, what it has
read and not yet written, rows or a window already read, the indices they stand for, and how it ends. -/
structure Cmd where
  id : Nat
  ctx : Nat
  fid : Nat
  bytes : List Byte
  capAt : Nat := 0
  after : Nat := 0
  waits : List Nat := []
  vwaits : List Nat := []
  begun : Bool := false
  nextAt : Nat := 0
  asid : Nat := 0
  gen : Nat := 0
  rd : Nat := 0
  wr : Nat := 0
  buf : List Byte := []
  rows : List (Nat × List Byte) := []
  idx : List Nat := []
  cur : Option Nat := none
  xfer : Nat := 0
  sts : Nat := 0
  det : Nat := 0
  fl : Nat := 0
  ended : Bool := false
  failed : Bool := false
  deriving DecidableEq, Repr

/-- A sidecar line that the codec holds (R125): its 128 bytes, the commands that use it, by number, and whether it holds sizes that
are not written back yet. -/
structure SideLine where
  bytes : List Byte
  users : List Nat := []
  dirty : Bool := false
  deriving DecidableEq, Repr

/-- A result element waiting for its context (R230, R232). -/
structure EResult where
  id : Nat
  ctx : Nat
  fid : Nat
  v : Word
  deriving DecidableEq, Repr

/-- A landing slot of a core (R253), by its STATE: 0 FREE, 1 ARMED, 2 LANDING, 3 DONE, 4 CANCELLED; `xfer` and `branch`
name the transfer bound to it. -/
structure Land where
  cnt : Nat := 0
  st : Nat := 0
  w : Nat := 0
  ks : Nat := 0
  src : Nat := 0
  sdev : Nat := 0
  addr : Nat := 0
  xfer : Nat := 0
  branch : Nat := 0
  deriving DecidableEq, Repr

/-- A reduce-scatter that the engine block of a member forms (R260): slot, KS, members, and the chunks taken, by list
position. -/
structure Scatter where
  slot : Nat
  ks : Nat
  members : List Nat
  chunks : List (Nat × List Byte) := []
  deriving DecidableEq, Repr

/-- A record of a recall queue (R303): the unit, the requester and its number, and the request it was posted for. -/
structure Recall where
  unit : Nat
  force : Bool := false
  src : Nat := 0
  pri : Nat := 0
  num : Nat := 1
  rqc : Nat := 0
  req : Nat := 0
  deriving DecidableEq, Repr

/-- One core: its contexts and everything they share; `netAt` is the cycle from which the octant network has a slot for it
again (R116); `landLast` and `landSeen` are the landing slots as they stood one and two cycles ago (R253, R270); `still` says that the last debug
halt of its control context was a precise stop (R297). -/
structure CoreState where
  ctxs : SMap Ctx := []
  rr : Nat := 0
  rrPrev : Nat := 0
  issuedAt : Nat := 0
  gang : Option Nat := none
  rank : Nat := 0
  gx : Nat := 0
  gy : Nat := 0
  gz : Nat := 0
  ls : Mem := []
  regions : SMap Region := []
  tlb : List TlbEntry := []
  divAt : Nat := 0
  rootAt : Nat := 0
  sibs : List Sib := []
  netAt : Nat := 0
  tvec : Word := 0
  tfa : Word := 0
  vsw : Nat := 0
  ex : Exch := {}
  undo : Undo := {}
  fifo15 : List Word := []
  slotCtx : Nat := 15
  slotPc : Nat := 0
  lastMsgs : Nat := 0
  injS : Bool := false
  injV : Bool := false
  injM : Bool := false
  vec : VecState := {}
  mat : MatState := {}
  cmds : List Cmd := []
  results : List EResult := []
  oldResults : List EResult := []
  land : SMap Land := []
  landLast : SMap Land := []
  landSeen : SMap Land := []
  scatters : List Scatter := []
  routine : Nat := 0
  rcount : Nat := 0
  recalls : List Recall := []
  running : Option Recall := none
  backlog : List Word := []
  still : Bool := false
  deriving DecidableEq, Repr

def CoreState.init : CoreState := {}

/-- What a request asks of a home slice. -/
inductive ReqKind where
  | load | store | wbk | pref
  | atomic (op : Nat)
  | red (op : Nat) (float : Bool)
  | watch
  | bwatch
  | barm
  | arrival
  deriving DecidableEq, Repr

/-- A request from a context to the home slice of a line, or to another device (R117 to R123, R140 to R153).  One to another
device has left through its port where `left` is 1, and is lost where its port went down then, 2.  `reached` says that
it has arrived at its home slice, `at_` in which cycle it issued. -/
structure Req where
  kind : ReqKind
  core : Nat
  ctx : Nat
  id : Nat
  va : Nat
  pa : Nat
  width : Nat
  signed : Bool := false
  v : Nat := 0
  u : Nat := 0
  asid : Nat := 0
  gen : Nat := 0
  acq : Bool := false
  scope : Option Nat := none
  waitsFor : List Nat := []
  waitLocal : Nat := 0
  obj : Option Nat := none
  remote : Option Nat := none
  pc : Nat := 0
  src : Option (Nat × Nat) := none
  left : Nat := 0
  reached : Bool := false
  at_ : Nat := 0
  deriving DecidableEq, Repr

/-- A response on its way to a context: its value, the late fault it carries (R121), a second result (R225), and the local
writes it brings (store, address, bytes; R227). -/
structure Resp where
  v : Word := 0
  fault : Option LateFault := none
  also : Option (Nat × Word) := none
  store : Option (Nat × Nat × List Byte) := none
  deriving DecidableEq, Repr

/-- A watch kept by a slice for a parked context, or for a partition of another device, by the number the request gave itself (R140,
R153, R389); one of those names no core. -/
structure Watch where
  id : Nat
  core : Nat
  ctx : Nat
  asid : Nat
  pa : Nat
  barrier : Bool
  away : Option (Nat × Nat) := none
  deriving DecidableEq, Repr

/-- A journal record of a slice (R221, R293): the line and its pre-image, by gang and group. -/
structure JRec where
  gang : Nat
  group : Nat
  line : Nat
  pre : List Byte
  keyed : Option (Nat × Nat × Option Nat) := none
  deriving DecidableEq, Repr

/-- An address space: its registers, the values in effect since the last gen, its generation and code table
(R117 to R121, R127, R300, R353). -/
structure Space where
  ptb : Word := 0
  pct : Word := 0
  scb : Word := 0
  ctb : Word := 0
  fwb : Word := 0
  oldPtb : Word := 0
  oldPct : Word := 0
  oldScb : Word := 0
  oldCtb : Word := 0
  oldFwb : Word := 0
  gen : Nat := 0
  fetchFrom : Nat := 0
  code : List Byte := []
  deriving DecidableEq, Repr

/-- A partition's number among the command windows, its registers and its supervisor (R332, R345, R352, R362, R377, R427). -/
structure Part where
  num : Nat := 0
  rcb : Nat := 0
  sup : Nat := 0
  gnb : Word := 0
  gnn : Word := 0
  gtb : Word := 0
  flb : Word := 0
  fls : Word := 0
  written : Nat := 0
  lost : Nat := 0
  asb : Word := 0
  asn : Word := 0
  pom0 : Word := 0xFFFFFFFFFFFFFFFF
  pom1 : Word := 0xFFFFFFFFFFFFFFFF
  pom2 : Word := 0xFFFFFFFFFFFFFFFF
  pom3 : Word := 0xFFFFFFFFFFFFFFFF
  deriving DecidableEq, Repr

/-- Where a gang stands with the scheduler: placed, to stop at a stamp, switched out, or placed again and waiting for its
stamp (R335 to R344). -/
inductive GangStatus where
  | running | stopping | out | resuming
  deriving DecidableEq, Repr

/-- A barrier group of a gang (R273 to R283). -/
structure Group where
  ssn : Nat := 0
  rbc : Nat := 0
  rb : Bool := false
  unr : Bool := false
  jov : Bool := false
  arrived : List (Nat × Nat) := []
  cArr : List (Nat × Nat) := []
  xrel : Nat := 0
  relAt : Nat := 0
  startAt : Nat := 0
  late : List Nat := []
  records : List (List Word) := []
  stopAt : Bool := false
  deriving DecidableEq, Repr

/-- The fields of a start descriptor that outlive the start (R334, R339). -/
structure Descr where
  rcb : Nat := 0
  entry : Nat := 0
  argp : Word := 0
  ngx : Nat := 0
  ngy : Nat := 0
  ngz : Nat := 0
  goct : Nat := 0
  pmode : Bool := false
  nowait : Bool := false
  foct : Nat := 0
  limg : Nat := 0
  llen : Nat := 0
  gdn : Bool := false
  gnode : Nat := 0
  host : Bool := false
  jseq : Nat := 0
  caddr : Nat := 0
  cval : Word := 0
  deriving DecidableEq, Repr

/-- An RCB of a chain as a launch read it: where it lies, where its usage fields lie, and its effective budgets
(R331, R332). -/
structure Link where
  pa : Nat
  use : Nat
  bcore : Nat
  bfac : Nat
  bhbm : Nat
  deriving DecidableEq, Repr

/-- The effective fields of an RCB chain, and the chain from the RCB up to the root (R331, R332). -/
structure Chain where
  links : List Link := []
  rcb : Nat := 0
  asidOf : Nat := 0
  part : Nat := 0
  pri : Nat := 0
  ssc : Nat := 0
  rbe : Bool := false
  fdom : Nat := 0
  sup : Nat := 0
  asid : Nat := 0
  bcyc : Nat := 0
  ring : Nat := 0
  rsz : Nat := 0
  deriving DecidableEq, Repr

/-- The operands of an event: numbers of units or pending items, a value, and bytes from outside. -/
structure Ev where
  a : Nat := 0
  b : Nat := 0
  c : Nat := 0
  w : Word := 0
  data : List Byte := []
  deriving DecidableEq, Repr

/-- An event in the calendar: the cycle it falls due, the channel whose order it keeps, the event and its operands. -/
structure Post where
  due : Nat
  chan : Nat
  ev : Instr
  args : Ev
  deriving DecidableEq, Repr

/-- A gang (R14, R331 to R344).  A switched-out gang keeps what its frames hold, the tags they carry and what was in
flight. -/
structure Gang where
  status : GangStatus := .running
  chain : Chain := {}
  descr : Descr := {}
  octs : List Nat := []
  groups : SMap Group := []
  ended : List Nat := []
  ringAt : Nat := 0
  started : Nat := 0
  resident : Nat := 0
  budgetSent : Bool := false
  stopStamp : Nat := 0
  stopBy : Option Nat := none
  resumeBy : Option Nat := none
  fail : Bool := false
  killBy : List Nat := []
  saved : List (Nat × CoreState) := []
  tags : List Nat := []
  parked : List Post := []
  deriving DecidableEq, Repr

/-- Where a request to the scheduler stands: on its way, waiting for octants, accepted, or a graph operation on its
way. -/
inductive SchedStage where
  | sent | waiting | accepted | graph
  deriving DecidableEq, Repr

/-- A request to the scheduler, by launch, gdone or a node of a graph: who made it and with which permissions, where its
descriptor lies, and what was read there (R334, R337 to R346). -/
structure SchedReq where
  id : Nat
  core : Nat
  ctx : Nat
  gang : Nat := 0
  node : Bool := false
  stage : SchedStage := .sent
  part : Nat := 0
  pri : Nat := 0
  top : Bool := false
  asid : Nat := 0
  daddr : Nat := 0
  order : Nat := 0
  descr : Descr := {}
  chain : Chain := {}
  opc : Nat := 0
  gid : Nat := 0
  save : Nat := 0
  nowait : Bool := false
  stamp : Nat := 0
  num : Nat := 0
  mode : Nat := 0
  ssn : Nat := 0
  deriving DecidableEq, Repr

/-- A held unit, a facet by its number or a clause array by 4096 and its number (R298, R299): the holding gang, or the
device agent (1 and a map id, 2 and an octant), the holding core, class, priority and grant time, the RCBs charged, the
request whose recall is in progress, and whether a FINISH has been answered. -/
structure UnitHold where
  gang : Option Nat := none
  agent : Option (Nat × Nat) := none
  core : Nat := 0
  cls : Nat := 0
  pri : Nat := 0
  at_ : Nat := 0
  links : List Link := []
  recalled : Option Nat := none
  finish : Bool := false
  deriving DecidableEq, Repr

/-- A request to an arbiter (R301, R313): from a context (0), a map unit (1), an engine block (2), a frecall (3) or a
frel (4); `who` is the requester's kind and number; `waits` the unit whose recall it waits for, posted by it or not. -/
structure UnitReq where
  id : Nat
  src : Nat
  core : Nat := 0
  ctx : Nat := 0
  who : Nat × Nat
  unit : Nat
  any : Bool := false
  cls : Nat := 0
  pri : Nat := 0
  routine : Bool := false
  part : Nat := 0
  links : List Link := []
  waits : Option Nat := none
  posted : Bool := false
  deriving DecidableEq, Repr

/-- An entry of the trail of a clause array (R319). -/
structure TrailEntry where
  var : Nat
  val : Bool
  level : Nat
  reason : Nat
  deriving DecidableEq, Repr

/-- A clause array (R315): its enabled columns with their literals (variable and sign), the values, levels and trail
positions of the assigned variables, the trail in order, the level and the last propagation result. -/
structure ClauseArr where
  cols : SMap (List (Nat × Bool)) := []
  vals : SMap (Bool × Nat × Nat) := []
  trail : List TrailEntry := []
  cl : Nat := 0
  last : Word := 0
  deriving DecidableEq, Repr

/-- A clause operation on its way to its array: major and XF as one number, the operand, the literals read so far, and where
those that are still to be read stand: a core, a place in its store, and how many; the address of its word and the cycle of its
issue (R121, R322, R326). -/
structure ClauseReq where
  id : Nat
  core : Nat
  ctx : Nat
  m : Nat
  op : Nat
  b : Word
  gang : Nat := 0
  lits : List Nat := []
  list : Option (Nat × Nat × Nat) := none
  pc : Nat := 0
  at_ : Nat := 0
  deriving DecidableEq, Repr

/-- A bucket chain of a map at a slice (R209, R210): the home place of its primary bucket, its entries in chain order,
where its buckets lie, the primary first, in a held facet or in an extent, and the place there; and the STATE of its header. -/
structure KChain where
  home : Nat
  ents : List (Nat × Nat) := []
  places : List (Option Nat × Nat) := []
  state : Nat := 0
  deriving DecidableEq, Repr

/-- A map at one of its slices (R205, R211, R215): growth state, pending steps, a step on its way, the facets held, a
facet request in progress, the extents taken, the chains by bucket number, the entries discarded, and that a step could not
begin and is not tried again yet (R425). -/
structure KSlice where
  l : Nat := 0
  p : Nat := 0
  pending : Nat := 0
  stepping : Bool := false
  facets : List Nat := []
  asked : Bool := false
  exts : Nat := 0
  chains : SMap KChain := []
  lost : Nat := 0
  blocked : Bool := false
  deriving DecidableEq, Repr

/-- A map of the directory (R205, R207): its partition, the creating RCB and gang, its configuration, base slice,
publish count, pending publication (the other map, the gang and the group) and its slices by index. -/
structure KMap where
  part : Nat
  links : List Link := []
  gang : Option Nat := none
  pri : Nat := 0
  miss : Nat := 0
  kw : Bool := false
  vw : Bool := false
  op : Nat := 0
  lgs : Nat := 0
  t : Nat := 0
  b0 : Nat := 1
  cls : Nat := 0
  slb : Nat := 0
  ver : Nat := 0
  pub : Option (Nat × Nat × Nat) := none
  lead : Bool := false
  slices : SMap KSlice := []
  deriving DecidableEq, Repr

/-- An entry of the combining buffer of a slice (R214). -/
structure CombEntry where
  num : Nat
  map : Nat
  key : Nat
  gang : Nat
  v : Nat
  deriving DecidableEq, Repr

/-- A keyed operation on its way (R213): the results it fills, its operands, the address space and generation it
carries, how far an operation of several slices has got (slice, cursor, number of records, sum), the slice it is on its way to
or waits at, the address of a descriptor, the address of its word, and the records of a kiter. -/
structure KReq where
  id : Nat
  also : Option Nat := none
  core : Nat
  ctx : Nat
  op : Nat
  handle : Word
  key : Word := 0
  v : Word := 0
  asid : Nat
  gen : Nat
  gang : Nat := 0
  group : Nat := 0
  dpa : List Nat := []
  buf : Nat := 0
  at_ : Nat := 0
  cur : Word := 0
  sum : Nat := 0
  sl : Nat := 0
  va : Nat := 0
  pc : Nat := 0
  recs : List (Nat × Nat) := []
  deriving DecidableEq, Repr

/-- The hot-row set of an octant (R243): its table, the gang it serves, its facets, those asked for and not yet answered,
and its rows, each index with the place of its row. -/
structure HotSet where
  gang : Nat
  core : Nat
  tbase : Nat
  rstr : Nat
  rlen : Nat
  facets : List Nat := []
  asked : Nat := 0
  rows : List (Nat × Nat) := []
  deriving DecidableEq, Repr


/-- A debug halt in progress (R363, R371): who waits for it, the contexts still to stop, how many it acted on, whether it is precise,
the cycle of a resume, and the contexts still to stop of gangs that are switched out: gang, core and context. -/
structure HaltReq where
  core : Nat
  ctx : Nat
  id : Nat
  left : List (Nat × Nat) := []
  acted : Nat := 0
  precise : Bool := false
  at_ : Nat := 0
  out : List (Nat × Nat × Nat) := []
  deriving DecidableEq, Repr

/-- A gen that waits for the accesses, keyed operations and engine commands of the old generation (R121, R374). -/
structure GenWait where
  core : Nat
  ctx : Nat
  id : Nat
  v : Word
  reqs : List Nat
  keyed : List Nat := []
  cmds : List (Nat × Nat) := []
  deriving DecidableEq, Repr

/-- A tlbi on its way (R374): who waits for it, the address space and address, whether it drops every entry of the address
space, its scope, and the cycle in which it acts. -/
structure TlbWait where
  core : Nat
  ctx : Nat
  id : Nat
  asid : Nat
  va : Nat
  all : Bool
  scope : Nat
  due : Nat
  deriving DecidableEq, Repr

/-- A trace unit of a die (R367): its control, buffer and stamp, and what it has recorded, newest first. -/
structure Trace where
  oct : Nat := 0
  mode : Nat := 0
  ring : Bool := false
  run : Bool := false
  done : Bool := false
  trb : Word := 0
  tst : Word := 0
  since : Nat := 0
  first : Nat := 0
  recs : List (Nat × Nat × List Nat) := []
  deriving DecidableEq, Repr

/-- A branch of a plane-cast transfer (R254, R262): the device where it is another, core and slot, the sections that have
landed, whether it ended by landing (1), refusal (2) or cancellation (3), and whether the port knows of its end. -/
structure Branch where
  dev : Option Nat := none
  core : Nat
  slot : Nat
  got : Nat := 0
  ended : Nat := 0
  known : Bool := false
  deriving DecidableEq, Repr

/-- A plane-cast transfer (R251 to R263): the sending core and its command (none where the sender is an engine block's
reduction or another device), its gang, width and KS, the branches, and the sections sent. -/
structure Xfer where
  core : Nat
  dev : Option Nat := none
  cmd : Option Nat := none
  gang : Option Nat := none
  w : Nat
  ks : Nat
  branches : List Branch
  sent : Nat := 0
  stopped : Bool := false
  deriving DecidableEq, Repr

/-- A notify ring of the host: its address, the logarithm of its size, and the next position (R383). -/
structure Notify where
  addr : Nat
  lg : Nat
  pos : Nat := 0
  deriving DecidableEq, Repr

/-- What the device has sent to the host over a link: posted writes, MSI-X messages, read completions and completer
aborts (R376 to R378, R383). -/
inductive HostOut where
  | write (link addr : Nat) (data : List Byte)
  | message (link vector : Nat)
  | data (link : Nat) (bytes : List Byte)
  | abort (link : Nat)
  deriving DecidableEq, Repr

/-- What a flit carries, whose bytes the spec does not lay out: nothing; a request, by the numbers that say what it asks; the
answer to a request of another device (the number it gave itself, the partition that asked, the cause or 0, and the value); a part of a section of a
plane-cast for a core and slot; the end of a branch that came from another device (R254, R261, R386). -/
inductive FlitPay where
  | none
  | request (what : List Nat)
  | answer (tag part cause : Nat) (v : Word)
  | piece (core slot sec n : Nat) (data : List Byte)
  | branch (core slot how : Nat)
  deriving DecidableEq, Repr

/-- A flit as a port sends it (R386): SEQ, TYPE, ACK, VC (0 requests, 1 responses, 2 management), DST and SRC, and what its
payload says; Flit.bytes gives its 256 bytes. -/
structure Flit where
  seq : Nat := 0
  typ : Nat := 1
  ack : Nat := 0
  vc : Nat := 0
  dst : Nat := 0
  src : Nat := 0
  pay : FlitPay := .none
  deriving DecidableEq, Repr

/-- What a port has sent (R386 to R389). -/
inductive PortOut where
  | flit (port : Nat) (f : Flit)
  deriving DecidableEq, Repr

/-- A scale-up port (R385 to R388), down until step 10 of a start has trained it (R396): the lanes that have failed, its width and first lane, whether it retrains or is down,
the next sequence number it sends and the one it expects, the data flits not yet acknowledged, oldest first, and those that
wait to be sent, the replays without progress, the time base at the last progress, and by device the payloads received that do not
yet make up a whole request. -/
structure Port where
  failed : Nat := 0
  width : Nat := 0
  lane : Nat := 0
  training : Bool := false
  down : Bool := true
  tx : Nat := 0
  rx : Nat := 0
  sent : List Flit := []
  queue : List Flit := []
  replays : Nat := 0
  since : Nat := 0
  inbox : SMap (List Byte) := []
  deriving DecidableEq, Repr

/-- An engine's writes to a core of another block that wait their turn (R8, R289): the octant they come from, the core and
gang they go to, and either a section of a branch of a transfer or a COPYL command of a core. -/
structure LandTurn where
  src : Nat
  core : Nat
  gang : Option Nat
  copyl : Bool
  id : Nat
  branch : Nat := 0
  sec : Nat := 0
  deriving DecidableEq, Repr

/-- A firmware image with its signature, and its security version (R398). -/
structure Image where
  bytes : List Byte := []
  version : Nat := 0
  deriving DecidableEq, Repr

/-- What firmware has bound to a partition of another device (R117, R261, R389). -/
structure Binding where
  asid : Nat
  part : Nat
  deriving DecidableEq, Repr

/-- The module beyond the cores (R376 to R400): DSTAT's flags and step, the power limit and what the power manager knows,
that a written limit still lowers the clock among it,
the power events newest first and their count, the dropped host accesses, the notify rings, the frames granted by link,
the bindings, the ports, the repair tables and what they had no room for, the boot record (start count, options, the
entries by step), the image slots of the non-volatile store, the fused digest of the root key and the fused minimum version, the slot
that runs, whether the links are bonded and whether the start is a warm one, the attestation mailbox, the outcome of
the last tenant change, and what has left the device. -/
structure Module where
  ready : Bool := false
  failed : Bool := false
  trip : Bool := false
  step : Nat := 0
  plim : Nat := 2000
  power : Nat := 0
  lowered : Bool := false
  lowSince : Option Nat := none
  events : List (List Byte) := []
  eventCount : Nat := 0
  hdrop : Nat := 0
  notify : SMap Notify := []
  grants : List (Nat × Nat) := []
  bindings : SMap Binding := []
  ports : SMap Port := []
  repair : SMap (List Nat) := []
  third : List (Nat × Nat) := []
  starts : Nat := 0
  options : List Byte := []
  boot : SMap Nat := []
  images : SMap (List Image) := []
  rootKey : List Byte := List.replicate 64 0
  minVersion : Nat := 0
  slot : Nat := 0
  bonded : Bool := false
  warm : Bool := false
  attest : List Byte := []
  tenant : Bool := false
  tenantSts : Nat := 0
  tenantErrs : Nat := 0
  tenantTest : Nat := 0
  toHost : List HostOut := []
  toPorts : List PortOut := []
  deriving DecidableEq, Repr

/-- The machine. -/
structure State where
  now : Nat := 0
  clk : Nat := 0
  tb : Nat := 0
  tbFrac : Nat := 0
  cc : Nat := 0
  cx : Nat := 0
  scan : Nat := 0
  fresh : Nat := 0
  nextId : Nat := 1
  code : Code := 0
  ev : Ev := {}
  cal : List Post := []
  inputs : List Post := []
  cores : SMap CoreState := []
  mem : Mem := []
  stale : List (Nat × Nat × Nat) := []
  spaces : SMap Space := []
  parts : SMap Part := []
  gangs : SMap Gang := []
  sched : SMap SchedReq := []
  counters : SMap Nat := []
  reqs : SMap Req := []
  held : List Nat := []
  resps : SMap Resp := []
  watches : SMap (List Watch) := []
  journals : SMap (List JRec) := []
  did : Nat := 0
  units : SMap UnitHold := []
  halts : SMap HaltReq := []
  genWaits : List GenWait := []
  tlbWaits : List TlbWait := []
  traces : SMap Trace := []
  chkCore : Nat := 0
  mism : Nat := 0
  viral : Bool := false
  virSrc : Nat := 0
  virUnit : Nat := 0
  vgroups : SMap Nat := []
  xfers : SMap Xfer := []
  unitReqs : SMap UnitReq := []
  refusals : SMap Nat := []
  arrays : SMap ClauseArr := []
  clauseReqs : SMap ClauseReq := []
  maps : SMap KMap := []
  versions : SMap Nat := []
  kreqs : SMap KReq := []
  kwait : SMap (List Nat) := []
  combs : SMap (List CombEntry) := []
  hots : SMap HotSet := []
  sides : SMap SideLine := []
  landq : List LandTurn := []
  md : Module := {}
  deriving DecidableEq, Repr

/-- Why the machine stops with a fault. -/
inductive Fault where
  /-- Raised by step once the power manager has removed the rails (R395) and neither a read of BAR0 nor a cold reset, which
  is all the module still answers, is to come.  Safe: the machine stops where the hardware no longer does anything. -/
  | railsOff
  deriving DecidableEq, Repr

/-- Why the model gives no next state. -/
inductive Refusal where
  /-- Raised by exec for an instruction that has no meaning yet, by its mnemonic.  Safe: nothing is claimed of it. -/
  | notModelled (mnemonic : String)
  deriving DecidableEq, Repr

/-- The partition of the device root, present from reset (R332, R351). -/
def Part.root : Part := {}

/-- The machine right after reset (R77, R336, R352, R396): nothing placed, nothing written, the start-up sequence due. -/
def State.reset : State where
  cal := [⟨0, 0, .startUp, {}⟩]
  parts := [(0, Part.root)]

end Sys2Proof.Machine
end

