-- ==== Sys2Proof/Machine/Ops.lean ====
section
/-! DEFINITION. The named operations over the state: reaching cores and contexts, results and their delivery, the
local stores, global memory and translation, requests and responses, fault messages, taking an exception and returning
from one. -/
namespace Sys2Proof.Machine

/-- The outcome of a step. -/
abbrev Res := Host.Outcome State Fault Refusal

/-! ### Reaching cores and contexts -/

def State.core (s : State) (c : Nat) : CoreState := SMap.get CoreState.init s.cores c
def State.setCore (s : State) (c : Nat) (k : CoreState) : State := { s with cores := SMap.put s.cores c k }
def State.modCore (s : State) (c : Nat) (f : CoreState → CoreState) : State := s.setCore c (f (s.core c))

def CoreState.ctx (k : CoreState) (x : Nat) : Ctx := SMap.get Ctx.init k.ctxs x
def CoreState.setCtx (k : CoreState) (x : Nat) (t : Ctx) : CoreState := { k with ctxs := SMap.put k.ctxs x t }

def State.ctxAt (s : State) (c x : Nat) : Ctx := (s.core c).ctx x
def State.setCtx (s : State) (c x : Nat) (t : Ctx) : State := s.setCore c ((s.core c).setCtx x t)
def State.modCtx (s : State) (c x : Nat) (f : Ctx → Ctx) : State := s.setCtx c x (f (s.ctxAt c x))

/-- None of a core's contexts is running (R365). -/
def CoreState.quiet (k : CoreState) : Bool := k.ctxs.all fun x => x.2.status != .running

/-- The core whose word is issuing. -/
def State.curCore (s : State) : CoreState := s.core s.cc
/-- The context whose word is issuing. -/
def State.cur (s : State) : Ctx := s.ctxAt s.cc s.cx
def State.modCur (s : State) (f : Ctx → Ctx) : State := s.modCtx s.cc s.cx f
def State.modCurCore (s : State) (f : CoreState → CoreState) : State := s.modCore s.cc f

/-- The octant of a core (R5). -/
def octOf (core : Nat) : Nat := core / 8
/-- The node of a core (R5). -/
def nodeOf (core : Nat) : Nat := core / 16
/-- Column of a node (R5). -/
def nodeX (n : Nat) : Nat := n % 16
/-- Row of a node (R5). -/
def nodeY (n : Nat) : Nat := n / 16
/-- The die of a node: columns 0 to 7 are die W, 0, and 8 to 15 die E, 1 (R5). -/
def dieOfNode (n : Nat) : Nat := nodeX n / 8
/-- The die of a core. -/
def dieOf (core : Nat) : Nat := dieOfNode (nodeOf core)

/-- Hops in one dimension of a ring of `m` (R6). -/
def ringHops (m a b : Nat) : Nat := let d := if a ≤ b then b - a else a - b; Nat.min d (m - d)

/-- The hop count between two nodes (R6). -/
def hops (a b : Nat) : Nat := ringHops 16 (nodeX a) (nodeX b) + ringHops 8 (nodeY a) (nodeY b)

/-- Whether the X route from one node to another crosses the die bridge (R6, R9). -/
def crossesBridge (a b : Nat) : Bool := dieOfNode a != dieOfNode b

/-- The XF delay between two nodes (R9). -/
def xfDelay (a b : Nat) : Nat := 4 + 2 * hops a b + (if crossesBridge a b then 6 else 0)

/-- The time base as a core reads it: at most 8 from the ideal counter (R11). -/
def State.cyc (s : State) (core : Nat) : Nat := s.tb + Config.skew core s.tb % 17 - 8

/-- The clock in MHz (R12, R394). -/
def State.clock (s : State) : Nat := 1050 - 35 * s.clk

/-! ### Free choices and the calendar -/

/-- The `k`-th free choice of two outcomes of this step. -/
def State.freeB (s : State) (k : Nat) : Bool := Config.freeBool (64 * s.fresh + k)
/-- The `k`-th free number of this step. -/
def State.freeN (s : State) (k : Nat) : Nat := Config.freeNat (64 * s.fresh + k)
/-- The `k`-th free 64-bit value of this step. -/
def State.freeW (s : State) (k : Nat) : Word := Config.freeWord (64 * s.fresh + k)
/-- Use up the free values of this step. -/
def State.renew (s : State) : State := { s with fresh := s.fresh + 1 }

/-- Either of two values: the one, where they agree, else a free choice. -/
def State.either {α : Type} [DecidableEq α] (s : State) (k : Nat) (a b : α) : α :=
  if a = b then a else if s.freeB k then a else b

/-- The latest due cycle of a channel. -/
def lastDue (chan : Nat) : List Post → Nat
  | [] => 0
  | p :: ps => if p.chan = chan then Nat.max p.due (lastDue chan ps) else lastDue chan ps

/-- Put an event in the calendar for a given cycle; channel 0 keeps no order. -/
def State.postAt (s : State) (due chan : Nat) (ev : Instr) (o : Ev) : State :=
  { s with cal := s.cal ++ [⟨Nat.max due (if chan = 0 then 0 else lastDue chan s.cal), chan, ev, o⟩] }

/-- Put an event in the calendar after a free delay, behind what its channel already carries (R8). -/
def State.post (s : State) (chan : Nat) (ev : Instr) (o : Ev) : State :=
  (s.postAt (s.now + 1 + s.freeN 0) chan ev o).renew

/-- The LS request channel from a core to a home slice, and the response channel back: each carries its messages in order
(R8, R123, R132). -/
def lsChan (core slice : Nat) : Nat := 1 + 4 * (core * 128 + slice)
def lsBack (slice core : Nat) : Nat := 1 + 4 * (2 ^ 18 + slice * 2048 + core)
def lsAcross (src dst : Nat) : Nat := 1 + 4 * (2 ^ 21 + src * 128 + dst)
/-- The queue of a line at its home slice (R123). -/
def lineChan (pa : Nat) : Nat := 4 * (pa / 64 + 1)
/-- The channel from a core to another device of the domain. -/
def awayChan (core device : Nat) : Nat := 1 + 4 * (2 ^ 19 + core * 512 + device)
/-- The channel of the events of one unit that come in order, by class and number. -/
def unitChan (cls n : Nat) : Nat := 2 + 4 * (n * 64 + cls)
/-- The BK channel from an octant's engine block to an octant (R8). -/
def bkChan (src dst : Nat) : Nat := 3 + 4 * (src * 256 + dst)

/-- A fresh number for a request, a result or a command. -/
def State.newId (s : State) : Nat := s.nextId
def State.useId (s : State) : State := { s with nextId := s.nextId + 1 }

/-! ### Gangs, groups, partitions and levels -/

def State.gang (s : State) (g : Nat) : Gang := SMap.get {} s.gangs g
def State.setGang (s : State) (g : Nat) (v : Gang) : State := { s with gangs := SMap.put s.gangs g v }
def State.modGang (s : State) (g : Nat) (f : Gang → Gang) : State := s.setGang g (f (s.gang g))
def State.gangOf (s : State) (core : Nat) : Option Gang :=
  match (s.core core).gang with
  | none => none
  | some g => SMap.find s.gangs g

def State.part (s : State) (p : Nat) : Part := SMap.get {} s.parts p
def State.modPart (s : State) (p : Nat) (f : Part → Part) : State :=
  { s with parts := SMap.put s.parts p (f (s.part p)) }

/-- A partition that is met for the first time takes the next number among the command windows (R377). -/
def State.meetPart (s : State) (p : Nat) : State :=
  if (SMap.find s.parts p).isSome then s else s.modPart p fun v => { v with num := s.parts.length }
/-- The command window of a partition (R377). -/
def State.partNum (s : State) (p : Nat) : Nat := (s.part p).num % 256
def State.space (s : State) (a : Nat) : Space := SMap.get {} s.spaces a
def State.modSpace (s : State) (a : Nat) (f : Space → Space) : State :=
  { s with spaces := SMap.put s.spaces a (f (s.space a)) }

/-- The partition whose supervisor a core is, if any: the device root first, the others by number (R351). -/
def supPart (core : Nat) : SMap Part → Option Nat
  | [] => none
  | (p, v) :: ps => if v.sup = core then some p else supPart core ps

/-- The partition of a core: of its gang, or the one it supervises (R351); the root where there is neither. -/
def State.partOf (s : State) (core : Nat) : Nat :=
  match s.gangOf core with
  | some g => g.chain.part
  | none => (supPart core s.parts).getD 0

/-- The partition that a core acts for: the one it is the supervisor core of, else its gang's (R351, R352). -/
def State.actsFor (s : State) (core : Nat) : Nat := (supPart core s.parts).getD (s.partOf core)

/-- The privilege level of a core (R351). -/
def State.level (s : State) (core : Nat) : Nat :=
  match supPart core s.parts with
  | some 0 => 2
  | some _ => 1
  | none => 0

/-- Rollback is enabled in the gang of a core (R113, R291). -/
def State.rbe (s : State) (core : Nat) : Bool :=
  match s.gangOf core with
  | some g => g.chain.rbe
  | none => false

/-- The address space a core runs in (R335); the base address space of its partition where it runs no gang. -/
def State.asidOf (s : State) (core : Nat) : Nat :=
  match s.gangOf core with
  | some g => g.chain.asid
  | none => fld (s.part (s.partOf core)).asb 0 16

/-- The number of the barrier group a core belongs to, by the scope of its gang (R273). -/
def groupIndex (ssc core : Nat) : Nat :=
  match ssc with
  | 0 => octOf core
  | 1 => nodeOf core
  | 2 => dieOf core
  | _ => 0

/-- The gang and the barrier group of a core (R273). -/
def State.groupKey (s : State) (core : Nat) : Option (Nat × Nat) :=
  match (s.core core).gang with
  | none => none
  | some g => some (g, groupIndex (s.gang g).chain.ssc core)

def State.group (s : State) (g i : Nat) : Group := SMap.get {} (s.gang g).groups i
def State.modGroup (s : State) (g i : Nat) (f : Group → Group) : State :=
  s.modGang g fun v => { v with groups := SMap.put v.groups i (f (SMap.get {} v.groups i)) }

/-- The superstep number a core reads (R274). -/
def State.ssn (s : State) (core : Nat) : Nat :=
  match s.groupKey core with
  | some (g, i) => (s.group g i).ssn
  | none => 0

/-- Set UNR for the current superstep of a core's group (R294). -/
def State.setUnr (s : State) (core : Nat) : State :=
  match s.groupKey core with
  | some (g, i) => s.modGroup g i fun v => { v with unr := true }
  | none => s

/-- The cores of a set of octants, ascending. -/
def coresOf : List Nat → List Nat
  | [] => []
  | o :: os => [8 * o, 8 * o + 1, 8 * o + 2, 8 * o + 3, 8 * o + 4, 8 * o + 5, 8 * o + 6, 8 * o + 7] ++ coresOf os

/-- The participants of a barrier group (R273). -/
def State.members (s : State) (g i : Nat) : List Nat :=
  (coresOf (s.gang g).octs).filter fun c => groupIndex (s.gang g).chain.ssc c == i

/-! ### Results (R66 to R74) -/

/-- Physical slot of q_k (R67). -/
def Ctx.slotNo (t : Ctx) (k : Nat) : Nat := (t.head.toNat + k + 15) % 16

/-- The content of the slot named q_k (R67, R72). -/
def Ctx.q (t : Ctx) (k : Nat) : Word := SMap.get 0 t.slots (t.slotNo k)

/-- The content of gN; g0 reads zero (R70). -/
def Ctx.g (t : Ctx) (n : Nat) : Word := if n = 0 then 0 else SMap.get 0 t.regs n

/-- Write gN; a write to g0 is discarded (R70). -/
def Ctx.setG (t : Ctx) (n : Nat) (v : Word) : Ctx :=
  if n = 0 then t else { t with regs := SMap.set 0 t.regs n v }

/-- Write a physical queue slot. -/
def Ctx.setSlot (t : Ctx) (k : Nat) (v : Word) : Ctx := { t with slots := SMap.set 0 t.slots k v }

/-- The named register of a destination code, if it writes one (R30). -/
def destReg (d : Opnd) : Option Nat := if 1 ≤ d.toNat ∧ d.toNat ≤ 31 then some d.toNat else none

/-- Set sticky flags of st (R95). -/
def Ctx.orFlags (t : Ctx) (f : Nat) : Ctx := { t with st := t.st ||| word (f % 32) }

/-- A younger producer takes the slot and the register from an older pending result (R68, R70). -/
def Pend.yield (p : Pend) (slot : Nat) (reg : Option Nat) : Pend :=
  { p with slot := if p.slot = some slot then none else p.slot
           reg := if reg ≠ none ∧ p.reg = reg then none else p.reg }

/-- Issue of a producer: the head moves, the new slot and the register become pending for it (R67, R68, R70). -/
def Ctx.produce (t : Ctx) (d : Opnd) (mk : Nat → Option Nat → Pend) : Ctx :=
  let h := t.head - 1
  let slot := h.toNat
  let reg := destReg d
  { t with head := h, pend := t.pend.map (fun p => p.yield slot reg) ++ [mk slot reg] }

/-- Delivery of a fixed-latency result as far as cycle `now` has reached it: the queue slot and the flags at `slotAt`,
the register at `regAt` (R70, R96). -/
def Ctx.settleOne (now : Nat) (t : Ctx) (p : Pend) : Ctx :=
  match p.val with
  | none => { t with pend := t.pend ++ [p] }
  | some v =>
    let t := if p.slotAt ≤ now then
        (match p.slot with | some k => t.setSlot k v | none => t).orFlags p.flags
      else t
    let t := if p.regAt ≤ now then (match p.reg with | some n => t.setG n v | none => t) else t
    if p.slotAt ≤ now ∧ p.regAt ≤ now then t
    else
      let p := if p.slotAt ≤ now then { p with slot := none, flags := 0 } else p
      let p := if p.regAt ≤ now then { p with reg := none } else p
      { t with pend := t.pend ++ [p] }

/-- Delivery of every fixed-latency result that cycle `now` has reached. -/
def Ctx.settle (now : Nat) (t : Ctx) : Ctx := t.pend.foldl (Ctx.settleOne now) { t with pend := [] }

/-- The cycle by which every fixed-latency result has arrived, 0 where none is pending (R74). -/
def fixedAt : List Pend → Nat
  | [] => 0
  | p :: ps => Nat.max (Nat.max p.slotAt p.regAt) (fixedAt ps)

/-- Deliver every fixed-latency result (R74). -/
def Ctx.drain (t : Ctx) : Ctx := t.settle (fixedAt t.pend)

/-- A fixed-latency result of the word issuing now: written to `d` and pushed, readable after `L` cycles, 2 more where
`slow` (R70, R424), with its flags. -/
def State.result (s : State) (d : Opnd) (v : Word) (L : Nat) (slow : Bool) (flags : Nat) : State :=
  let at' := s.now + L + (if slow then 2 else 0)
  let rat := at' + (if 16 ≤ d.toNat ∧ d.toNat ≤ 31 then 2 else 0)
  let i := s.newId
  (s.modCur fun t => t.produce d fun slot reg =>
    { id := i, slot := some slot, reg := reg, val := some v, slotAt := at', regAt := if reg = none then at' else rat,
      flags := flags }).useId

/-- A long-operation result of the word issuing now: the slot and register become pending until it arrives (R71). -/
def State.longResult (s : State) (d : Opnd) : State :=
  let i := s.newId
  (s.modCur fun t => t.produce d fun slot reg => { id := i, slot := some slot, reg := reg }).useId

/-! ### Local stores (R113 to R116) -/

/-- The span of the region covering a store address, 0 where none does; the lowest number applies (R114). -/
def spanOf (rs : SMap Region) (a : Nat) : Nat :=
  match firstOf (fun n => let r := SMap.get {} rs n; r.size != 0 && r.base ≤ a && a < r.base + 4096 * r.size)
      [0, 1, 2, 3, 4, 5, 6, 7] with
  | none => 0
  | some n => (SMap.get {} rs n).span

/-- The bank of a store address (R114). -/
def bankOf (rs : SMap Region) (a : Nat) : Nat :=
  let c := spanOf rs a
  if c = 0 then (a / 8) % 32 else ((a / 8) ^^^ (a / 2 ^ (c + 3))) % 32

/-- Where a store address lies: row, bank and byte (R114, R115). -/
def place (rs : SMap Region) (a : Nat) : Nat := a / 256 * 256 + bankOf rs a * 8 + a % 8

/-- The byte at a store address. -/
def CoreState.lbyte (k : CoreState) (a : Nat) : Byte := SMap.get Mem.dflt k.ls (place k.regions a)

/-- The `w` bytes at a store address. -/
def CoreState.lbytes (k : CoreState) (a w : Nat) : List Byte := (List.range w).map fun i => k.lbyte (a + i)

/-- Write bytes from a store address up, with no effect beside. -/
def CoreState.lput (k : CoreState) (a : Nat) : List Byte → CoreState
  | [] => k
  | b :: bs => CoreState.lput { k with ls := SMap.set Mem.dflt k.ls (place k.regions a) b } (a + 1) bs

/-- The little-endian value of `w` bytes at a store address of a core. -/
def State.lread (s : State) (core a w : Nat) : Nat := ofBytes ((s.core core).lbytes a w)

/-- The places of the eight words of a line of the store. -/
def linePlaces (rs : SMap Region) (line : Nat) : List Nat := (List.range 8).map fun i => place rs (64 * line + 8 * i)

/-- Whether a store line is already in the undo log, under the mapping in force. -/
def Undo.has (u : Undo) (rs : SMap Region) (line : Nat) : Bool := u.lines.any fun e => e.1 == line && e.2.1 == linePlaces rs line

/-- Whether a store address lies in the exempt range of ulog (R296). -/
def Undo.exempt (u : Undo) (a : Nat) : Bool := u.exBase ≤ a && a < u.exBase + 4096 * u.exSize

/-- Copy a line of the store into the undo log before its first write in a superstep (R292).  The log keeps the
positions the line's bytes lie at, so that a later change of mapping does not move them. -/
def State.logLine (s : State) (core line : Nat) : State :=
  let k := s.core core
  if k.undo.has k.regions line then s
  else if 512 ≤ k.undo.lines.length then
    (s.setCore core { k with undo := { k.undo with lov := true } }).setUnr core
  else
    let pre := k.lbytes (64 * line) 64
    let n := k.undo.lines.length
    let raw := (List.range 64).zip pre
    let ls := raw.foldl (fun m e => SMap.set Mem.dflt m (0x58000 + 64 * n + e.1) e.2) k.ls
    s.setCore core { k with ls := ls, undo := { k.undo with lines := (line, linePlaces k.regions line, pre) :: k.undo.lines } }

/-- Matrix entries pending in the octant of a core. -/
def State.matrixBusy (s : State) (core : Nat) : Bool :=
  (coresOf [octOf core]).any fun c => !(s.core c).mat.q.isEmpty

/-- Keep the old content of the words a write changes while a matrix entry of the octant is pending; a word written more than once
in a cycle holds nothing in between (R192). -/
def State.keepOld (s : State) (core a w : Nat) : State :=
  if s.matrixBusy core then
    let k := s.core core
    let words := (List.range ((a % 8 + w + 7) / 8)).map fun i => a / 8 * 8 + 8 * i
    let new := (words.map fun b => (⟨place k.regions b, s.now, k.lbytes b 8, none⟩ : OldWord)).filter fun o =>
      !k.mat.hist.any fun x => x.at_ == o.at_ && x.place == o.place
    s.setCore core { k with mat := { k.mat with hist := new ++ k.mat.hist } }
  else s

/-- Lines of 64 bytes that a range meets. -/
def linesOf (a w : Nat) : List Nat := if w = 0 then [] else (List.range ((a + w - 1) / 64 - a / 64 + 1)).map (· + a / 64)

/-- A local write of any agent: undo log (R292), old values for the matrix unit (R192), then the bytes. -/
def State.lputBytes (s : State) (core a : Nat) (bs : List Byte) : State :=
  let s := if s.rbe core then
      (linesOf a bs.length).foldl (fun s l => if (s.core core).undo.exempt (64 * l) then s else s.logLine core l) s
    else s
  let s := s.keepOld core a bs.length
  s.modCore core fun k => k.lput a bs

/-- A local write of the low `w` bytes of a value. -/
def State.lwrite (s : State) (core a w v : Nat) : State := s.lputBytes core a (toBytes w v)

/-- Where a local access of a core goes, or its cause: 1 misaligned, 2 no target, 3 undo-log range (R113, R130). -/
def State.target (s : State) (core addr align len : Nat) : Except Nat (Nat × Nat) :=
  if addr % align ≠ 0 then .error 1
  else
    let tgt : Option (Nat × Nat) :=
      if addr < 0x60000 then some (core, addr)
      else if 0x800000 ≤ addr ∧ addr < 0xC00000 ∧ (addr - 0x800000) % 0x80000 < 0x60000 then
        some (8 * octOf core + (addr - 0x800000) / 0x80000, (addr - 0x800000) % 0x80000)
      else none
    match tgt with
    | none => .error 2
    | some (c, a) =>
      if 0x60000 < a + len then .error 2
      else if s.rbe core ∧ 0x58000 < a + len then .error 3
      else .ok (c, a)

/-- The value of an integer of width `w` bytes extended to 64 bits by its signedness (R90). -/
def extend (w : Nat) (signed : Bool) (n : Nat) : Word := if signed then iword (sgn (8 * w) n) else word (n % 2 ^ (8 * w))

/-- The new word of an atomic, from the old word and the operands v and u, all of width `w` bytes (R146): aadd, aand,
aor, axor, amin, amax, aswp, acas, aincw, abadd. -/
def atomicNew (op w : Nat) (signed : Bool) (old v u : Nat) : Nat :=
  let lt (x y : Nat) : Bool := if signed then decide (sgn (8 * w) x < sgn (8 * w) y) else decide (x < y)
  match op with
  | 0 => (old + v) % 2 ^ (8 * w)
  | 1 => old &&& v
  | 2 => old ||| v
  | 3 => old ^^^ v
  | 4 => if lt v old then v else old
  | 5 => if lt old v then v else old
  | 6 => v
  | 7 => if old = u then v else old
  | 8 => if u ≤ old then 0 else old + 1
  | _ => if old < u then Nat.min (old + v) u else old

/-- A fixed-latency result whose value has been read at last (R116, R142). -/
def Ctx.setVal (t : Ctx) (id : Nat) (v : Word) : Ctx :=
  { t with pend := t.pend.map fun p => if p.id = id then { p with val := some v } else p }

/-- The inputs bound to a core, over its group (R285). -/
def State.boundTo (s : State) (src : Nat) : List (Nat × Nat) :=
  match s.groupKey src with
  | none => []
  | some (g, i) => (s.members g i).flatMap fun c =>
      ((s.core c).ex.binds.filter fun e => e.2 == src).map fun e => (c, e.1)

/-- A word of a core becomes available at each bound input, the XF delay after a cycle (R286). -/
def State.sendWord (s : State) (core : Nat) (w : Word) (at_ : Nat) : State :=
  (s.boundTo core).foldl (fun s e => s.postAt (at_ + xfDelay (nodeOf core) (nodeOf e.1)) 0 .exchangeWordArrival ⟨e.1, e.2, 0, w, []⟩) s

/-- A sibling access that writes nothing. -/
def Sib.passes (b : Sib) : Bool := b.op == .load || b.op == .xmit

/-- What the words held before the write of a sibling access stands there with who made it (R192). -/
def State.ownOld (s : State) (core : Nat) (b : Sib) : State :=
  let own (o : OldWord) : OldWord :=
    if o.at_ = s.now ∧ o.place / 8 * 8 = place (s.core b.target).regions b.addr / 8 * 8 then
      { o with by_ := some (core, b.ctx, b.due - 3) }
    else o
  s.modCore b.target fun k => { k with mat := { k.mat with hist := k.mat.hist.map own } }

/-- A sibling access performs at the bank of its target (R116, R142). -/
def State.sibPerform (s : State) (core : Nat) (b : Sib) : State :=
  match b.op with
  | .load => s.modCtx core b.ctx fun t => t.setVal b.id (extend b.width b.signed (s.lread b.target b.addr b.width))
  | .store => (s.lwrite b.target b.addr b.width b.v).ownOld core b
  | .atomic op =>
    let old := s.lread b.target b.addr b.width
    let s := (s.lwrite b.target b.addr b.width (atomicNew op b.width b.signed old b.v b.u)).ownOld core b
    s.modCtx core b.ctx fun t => t.setVal b.id (extend b.width b.signed old)
  | .xmit => s.sendWord core (word (s.lread b.target b.addr b.width)) (s.now + 1)

/-! ### Operand tiles and the write guard (R184, R185, R192) -/

/-- A tile header's fields (R184). -/
structure Tile where
  tag : Nat
  spn : Nat
  fmt : Nat
  ks : Nat
  slot : Nat
  deriving DecidableEq, Repr

/-- Reading a header at a store address (R184). -/
def State.tile (s : State) (core a : Nat) : Tile :=
  let n := s.lread core a 3
  ⟨bitsOf n 0 4, bitsOf n 4 3, bitsOf n 8 8, bitsOf n 16 4, bitsOf n 20 4⟩

/-- The K of a tile (R184). -/
def Tile.depth (t : Tile) : Nat := 16 * (t.ks + 1)

/-- Mantissa width of a block format code, 0 for any other (R35). -/
def blockWidth (f : Nat) : Nat :=
  if 0x22 ≤ f ∧ f ≤ 0x28 then f - 0x20 else if 0x32 ≤ f ∧ f ≤ 0x38 then f - 0x30 else 0

/-- A layout serves a format (R185, R186). -/
def layoutFits (tag f : Nat) : Bool :=
  match tag with
  | 1 => f == 0x01 || f == 0x10 || f == 0x11
  | 2 => 0x22 ≤ f && f ≤ 0x28
  | 3 => 0x32 ≤ f && f ≤ 0x38
  | 4 => 0x32 ≤ f && f ≤ 0x38
  | _ => false

/-- Bytes from the header to the end of the data of a layout; `planes` limits a PM tile (R185). -/
def tileLen (tag f K planes : Nat) : Nat :=
  let w := blockWidth f
  match tag with
  | 1 => 64 + 32 * K * (if f = 0x01 then 1 else 2)
  | 2 => 64 + 2 * K + 4 * w * K
  | 3 => 128 + 4 * w * K
  | 4 => 128 + 4 * K * planes
  | _ => 64

/-- The range of an operand of a matrix entry: the store, the address and the length; none where it has no target
(R185). -/
def State.operandRange (s : State) (core addr f planes : Nat) (pl : Bool) : Option (Nat × Nat × Nat) :=
  match s.target core addr 1 3 with
  | .error _ => none
  | .ok (c, a) =>
    let h := s.tile c a
    let p := if pl then planes else blockWidth f
    some (c, a, if layoutFits h.tag f then tileLen h.tag f h.depth p else 64)

/-- Two ranges share an 8-byte word. -/
def wordsMeet (a n b m : Nat) : Bool := n != 0 && m != 0 && a / 8 ≤ (b + m - 1) / 8 && b / 8 ≤ (a + n - 1) / 8

/-- The precision counter of a landing slot of a core (R253). -/
def State.precision (s : State) (core slot : Nat) : Nat := (SMap.get {} (s.core core).land slot).cnt

/-- A write falls in the range of a matrix entry that was issued with MG set and has not fetched it, of an entry that meets `p`
(R192). -/
def State.guardedBy (s : State) (p : Nat → MEntry → Bool) (core a w : Nat) : Bool :=
  (coresOf [octOf core]).any fun c =>
    (s.core c).mat.q.any fun e =>
      p c e && e.mg && (e.begunAt.isNone || s.now < e.fetchAt) &&
        ([(e.a, e.fa, e.pl), (e.b, e.fb, false)].any fun x =>
          match s.operandRange c x.1 x.2.1 e.planes x.2.2 with
          | none => false
          | some (tc, ta, n) => tc == core && wordsMeet ta n a w)

/-- A write falls in a guarded range. -/
def State.guarded (s : State) (core a w : Nat) : Bool := s.guardedBy (fun _ _ => true) core a w

/-- A local access that a context issued before a cycle, to a sibling store, has not performed: a guarded range holds it back
(R116, R192). -/
def CoreState.sibBefore (k : CoreState) (ctx at_ : Nat) : Bool := k.sibs.any fun b => b.ctx == ctx && b.due < at_ + 3

/-- A write of a context to a sibling store, on its way to a store, that a guarded range holds back (R116, R192). -/
def State.sibHeld (s : State) (core ctx target : Nat) : Bool :=
  (s.core core).sibs.any fun b => b.ctx == ctx && b.target == target && !b.passes
    && s.guardedBy (fun d e => !(d == core && e.ctx == ctx)) b.target b.addr b.width

/-- The sibling accesses that meet `p`, and those that stay: one of a context stays behind an earlier one of it (R131). -/
def sibSplit (p : Sib → Bool) : List Nat → List Sib → List Sib × List Sib
  | _, [] => ([], [])
  | held, b :: bs =>
    if p b && !held.contains b.ctx then
      let (x, y) := sibSplit p held bs
      (b :: x, y)
    else
      let (x, y) := sibSplit p (b.ctx :: held) bs
      (x, b :: y)

/-- The sibling accesses of a core that meet `p` perform, in order. -/
def State.sibRun (s : State) (core : Nat) (p : Sib → Bool) : State :=
  let all := (s.core core).sibs
  let s := s.modCore core fun k => { k with sibs := all.filter fun b => !p b }
  (all.filter p).foldl (fun s b => s.sibPerform core b) s

/-! ### Global memory (R117 to R123) -/

/-- Where the facets stand behind HBM in the machine's one table of global bytes: facet F, byte b at
`facetBase + 65536 * F + b` (R300).  No physical address reaches there. -/
def facetBase : Nat := 2 ^ 40

/-- The home slice of a physical address (R122), or of a facet's byte (R300). -/
def homeOf (pa : Nat) : Nat :=
  if facetBase ≤ pa then (pa - facetBase) / 65536 / 32
  else
  let l := pa / 64
  let st := (l % 8) ^^^ (l / 2 ^ 10 % 8)
  let i := (l / 8 % 16) ^^^ (l / 2 ^ 13 % 16)
  let y := 2 * (st % 4) + i / 8
  let x := 8 * (st / 4) + i % 8
  16 * y + x

def State.gbyte (s : State) (pa : Nat) : Byte := SMap.get Mem.dflt s.mem pa
def State.gbytes (s : State) (pa w : Nat) : List Byte := (List.range w).map fun i => s.gbyte (pa + i)
def State.gread (s : State) (pa w : Nat) : Nat := ofBytes (s.gbytes pa w)

def Mem.putBytes (m : Mem) (pa : Nat) : List Byte → Mem
  | [] => m
  | b :: bs => Mem.putBytes (SMap.set Mem.dflt m pa b) (pa + 1) bs

/-- Capacity of a slice journal in bytes, and the sizes of its records (R221, R293). -/
def journalSize : Nat := 262144
def recSize (r : JRec) : Nat := if r.keyed.isSome then 24 else 80

/-- Journal the pre-image of a line before a group's first write to it in a superstep (R293). -/
def State.journal (s : State) (gang group line : Nat) : State :=
  let sl := homeOf (64 * line)
  let js := SMap.get [] s.journals sl
  if js.any (fun r => r.gang == gang && r.group == group && r.line == line && r.keyed.isNone) then s
  else if journalSize < (js.map recSize).foldl (· + ·) 80 then
    s.modGroup gang group fun g => { g with unr := true, jov := true }
  else
    { s with journals := SMap.put s.journals sl (⟨gang, group, line, s.gbytes (64 * line) 64, none⟩ :: js) }

/-- Journal a write where its writer's gang has rollback enabled. -/
def State.journalFor (s : State) (src : Option (Nat × Nat)) (pa w : Nat) : State :=
  match src with
  | none => s
  | some (g, i) => if (s.gang g).chain.rbe then (linesOf pa w).foldl (fun s l => s.journal g i l) s else s

/-- Remember the old content of code words until a gen (R26). -/
def State.keepStale (s : State) (pa w : Nat) : State :=
  let words := (List.range ((pa % 4 + w + 3) / 4)).map fun i => pa / 4 * 4 + 4 * i
  { s with stale := words.map (fun a => (a, s.fresh, s.gread a 4)) ++ s.stale }

/-- A response to a context on a channel: its value is kept until the event that delivers it, RESULT_ARRIVAL or
STORE_ACKNOWLEDGEMENT. -/
def State.respondOn (s : State) (chan : Nat) (ev : Instr) (core ctx id : Nat) (r : Resp) : State :=
  ({ s with resps := SMap.put s.resps id r }).post chan ev ⟨core, ctx, id, 0, []⟩

/-- A response to a context from a unit whose channel keeps no order. -/
def State.respond (s : State) (core ctx id : Nat) (r : Resp) : State := s.respondOn 0 .resultArrival core ctx id r

/-! ### The scale-up ports, as senders (R385 to R388) -/

/-- The port to a device, by number (R385). -/
def portTo (device : Nat) : Nat := Config.route device % 16
def State.port (s : State) (p : Nat) : Port := SMap.get {} s.md.ports p
def State.setPort (s : State) (p : Nat) (v : Port) : State := { s with md := { s.md with ports := SMap.put s.md.ports p v } }

/-- A port has room for some new data flits: it does not retrain, 512 flits are unacknowledged at most, and the device is not
viral (R369, R387, R388). -/
def State.portRoom (s : State) (p n : Nat) : Bool := !s.viral && !(s.port p).training && (s.port p).sent.length + n ≤ 512

/-- Ticks of the time base without progress after which a port replays: 4 µs (R387). -/
def replayTicks : Nat := 4200

/-- The cycle in which the time base reaches a value, as far as it can be told now (R11, R12). -/
def State.cycleOf (s : State) (ts : Nat) : Nat := s.now + (ts - s.tb) * s.clock / 1050

/-- The numbers that say what a flit carries. -/
def FlitPay.key : FlitPay → List Nat
  | .none => []
  | .request what => 1 :: what
  | .answer tag part cause v => [2, tag, part, cause, v.toNat]
  | .piece core slot sec n data => [3, core, slot, sec, n] ++ data.map BitVec.toNat
  | .branch core slot how => [4, core, slot, how]

/-- The 256 bytes of a flit: SEQ and TYPE, ACK and VC, DST and SRC, the payload, and the CRC (R386). -/
def Flit.bytes (f : Flit) : List Byte :=
  let head := toBytes 2 (f.seq % 2 ^ 12 + 2 ^ 12 * (f.typ % 2 ^ 4)) ++ toBytes 2 (f.ack % 2 ^ 12 + 2 ^ 12 * (f.vc % 2 ^ 2))
    ++ toBytes 4 (f.dst % 2 ^ 9 + 2 ^ 9 * (f.src % 2 ^ 9)) ++ (List.range 240).map (Config.payByte f.pay.key)
  head ++ toBytes 8 (Config.crc64 head)

/-- A flit leaves a port; in the viral state only the management channel's do (R369, R389). -/
def State.outFlit (s : State) (p : Nat) (f : Flit) : State :=
  if s.viral && f.vc != 2 then s else { s with md := { s.md with toPorts := s.md.toPorts ++ [.flit p f] } }

/-- The last sequence number that a port has received in order (R387). -/
def Port.got (v : Port) : Nat := (v.rx + 4095) % 4096

/-- A data flit leaves a port on a virtual channel with the next sequence number, held until it is acknowledged (R385 to
R387). -/
def State.sendFlit (s : State) (p : Nat) (f : Flit) : State :=
  let v := s.port p
  let f := { f with seq := v.tx, typ := 1, ack := v.got, src := s.did }
  let s := s.setPort p { v with tx := (v.tx + 1) % 4096, sent := v.sent ++ [f], since := if v.sent.isEmpty then s.tb else v.since }
  let s := s.outFlit p f
  if v.sent.isEmpty then s.postAt (s.cycleOf (s.tb + replayTicks)) 0 .replayTimeout ⟨p, 0, 0, 0, []⟩ else s

/-- A flit of an answer leaves a port, behind those that wait there, as soon as the port takes it; it is lost where the port is
down (R387, R388). -/
def State.sendLater (s : State) (p : Nat) (f : Flit) : State :=
  let v := s.port p
  if v.down then s
  else if v.queue.isEmpty && s.portRoom p 1 then s.sendFlit p f
  else s.setPort p { v with queue := v.queue ++ [f] }

/-- The flits that wait at a port leave, while it takes them. -/
def State.drainPort (s : State) (p : Nat) : Nat → State
  | 0 => s
  | n + 1 =>
    match (s.port p).queue with
    | [] => s
    | f :: fs =>
      if s.portRoom p 1 then ((s.setPort p { s.port p with queue := fs }).sendFlit p f).drainPort p n else s

/-- The answer to a request of another device goes back through the port to it, as a data flit of the response channel, with the number
that the request gave itself (R385 to R389). -/
def State.answerAway (s : State) (dev part tag cause : Nat) (v : Word) : State :=
  s.sendLater (portTo dev) { vc := 1, dst := dev, pay := .answer tag part cause v }

/-- A watch of a slice wakes with a value: its context, over the response channel, or the device that it came from (R8, R140, R389). -/
def State.wake (s : State) (w : Watch) (v : Word) : State :=
  match w.away with
  | none => s.respondOn (lsBack (homeOf w.pa) w.core) .resultArrival w.core w.ctx w.id { v := v }
  | some (dev, part) => s.answerAway dev part w.id 0 v

/-! ### Global writes -/

/-- Wake the waitv watches on the lines of a write (R140). -/
def State.wakeLine (s : State) (line : Nat) : State :=
  let sl := homeOf (64 * line)
  let ws := SMap.get [] s.watches sl
  let hit := ws.filter fun w => !w.barrier && w.pa / 64 == line
  if hit.isEmpty then s
  else
    let s := { s with watches := SMap.put s.watches sl (ws.filter fun w => w.barrier || w.pa / 64 != line) }
    hit.foldl (fun s w => s.wake w 0) s

/-- Wake the waitv watches on the bytes that `p` selects, lines as a whole (R140). -/
def State.wakeAll (s : State) (p : Nat → Bool) : State :=
  let hit (w : Watch) : Bool := !w.barrier && p w.pa
  let ws := s.watches.flatMap fun e => e.2.filter hit
  if ws.isEmpty then s
  else
    let s := { s with watches := SMap.mapVals s.watches fun l => l.filter fun w => !hit w }
    ws.foldl (fun s w => s.wake w 0) s

/-- A global write that performs: journal, code words, the bytes, and the watches (R26, R140, R293). -/
def State.gputBytes (s : State) (src : Option (Nat × Nat)) (pa : Nat) (bs : List Byte) : State :=
  let s := s.journalFor src pa bs.length
  let s := s.keepStale pa bs.length
  let s := { s with mem := Mem.putBytes s.mem pa bs }
  (linesOf pa bs.length).foldl State.wakeLine s

def State.gwrite (s : State) (src : Option (Nat × Nat)) (pa w v : Nat) : State := s.gputBytes src pa (toBytes w v)

/-! ### Translation (R117 to R121) -/

/-- The fields of a page-table entry (R118). -/
def pteV (e : Nat) : Bool := e % 2 == 1
def pteRd (e : Nat) : Bool := bitsOf e 1 1 == 1
def pteWr (e : Nat) : Bool := bitsOf e 2 1 == 1
def pteEx (e : Nat) : Bool := bitsOf e 3 1 == 1
def pteLf (e : Nat) : Bool := bitsOf e 4 1 == 1
def pteS (e : Nat) : Bool := bitsOf e 5 1 == 1
def pteCk (e : Nat) : Nat := bitsOf e 6 2
def ptePfn (e : Nat) : Nat := bitsOf e 12 27 * 4096

/-- Index of a virtual address at a level (R118). -/
def vaIndex (level va : Nat) : Nat :=
  match level with
  | 3 => bitsOf va 39 12
  | 2 => bitsOf va 30 9
  | 1 => bitsOf va 21 9
  | _ => bitsOf va 12 9

/-- Page size of a leaf at a level (R118). -/
def leafSize (level e : Nat) : Nat :=
  match level with
  | 2 => 2 ^ 30
  | 1 => 2 ^ 21
  | _ => if pteS e then 65536 else 4096

/-- The rules that make an entry malformed at a level (R118, R124). -/
def malformed (level e : Nat) : Bool :=
  bitsOf e 10 2 != 0 || bitsOf e 39 25 != 0
    || (pteLf e && (level == 3 || ptePfn e % leafSize level e != 0))
    || (!pteLf e && level == 0)
    || (pteS e && !(pteLf e && level == 0))
    || (pteLf e && pteCk e != 0 && !(level == 0 && pteS e))
    || (!pteLf e && level != 0 && ptePfn e % 4096 != 0)

/-- What a walk finds: the leaf, its address, its level and the entries used; or the cause (R119). -/
inductive WalkResult where
  | leaf (e at_ level : Nat) (used : List Nat)
  | bad (cause : Nat)
  deriving DecidableEq, Repr

/-- The walk from a table at `base` and a level down to a leaf, by fuel (R118, R119). -/
def State.walkFrom (s : State) (va : Nat) : Nat → Nat → Nat → List Nat → WalkResult
  | 0, _, _, _ => .bad 5
  | fuel + 1, level, base, used =>
    let at' := base + 8 * vaIndex level va
    let e := s.gread at' 8
    if !pteV e then .bad 5
    else if malformed level e then .bad 7
    else if pteLf e then .leaf e at' level (at' :: used)
    else s.walkFrom va fuel (level - 1) (ptePfn e) (at' :: used)

/-- The permissions asked for: 1 RD, 2 WR, 4 EX; 8 marks an engine's access, which may meet a compressed page, 16 an
access that no kind of page refuses (R119, R124). -/
def permit (need e : Nat) : Option Nat :=
  if (need % 2 = 1 ∧ !pteRd e) ∨ (need / 2 % 2 = 1 ∧ !pteWr e) ∨ (need / 4 % 2 = 1 ∧ !pteEx e) then some 6
  else if pteCk e ≠ 0 ∧ need / 8 % 4 = 0 then some 8
  else none

/-- The table base in use by an address space: between a write and the next gen, either value (R353). -/
def State.ptbOf (s : State) (asid : Nat) : Nat :=
  let sp := s.space asid
  bitsOf (s.either 60 sp.ptb sp.oldPtb).toNat 15 24 * 32768

/-- A walk of an address in an address space (R118, R119). -/
def State.walk (s : State) (asid va : Nat) : WalkResult := s.walkFrom va 4 3 (s.ptbOf asid) []

/-- Set A, and D for a write, in the entries a walk used (R119); an entry that has them is not written. -/
def State.markUsed (s : State) (write : Bool) (used : List Nat) : State :=
  used.foldl (fun s a =>
    let e := s.gread a 8
    let n := e ||| (if write then 0x300 else 0x100)
    if n = e then s else s.gputBytes none a (toBytes 8 n)) s

/-- The facet window of an address space: where an address in it lands (R300). -/
def State.window (s : State) (asid va : Nat) : Option Nat :=
  let sp := s.space asid
  let base := (s.either 62 sp.fwb sp.oldFwb).toNat
  if base ≠ 0 ∧ base ≤ va ∧ va < base + 2 ^ 28 then some (facetBase + (va - base)) else none

/-- A gang holds the facet that a byte lies in (R300). -/
def State.gangHolds (s : State) (gang : Option Nat) (pa : Nat) : Bool :=
  match gang, SMap.find s.units ((pa - facetBase) / 65536) with
  | some g, some u => u.gang == some g
  | _, _ => false

/-- A translation made without the cache, by an agent that is no core and acts for a gang or for none: the physical address and
the state with A and D set, or the cause; an address of the facet window needs a facet that the gang holds (R118, R300). -/
def State.xlateFor (s : State) (gang : Option Nat) (asid va need : Nat) : Except Nat (Nat × State) :=
  if 2 ^ 52 ≤ va then .error 4
  else if 2 ^ 51 ≤ va then .error 9
  else match s.window asid va with
  | some pa => if s.gangHolds gang pa then .ok (pa, s) else .error 61
  | none => match s.walk asid va with
    | .bad c => .error c
    | .leaf e _ level used =>
      match permit need e with
      | some c => .error c
      | none => .ok (ptePfn e + va % leafSize level e, s.markUsed (need / 2 % 2 == 1) used)

/-- A translation for an agent that acts for no gang (R300). -/
def State.xlateWalk (s : State) (asid va need : Nat) : Except Nat (Nat × State) := s.xlateFor none asid va need

/-- The cached entry of a core that covers an address (R119). -/
def TlbEntry.covers (e : TlbEntry) (asid gen va : Nat) : Bool :=
  e.asid == asid && e.gen == gen && e.vpage ≤ va && va < e.vpage + e.size

/-- What a translation at issue gives (R119). -/
inductive Xlat where
  | hit (pa : Nat) (leaf : Nat)
  | miss
  | bad (cause : Nat)
  deriving DecidableEq, Repr

/-- Translation of a virtual address by some cache entries (R117, R119). -/
def State.xlateIn (s : State) (es : List TlbEntry) (asid va need : Nat) : Xlat :=
  if 2 ^ 52 ≤ va then .bad 4
  else if 2 ^ 51 ≤ va then .bad 9
  else match s.window asid va with
  | some pa => if need / 4 % 2 = 1 then .bad 6 else .hit pa 0
  | none => match es.find? (fun e => e.covers asid (s.space asid).gen va) with
    | none => .miss
    | some e =>
      match permit need e.leaf with
      | some c => .bad c
      | none => .hit (ptePfn e.leaf + va % e.size) e.leaf

/-- Translation by the cache of a core (R119). -/
def State.xlate (s : State) (core asid va need : Nat) : Xlat := s.xlateIn (s.core core).tlb asid va need

/-- What walks of the current context have found for the word that waits for them, where a tlbi keeps it out of the cache (R374). -/
def Ctx.found (t : Ctx) : List TlbEntry := (t.walked.filter fun w => t.issuedAt < w.1).map (·.2)

/-- Translation for the word of the current context (R119, R374). -/
def State.xlateCur (s : State) (va need : Nat) : Xlat := s.xlateIn (s.cur.found ++ s.curCore.tlb) (s.asidOf s.cc) va need

/-- One access more among the counts of a page: loads, writes, remote accesses (R120). -/
def countOne (n : Nat × Nat × Nat) (write remote : Bool) : Nat × Nat × Nat :=
  (n.1 + b2n (!write), n.2.1 + b2n write, n.2.2 + b2n remote)

/-- Add counts to the counter of a 64 KiB page of an address space, saturating (R120). -/
def State.addCounts (s : State) (asid page : Nat) (n : Nat × Nat × Nat) : State :=
  let sp := s.space asid
  let a := (s.either 61 sp.pct sp.oldPct).toNat + 8 * page
  let v := s.gread a 8
  let sat (lo k : Nat) := Nat.min 0xFFFF (bitsOf v lo 16 + k) * 2 ^ lo
  s.gputBytes none a (toBytes 8 (sat 0 n.1 + sat 16 n.2.1 + sat 32 n.2.2))

/-- Count an access in the cache entry it used, for its 64 KiB page, and set D where it is a write; one whose entry is
not cached counts in memory (R119, R120, R374). -/
def State.countAccess (s : State) (core asid va pa : Nat) (write : Bool) : State :=
  let gen := (s.space asid).gen
  let remote := dieOf core != dieOfNode (homeOf pa)
  let k := s.core core
  match k.tlb.find? (fun e => e.covers asid gen va) with
  | none =>
    match s.cur.found.find? (fun e => e.covers asid gen va) with
    | none => s
    | some e =>
      let s := s.addCounts asid (va / 65536) (countOne (0, 0, 0) write remote)
      if write then s.markUsed true [e.leafAt] else s
  | some e =>
    let needD := write && bitsOf e.leaf 9 1 == 0
    let tlb := k.tlb.map fun e => if e.covers asid gen va then
        { e with counts := SMap.put e.counts (va / 65536) (countOne (SMap.get (0, 0, 0) e.counts (va / 65536)) write remote)
                 leaf := if needD then e.leaf ||| 0x200 else e.leaf }
      else e
    let s := s.setCore core { k with tlb := tlb }
    if needD then s.markUsed true [e.leafAt] else s

/-- Add a cache entry's counts to the counters of its pages (R120). -/
def State.flushCounts (s : State) (e : TlbEntry) : State := e.counts.foldl (fun s c => s.addCounts e.asid c.1 c.2) s

/-- Put a leaf into the translation cache of a core: 64 entries, the oldest evicted; one that goes, the entry of the same page too,
adds its counts into memory (R119, R120). -/
def State.tlbFill (s : State) (core : Nat) (e : TlbEntry) : State :=
  let (same, tlb) := (s.core core).tlb.partition fun x => x.asid == e.asid && x.gen == e.gen && x.vpage == e.vpage
  let s := same.foldl State.flushCounts s
  match (if 64 ≤ tlb.length then tlb.getLast? else none) with
  | some old => (s.flushCounts old).modCore core fun k => { k with tlb := e :: tlb.dropLast }
  | none => s.modCore core fun k => { k with tlb := e :: tlb }

/-! ### Fault messages (R361, R362) -/

/-- Put an element in FIFO 15 of a core, or report that it is full. -/
def State.fifo15 (s : State) (core : Nat) (v : Word) : State × Bool :=
  let k := s.core core
  if 64 ≤ k.fifo15.length then (s, false) else (s.setCore core { k with fifo15 := k.fifo15 ++ [v] }, true)

/-- What a fault message reports (R361, R362). -/
structure Msg where
  core : Nat
  ctx : Nat := 15
  cause : Nat := 0
  kind : Nat
  pc : Nat := 0
  code : Nat := 0
  trec : Word := 0
  taddr : Word := 0
  gang : Nat := 0
  ssn : Nat := 0
  deriving DecidableEq, Repr

/-- The words of a fault log record (R362). -/
def Msg.words (m : Msg) (elem tb : Nat) : List Nat :=
  [elem, m.pc, m.code, m.trec.toNat, m.taddr.toNat, tb, m.gang, m.ssn]

/-- Write `n` 64-bit words as bytes. -/
def wordBytes : List Nat → List Byte
  | [] => []
  | w :: ws => toBytes 8 w ++ wordBytes ws

/-- Count a lost message or record, saturating at 2^32 - 1 (R362). -/
def State.lose (s : State) (p : Nat) : State := s.modPart p fun v => { v with lost := Nat.min (v.lost + 1) 0xFFFFFFFF }

/-- A fault message to the supervisor core of a partition: the log record, then the element (R361, R362). -/
def State.message (s : State) (p : Nat) (m : Msg) : State :=
  let pt := s.part p
  let elem := m.core % 2048 + m.ctx % 16 * 2 ^ 11 + m.cause % 256 * 2 ^ 15 + m.kind % 16 * 2 ^ 23
    + pt.written % 2 ^ 16 * 2 ^ 32 + 2 ^ 63
  let rec? := if pt.fls = 0 then Except.error 0
    else s.xlateWalk (fld pt.asb 0 16) (pt.flb.toNat + 64 * (pt.written % pt.fls.toNat)) 2
  let s := match rec? with
    | .error _ => s.lose p
    | .ok (pa, s) => (s.gputBytes none pa (wordBytes (m.words elem s.tb))).modPart p fun v =>
        { v with written := (v.written + 1) % 2 ^ 32 }
  let (s, ok) := s.fifo15 pt.sup (word elem)
  if ok then s else s.lose p

/-- A message about a context, filled from the context. -/
def State.ctxMsg (s : State) (core ctx mk cause code : Nat) : Msg :=
  let t := s.ctxAt core ctx
  { core := core, ctx := ctx, cause := cause, kind := mk, pc := t.pc.toNat, code := code, trec := t.trec, taddr := t.taddr,
    gang := ((s.core core).gang).getD 0, ssn := s.ssn core }

/-! ### Traps (R354 to R357) -/

/-- The halt of a context, with its record (R50, R357, R358). -/
def Ctx.halted (t : Ctx) (hk mk cause : Nat) (code : Code) : Ctx :=
  { t with status := .halted, hk := hk, hp := false, haltMk := mk, haltCause := cause, haltWord := code, haltBack := 0, wait := .none }

/-- st with its fields PP and RF.ACT cleared (R38, R80, R356). -/
def clearPrefix (st : Word) : Word := putFld st 9 1 0
def clearFrame (st : Word) : Word := putFld st 62 1 0

/-- The PEND word of a trap frame (R355): the queue positions and registers still pending. -/
def Ctx.pendWord (t : Ctx) : Nat :=
  t.pend.foldl (fun n p =>
    let n := match p.slot with
      | some k => n ||| 2 ^ ((k + 16 - t.head.toNat) % 16)
      | none => n
    match p.reg with
    | some r => n ||| 2 ^ (16 + r)
    | none => n) 0

/-- The 64 words of a trap frame (R355). -/
def Ctx.frameWords (t : Ctx) (trec taddr : Word) (groups : List Nat) : List Nat :=
  (List.range 32).map (fun n => (t.g n).toNat)
    ++ (List.range 16).map (fun k => (t.q (k + 1)).toNat)
    ++ [t.st.toNat, t.pc.toNat, trec.toNat, taddr.toNat, t.pendWord, t.vl]
    ++ [(groups.take 4).foldr (fun g n => g % 65536 + 65536 * n) 0, ((groups.drop 4).take 4).foldr (fun g n => g % 65536 + 65536 * n) 0]
    ++ List.replicate 8 0

/-- Mark the long results still pending as belonging to the frame too (R356). -/
def Ctx.markFrame (t : Ctx) : Ctx :=
  { t with pend := t.pend.map fun p =>
      { p with frSlot := p.slot.map (fun k => (k + 16 - t.head.toNat) % 16), frReg := p.reg } }

/-- The trap record (R354). -/
def trapRecord (kind cause seq det : Nat) : Word :=
  word (cause % 256 + kind % 16 * 2 ^ 8 + seq % 65536 * 2 ^ 12 + det % 2 ^ 32 * 2 ^ 32)

/-- The trap frame is written as local writes of the context, in offset order (R355, R356). -/
def State.saveFrame (s : State) (core ctx : Nat) (trec taddr : Word) (groups : List Nat) : State :=
  let t := s.ctxAt core ctx
  let base := (s.core core).tfa.toNat + 512 * ctx
  s.lputBytes core base (wordBytes (t.frameWords trec taddr groups))

/-- Escalation: the context halts with HK 3 at the saved program counter, no frame is written, and a message of kind 1
goes to the supervisor core (R357). -/
def State.escalate (s : State) (core ctx : Nat) (i : TrapInfo) : State :=
  let s := s.modCtx core ctx fun t =>
    ({ t with trec := trapRecord i.kind i.cause i.seq i.det, taddr := word i.addr }).halted 3 1 i.cause (BitVec.ofNat 32 i.code)
  s.message (s.partOf core) (s.ctxMsg core ctx 1 i.cause i.code)

/-- Entry to the handler: frame, record, IH, prefix and frame state, and the pc (R356). -/
def State.enterHandler (s : State) (core ctx : Nat) (arrived : Nat) (i : TrapInfo) : State :=
  let s := s.saveFrame core ctx (trapRecord i.kind i.cause i.seq i.det) (word i.addr) i.groups
  let k := s.core core
  s.modCtx core ctx fun t =>
    { t.markFrame with
      trec := trapRecord i.kind i.cause i.seq i.det, taddr := word i.addr, ih := true,
      st := clearFrame (clearPrefix t.st), pc := BitVec.ofNat 52 k.tvec.toNat, frame := [], walked := [],
      frameAt := k.tfa.toNat + 512 * ctx, groups := if i.kind = 3 then i.groups else t.groups,
      wait := .none, readyAt := Nat.max s.now arrived + 33 }

/-- A trap or a surrender routine waits to be entered. -/
def Ctx.entering (t : Ctx) : Bool := match t.wait with | .entry _ => true | _ => false

/-- A surrender routine overruns: ROUTINE_OVERRUN follows at once (R305). -/
def State.overrun (s : State) (core : Nat) : State := s.postAt s.now 0 .routineOverrun ⟨core, 0, 0, 0, []⟩

/-- The literal list of a clause operation of a context is still being read (R326). -/
def State.listing (s : State) (core ctx : Nat) : Bool :=
  s.clauseReqs.any fun e => e.2.core == core && e.2.ctx == ctx && e.2.list.isSome

/-- Local accesses of a context are on their way: to a sibling store, or those of a literal list (R74, R116, R326). -/
def State.accessing (s : State) (core ctx : Nat) : Bool :=
  ((s.core core).sibs.any fun b => b.ctx == ctx) || s.listing core ctx

/-- The trap frame of a context lies in a guarded range (R192, R355). -/
def State.frameGuarded (s : State) (core ctx : Nat) : Bool := s.guarded core ((s.core core).tfa.toNat + 512 * ctx) 512

/-- A trap of a context enters its handler (R356, R357). -/
def State.handles (s : State) (core ctx : Nat) : Bool :=
  !(s.ctxAt core ctx).rt && !(s.ctxAt core ctx).ih && (s.core core).tvec != 0

/-- A trap of a context is held back: by its local accesses, or, where it writes a frame, by the guard (R74, R192, R356). -/
def State.entryHeld (s : State) (core ctx : Nat) : Bool :=
  s.accessing core ctx || (s.handles core ctx && s.frameGuarded core ctx)

/-- A trap takes effect (R354 to R357): every fixed-latency result arrives first (R74); then the routine overruns, or the trap
escalates, or the handler is entered.  The saved program counter is the context's pc as it stands. -/
def State.trapNow (s : State) (core ctx : Nat) (i : TrapInfo) : State :=
  let arrived := fixedAt (s.ctxAt core ctx).pend
  let s := s.modCtx core ctx Ctx.drain
  let t := s.ctxAt core ctx
  if t.rt then s.overrun core
  else if t.ih || (s.core core).tvec == 0 then s.escalate core ctx i
  else s.enterHandler core ctx arrived i

/-- TAKING A TRAP (R354 to R357): it takes effect, or its context waits until it can.  One that meets a context whose trap still
waits is met by the handler of that. -/
def State.takeTrap (s : State) (core ctx : Nat) (i : TrapInfo) : State :=
  if (s.ctxAt core ctx).entering then
    s.modCtx core ctx fun t =>
      { t with late := t.late ++ [{ kind := i.kind, cause := i.cause, seq := i.seq, det := i.det, addr := i.addr, groups := i.groups }] }
  else if s.entryHeld core ctx then s.modCtx core ctx fun t => { t with wait := .entry (some i) }
  else s.trapNow core ctx i

/-- An exact trap of the word issuing now: nothing else changes, and the pc stays on the word (R354). -/
def State.exact (s : State) (cause addr : Nat) : State := s.takeTrap s.cc s.cx { kind := 0, cause := cause, addr := addr }

/-- The exact trap of a malformed handle, with its bits 51:32 in the record (R354). -/
def State.exactHandle (s : State) (cause : Nat) (h : Word) : State :=
  s.takeTrap s.cc s.cx { kind := 0, cause := cause, det := fld h 32 20 }

/-- The named file, the queue in its age order, st, VL and the pc come back from the frame; results still pending in
PEND stay pending in the restored places, and a result of the handler that has not arrived reaches no place of the
restored state (R356). -/
def State.restoreFrame (s : State) (core ctx : Nat) : State :=
  let k := s.core core
  let base := k.tfa.toNat + 512 * ctx
  let w (i : Nat) : Word := word (s.lread core (base + 8 * i) 8)
  let pendBits := (w 52).toNat
  s.modCtx core ctx fun t =>
    let t := t.drain
    let pend := t.pend.map fun p =>
      { p with slot := match p.frSlot with
                 | some q => if bitsOf pendBits q 1 = 1 then some ((t.head.toNat + q) % 16) else none
                 | none => none
               reg := match p.frReg with
                 | some r => if bitsOf pendBits (16 + r) 1 = 1 then some r else none
                 | none => none
               frSlot := none, frReg := none }
    let regs := (List.range 31).foldl (fun m i => SMap.set 0 m (i + 1) (w (i + 1))) t.regs
    let slots := (List.range 16).foldl (fun m i => SMap.set 0 m ((t.head.toNat + i) % 16) (w (32 + i))) t.slots
    { t with regs := regs, slots := slots, st := w 48, pc := BitVec.ofNat 52 (w 49).toNat, vl := (w 53).toNat,
             pend := pend, frame := [], readyAt := s.now + 34 }

/-- RETURN FROM A TRAP (R356): the frame is restored and IH cleared. -/
def State.trapReturn (s : State) (core ctx : Nat) : State :=
  (s.restoreFrame core ctx).modCtx core ctx fun t => { t with ih := false }

/-- A halt inside a surrender routine is an overrun (R305). -/
def State.haltEnds (s : State) (core ctx : Nat) : State := if (s.ctxAt core ctx).rt then s.overrun core else s

/-- RF of st (R77). -/
def Ctx.inFrame (t : Ctx) : Bool := bit t.st 62
def Ctx.rfWord (t : Ctx) : Nat := fld t.st 58 4

/-- The address of the word issuing now: a captured word's own place after its repeat word (R42, R360). -/
def Ctx.wordPc (t : Ctx) : BitVec 52 := if t.inFrame then t.pc + BitVec.ofNat 52 (4 * (t.rfWord + 1)) else t.pc

/-- The program counter of a context that halts at an illegal word: the word's address, for a captured word its own place (R50). -/
def Ctx.haltPc (t : Ctx) : BitVec 52 := if t.frame.isEmpty then t.pc else t.wordPc

/-- How far a word that halts its context lies behind its repeat word, 0 where it is no captured word. -/
def Ctx.behindRpt (t : Ctx) : Nat := if t.inFrame && !t.frame.isEmpty then 4 * (t.rfWord + 1) else 0

/-- The halt of the context at an illegal word, and its message (R50): nothing else changes. -/
def State.illegalHalt (s : State) (cause : Nat) (w : Code) : State :=
  let s := s.modCur fun t => { { t with pc := t.haltPc, frame := [] }.halted 1 0 cause w with haltBack := t.behindRpt }
  (s.message (s.partOf s.cc) (s.ctxMsg s.cc s.cx 0 cause w.toNat)).haltEnds s.cc s.cx

/-! ### Arrival of responses -/

/-- Write an arriving result into the trap frame in place of the live slot and register, where PEND still marks them, and
clear their PEND bits (R356). -/
def State.frameArrive (s : State) (core : Nat) (base : Nat) (p : Pend) (v : Word) : State :=
  let bits := s.lread core (base + 0x1A0) 8
  let (s, bits) := match p.frSlot with
    | some q => if bitsOf bits q 1 = 1 then (s.lwrite core (base + 0x100 + 8 * q) 8 v.toNat, bits - 2 ^ q) else (s, bits)
    | none => (s, bits)
  let (s, bits) := match p.frReg with
    | some r => if bitsOf bits (16 + r) 1 = 1 then (s.lwrite core (base + 8 * r) 8 v.toNat, bits - 2 ^ (16 + r)) else (s, bits)
    | none => (s, bits)
  s.lwrite core (base + 0x1A0) 8 bits

/-- What is left of an arrived long-operation result: its write of a register of the slow partition, 2 cycles behind its slot
(R70, R424). -/
def Pend.slowPart (p : Pend) (v : Word) (now : Nat) : List Pend :=
  match p.reg with
  | some r => if 16 ≤ r then [{ id := p.id, reg := some r, val := some v, regAt := now + 2 }] else []
  | none => []

/-- Delivery of a long-operation result to the slot and the register its producer still owns, or to the trap frame; a register
of the slow partition follows 2 cycles later (R68, R70, R356, R424). -/
def State.deliver (s : State) (core ctx id : Nat) (v : Word) : State :=
  let t := s.ctxAt core ctx
  match t.pend.find? (fun p => p.id == id) with
  | none => s
  | some p =>
    let s := s.modCtx core ctx fun t => { t with pend := t.pend.filter fun p => p.id != id }
    if (t.ih || t.rt) && (p.frSlot.isSome || p.frReg.isSome) then s.frameArrive core t.frameAt p v
    else s.modCtx core ctx fun t =>
      let t := match p.slot with | some k => t.setSlot k v | none => t
      let t := match p.reg with | some r => if 16 ≤ r then t else t.setG r v | none => t
      { t with pend := t.pend ++ p.slowPart v s.now }

/-- A number of the counters ldc, stc, enc, mbc, vqc (R129, R139). -/
def Ctx.counter (t : Ctx) (k : Nat) : Nat :=
  match k with
  | 0 => t.ld.length
  | 1 => t.stq.length
  | 2 => t.enc
  | 3 => t.mbc
  | _ => t.vqc

/-- End a wait on an arrival or a watch (R133, R140). -/
def Ctx.unwait (t : Ctx) (id : Nat) : Ctx :=
  match t.wait with
  | .arrival i => if i = id then { t with wait := .none } else t
  | .watch i => if i = id then { t with wait := .none } else t
  | _ => t

/-- A counted access ends: its counter falls (R129). -/
def Ctx.uncount (t : Ctx) (id : Nat) : Ctx :=
  { t with ld := t.ld.filter fun o => o.id != id, stq := t.stq.filter fun o => o.id != id }

/-- An interrupt, a halt or a stop ends a park: a bwait delivers 0, and the context goes on after the word (R140,
R153); any other wait is simply dropped, to be met again (R75). -/
def State.unpark (s : State) (core ctx : Nat) : State :=
  match (s.ctxAt core ctx).wait with
  | .watch id => (s.deliver core ctx id 0).modCtx core ctx fun t => { t with wait := .none }
  | .sync _ => s
  | .arrival _ => s
  | .checked => s
  | .entry _ => s
  | _ => s.modCtx core ctx fun t => { t with wait := .none }

end Sys2Proof.Machine
end

