-- ==== Sys2Proof/Machine/Operands.lean ====
section
/-! DEFINITION. Operand codes and identity values (R30, R31), early reads (R72, R73), the prefix in use (R38, R103), the
course of an issue, and the advance of the program counter through words and repeat frames (R25, R79). -/
namespace Sys2Proof.Machine

/-- The identity operands, zero-extended (R31). -/
def State.identity (s : State) (code : Nat) : Word :=
  let c := s.cc
  let k := s.curCore
  let d : Descr := match s.gangOf c with | some g => g.descr | none => {}
  match code with
  | 0x30 => word c
  | 0x31 => word (octOf c)
  | 0x32 => word (nodeOf c)
  | 0x33 => word s.cx
  | 0x34 => word (s.ssn c)
  | 0x35 => word (s.cyc c)
  | 0x36 => word k.gx
  | 0x37 => word k.gy
  | 0x38 => word k.gz
  | 0x39 => word d.ngx
  | 0x3A => word d.ngy
  | 0x3B => word d.ngz
  | 0x3C => word s.did
  | 0x3D => word k.rank
  | _ => d.argp

/-- What a source code reads at issue (R30, R66, R72). -/
def State.opnd (s : State) (c : Opnd) : Word :=
  let n := c.toNat
  if n ≤ 0x1F then s.cur.g n
  else if n ≤ 0x2F then s.cur.q (n - 0x1F)
  else if n = 0x3F then BitVec.allOnes 64
  else s.identity n

/-- The cardinal value of a source code. -/
def State.opn (s : State) (c : Opnd) : Nat := (s.opnd c).toNat

/-- The operand code of q1 and of q2. -/
def q1 : Opnd := 0x20
def q2 : Opnd := 0x21

/-- A result has not yet reached what a source code names (R72). -/
def Ctx.pending (t : Ctx) (c : Opnd) : Bool :=
  let n := c.toNat
  if n ≤ 0x1F then n != 0 && t.pend.any (fun p => p.reg == some n)
  else if n ≤ 0x2F then t.pend.any (fun p => p.slot == some (t.slotNo (n - 0x1F)))
  else false

/-- A source code lies in the slow partition (R70, R424). -/
def slowCode (c : Opnd) : Bool := 0x10 ≤ c.toNat && c.toNat ≤ 0x1F

/-- The fields of a prefix (R34, R77). -/
structure Pfx where
  fa : Nat := 0
  fb : Nat := 0
  fd : Nat := 0
  ro : Nat := 0
  deriving DecidableEq, Repr

/-- A prefix is latched (R38). -/
def Ctx.prefixed (t : Ctx) : Bool := bit t.st 9

/-- The latched prefix, all codes 0 where none is latched (R77). -/
def Ctx.pfx (t : Ctx) : Pfx :=
  if t.prefixed then ⟨fld t.st 28 6, fld t.st 22 6, fld t.st 18 4, fld t.st 16 2⟩ else {}

/-- The rounding mode: by RO where it is not 0, else st.RM (R37, R94).  DESIGN CHOICE (log 173): the reserved RO of 3, which only a write
of st can put there, counts as 0. -/
def Ctx.rm (t : Ctx) : Nat :=
  match t.pfx.ro with
  | 1 => 0
  | 2 => 1
  | _ => fld t.st 5 2

/-- An instruction that takes no format (column P of the opcode map). -/
def noFormat : Pfx → Bool := fun p => p.fa == 0 && p.fb == 0 && p.fd == 0 && p.ro == 0

/-- The next word's readiness is put off by a cycle: the word has not issued (R75). -/
def State.hold (s : State) : State :=
  { (s.modCurCore fun k => { k with rr := k.rrPrev, slotCtx := 15 }).modCur fun t => { t with readyAt := s.now + 1 } with scan := s.cc }

/-- The fields of the repeat word of a running frame (R39). -/
def rptMask (w : Code) : Nat := bitsOf w.toNat 19 3
def rptCount (w : Code) : Nat := bitsOf w.toNat 15 4 + 1
def rptStride (w : Code) : Nat := bitsOf w.toNat 11 4
def rptPasses (w : Code) : Nat := bitsOf w.toNat 1 10 + 1

/-- RF.PASS of st (R77). -/
def Ctx.rfPass (t : Ctx) : Nat := fld t.st 48 10

/-- Dispatch of a vector or matrix instruction: its sequence number, and its entry in the sequence ring (R158, R360). -/
def Ctx.dispatch (t : Ctx) : Ctx :=
  { t with seqr := SMap.set 0 t.seqr (t.seqn % 64) (word (t.wordPc.toNat / 4 + t.seqn / 64 * 2 ^ 50))
           seqn := (t.seqn + 1) % 65536 }

/-- st with RF set (R77). -/
def setRf (st : Word) (act : Bool) (w pass : Nat) : Word :=
  putFld (putFld (putFld st 62 1 (b2n act)) 58 4 w) 48 10 pass

/-- The program counter and the frame state after a word: the next word, the next captured word or pass, or the word
after the frame (R25, R42, R79). -/
def Ctx.advance (t : Ctx) : Ctx :=
  if t.inFrame then
    let n := rptCount t.frameRpt
    if t.rfWord + 1 < n then { t with st := setRf t.st true (t.rfWord + 1) t.rfPass }
    else if t.rfPass + 1 < rptPasses t.frameRpt then { t with st := setRf t.st true 0 (t.rfPass + 1) }
    else { t with st := setRf t.st false 0 0, pc := t.pc + BitVec.ofNat 52 (4 * (n + 1)), frame := [] }
  else { t with pc := t.pc + 4 }

/-- A word has issued: its prefix is consumed, the program counter moves on, and the next word is held back by the
stall count (R25, R38). -/
def State.finish (s : State) (S : Stall) : State :=
  s.modCur fun t => { (t.advance) with st := clearPrefix t.advance.st, readyAt := s.now + 1 + S.toNat, issuedAt := s.now }

/-- A taken branch or jump: the target is not ready before two cycles and the stall count have passed (R71). -/
def State.jump (s : State) (target : BitVec 52) (S : Stall) : State :=
  s.modCur fun t => { t with pc := target, readyAt := s.now + 2 + S.toNat, issuedAt := s.now }

/-- What an instruction demands at issue, beside its own entry. -/
structure Gate where
  /-- it takes a prefix (column P) -/
  takes : Bool := false
  /-- the format codes it accepts, defaults included -/
  accepts : Pfx → Bool := fun _ => true
  /-- it may issue in an exchange phase (R289) -/
  exchange : Bool := false
  /-- the operands it reads -/
  reads : List Opnd := []
  /-- what holds it back before its issue (R18, R75) -/
  ready : Bool := true

/-- The control context of a core in its exchange phase (R289). -/
def State.inExchange (s : State) : Bool := s.curCore.ex.phase && s.cx == 0

/-- THE COURSE OF AN ISSUE: a word that takes no format under a prefix, or a format it does not accept, is illegal
(causes 7 and 6, the lower first, R38, R51); a word the exchange phase forbids takes cause 54 (R289); a word held back
has not issued (R75); a stale operand with SB set takes cause 90 (R73); else the word does what its entry says. -/
def State.issue (s : State) (g : Gate) (body : State → State) : Res :=
  let t := s.cur
  .next (
    if g.takes && !g.accepts t.pfx then s.illegalHalt 6 s.code
    else if !g.takes && t.prefixed then s.illegalHalt 7 s.code
    else if s.inExchange && !g.exchange then s.exact 54 0
    else if !g.ready then s.hold
    else if bit t.st 7 && g.reads.any t.pending then s.exact 90 0
    else body s)

/-- An operation of fixed latency: the result, then the next word (R66, R70, R424). -/
def State.op (s : State) (S : Stall) (d : Opnd) (reads : List Opnd) (L : Nat) (v : Word) (flags : Nat) : State :=
  (s.result d v L (reads.any slowCode) flags).finish S

/-- A result whose entry gives its own cycles: no addition for the slow partition (R424). -/
def State.opOwn (s : State) (S : Stall) (d : Opnd) (L : Nat) (v : Word) : State := (s.result d v L false 0).finish S

/-- The integer format of a memory access: FA, 64 bits where it is 0 (R46). -/
def memFmt (p : Pfx) : IFmt :=
  match srcFmt p.fa with
  | .int f => f
  | _ => ⟨64, false⟩

/-- The prefixes of the loads and stores (R46, R135): an integer FA, the rest 0. -/
def memAccepts (p : Pfx) : Bool := p.fa ≤ 8 && p.fb == 0 && p.fd == 0 && p.ro == 0

/-- Sign-extended immediates and offsets (R28). -/
def sext10 (i : BitVec 10) : Word := i.signExtend 64
def sext16 (i : BitVec 16) : Word := i.signExtend 64
/-- A word offset from an address (R28). -/
def wordOffset (pc : BitVec 52) (o : BitVec 52) : BitVec 52 := pc + 4 * o

end Sys2Proof.Machine
end

