-- ==== Sys2Proof/Machine/Flags.lean ====
section
/-! DEFINITION. The status register st (R77, R78) and the flags that instructions set (R95, R96). -/
namespace Sys2Proof.Machine

/-- The fields of st that srw writes: NX through MG (R78). -/
def srwMask : Word := 0x1FF
/-- The fields of st that exist (R77); a reserved bit reads 0. -/
def stMask : Word := 0x7FFF0003FFFF03FF

/-- st after an srw of `v` (R78). -/
def stWritten (st v : Word) : Word := (st &&& ~~~srwMask) ||| (v &&& srwMask)

/-- st after a write through the window: every field, the reserved bits 0 (R365). -/
def stForced (v : Word) : Word := v &&& stMask

/-- srr of st waits for every fixed-latency result of the context (R96). -/
def Ctx.fixedArrived (t : Ctx) : Bool := t.pend.all fun p => p.slotAt == 0

/-- The flags that a batch, a vector entry or a conversion hands to st (R95, R163, R193). -/
def State.raise (s : State) (core ctx flags : Nat) : State := s.modCtx core ctx fun t => t.orFlags flags

end Sys2Proof.Machine
end

