-- ==== Sys2Proof/Machine/ScalarInt.lean ====
section
/-! DEFINITION. Integer, immediate, compare and constant instructions, majors 0x00 to 0x0C (R81 to R85). -/
namespace Sys2Proof.Machine

/-- A binary operation of latency `L` on its two sources (R81, R82). -/
def binary (L : Nat) (f : Word → Word → Word) (S : Stall) (d a b : Opnd) (s : State) : Res :=
  s.issue { reads := [a, b] } fun s => s.op S d [a, b] L (f (s.opnd a) (s.opnd b)) 0

/-- A unary operation of latency 1 (R82). -/
def unary (f : Word → Word) (S : Stall) (d a : Opnd) (s : State) : Res :=
  s.issue { reads := [a] } fun s => s.op S d [a] 1 (f (s.opnd a)) 0

/-- A division: not ready while the core's divider is busy, which it then is for 24 cycles (R71, R82). -/
def division (f : Word → Word → Word) (S : Stall) (d a b : Opnd) (s : State) : Res :=
  s.issue { reads := [a, b], ready := s.curCore.divAt ≤ s.now } fun s =>
    (s.modCurCore fun k => { k with divAt := s.now + 24 }).op S d [a, b] 24 (f (s.opnd a) (s.opnd b)) 0

/-- An immediate operation (R84). -/
def immediate (f : Word → Word) (S : Stall) (d a : Opnd) (s : State) : Res :=
  s.issue { reads := [a] } fun s => s.op S d [a] 1 (f (s.opnd a)) 0

/-- The quotient of two cardinals, all ones where the divisor is 0 (R82). -/
def divcWord (a b : Word) : Word := if b = 0 then BitVec.allOnes 64 else word (a.toNat / b.toNat)
/-- The remainder of two cardinals, the dividend where the divisor is 0 (R82). -/
def remcWord (a b : Word) : Word := if b = 0 then a else word (a.toNat % b.toNat)
/-- The signed quotient, truncated toward zero; all ones where the divisor is 0, and it wraps at -2^63 by -1 (R82). -/
def divWord (a b : Word) : Word := if b = 0 then BitVec.allOnes 64 else iword (Int.tdiv a.toInt b.toInt)
/-- The signed remainder, of the sign of the dividend (R82). -/
def remWord (a b : Word) : Word := if b = 0 then a else iword (Int.tmod a.toInt b.toInt)

/-- The conditions of cmp and bc by number: eq, ne, lt, ltc, le, lec (R83, R86). -/
def condition (c : Nat) (a b : Word) : Bool :=
  match c with
  | 0 => a == b
  | 1 => a != b
  | 2 => a.slt b
  | 3 => a.ult b
  | 4 => a.sle b
  | _ => a.ule b

/-- R81: add: a + b modulo 2^64. -/
def execAdd (S : Stall) (d a b : Opnd) (s : State) : Res :=
  binary 1 (fun a b => a + b) S d a b s

/-- R81: sub: a - b modulo 2^64. -/
def execSub (S : Stall) (d a b : Opnd) (s : State) : Res :=
  binary 1 (fun a b => a - b) S d a b s

/-- R81: and. -/
def execAnd (S : Stall) (d a b : Opnd) (s : State) : Res :=
  binary 1 (fun a b => a &&& b) S d a b s

/-- R81: or. -/
def execOr (S : Stall) (d a b : Opnd) (s : State) : Res :=
  binary 1 (fun a b => a ||| b) S d a b s

/-- R81: xor. -/
def execXor (S : Stall) (d a b : Opnd) (s : State) : Res :=
  binary 1 (fun a b => a ^^^ b) S d a b s

/-- R81: andn: a and not b. -/
def execAndn (S : Stall) (d a b : Opnd) (s : State) : Res :=
  binary 1 (fun a b => a &&& ~~~b) S d a b s

/-- R81: shl: left by b mod 64. -/
def execShl (S : Stall) (d a b : Opnd) (s : State) : Res :=
  binary 1 (fun a b => a <<< (b.toNat % 64)) S d a b s

/-- R81: shr: right by b mod 64, zeros in. -/
def execShr (S : Stall) (d a b : Opnd) (s : State) : Res :=
  binary 1 (fun a b => a >>> (b.toNat % 64)) S d a b s

/-- R81: sar: right by b mod 64, copies of the sign in. -/
def execSar (S : Stall) (d a b : Opnd) (s : State) : Res :=
  binary 1 (fun a b => a.sshiftRight (b.toNat % 64)) S d a b s

/-- R81: rot: rotated left by b mod 64. -/
def execRot (S : Stall) (d a b : Opnd) (s : State) : Res :=
  binary 1 (fun a b => a.rotateLeft (b.toNat % 64)) S d a b s

/-- R81: min: the lesser, signed. -/
def execMin (S : Stall) (d a b : Opnd) (s : State) : Res :=
  binary 1 (fun a b => if a.slt b then a else b) S d a b s

/-- R81: minc: the lesser, cardinal. -/
def execMinc (S : Stall) (d a b : Opnd) (s : State) : Res :=
  binary 1 (fun a b => if a.ult b then a else b) S d a b s

/-- R81: max: the greater, signed. -/
def execMax (S : Stall) (d a b : Opnd) (s : State) : Res :=
  binary 1 (fun a b => if b.slt a then a else b) S d a b s

/-- R81: maxc: the greater, cardinal. -/
def execMaxc (S : Stall) (d a b : Opnd) (s : State) : Res :=
  binary 1 (fun a b => if b.ult a then a else b) S d a b s

/-- R81: sel: a if q1 is nonzero, else b; q1 is the slot it names at issue. -/
def execSel (S : Stall) (d a b : Opnd) (s : State) : Res :=
  s.issue { reads := [a, b, q1] } fun s =>
    s.op S d [a, b] 1 (if s.opnd q1 ≠ 0 then s.opnd a else s.opnd b) 0

/-- R82: mul: the low 64 bits of the product, latency 3. -/
def execMul (S : Stall) (d a b : Opnd) (s : State) : Res :=
  binary 3 (fun a b => a * b) S d a b s

/-- R82: mulh: bits 127:64 of the signed product, latency 3. -/
def execMulh (S : Stall) (d a b : Opnd) (s : State) : Res :=
  binary 3 (fun a b => iword (a.toInt * b.toInt / 2 ^ 64)) S d a b s

/-- R82: mulhc: bits 127:64 of the cardinal product, latency 3. -/
def execMulhc (S : Stall) (d a b : Opnd) (s : State) : Res :=
  binary 3 (fun a b => word (a.toNat * b.toNat / 2 ^ 64)) S d a b s

/-- R82: div, on the shared divider. -/
def execDiv (S : Stall) (d a b : Opnd) (s : State) : Res :=
  division divWord S d a b s

/-- R82: divc, on the shared divider. -/
def execDivc (S : Stall) (d a b : Opnd) (s : State) : Res :=
  division divcWord S d a b s

/-- R82: rem, on the shared divider. -/
def execRem (S : Stall) (d a b : Opnd) (s : State) : Res :=
  division remWord S d a b s

/-- R82: remc, on the shared divider. -/
def execRemc (S : Stall) (d a b : Opnd) (s : State) : Res :=
  division remcWord S d a b s

/-- R82: clz: leading zero bits. -/
def execClz (S : Stall) (d a : Opnd) (s : State) : Res :=
  unary (fun a => word (clz64 a.toNat)) S d a s

/-- R82: ctz: trailing zero bits. -/
def execCtz (S : Stall) (d a : Opnd) (s : State) : Res :=
  unary (fun a => word (ctzN 64 a.toNat)) S d a s

/-- R82: popc: one bits. -/
def execPopc (S : Stall) (d a : Opnd) (s : State) : Res :=
  unary (fun a => word (popCount 64 a.toNat)) S d a s

/-- R82: bswap: the bytes in reverse order. -/
def execBswap (S : Stall) (d a : Opnd) (s : State) : Res :=
  unary (fun a => word (ofBytes (toBytes 8 a.toNat).reverse)) S d a s

/-- R82: mov: a. -/
def execMov (S : Stall) (d a : Opnd) (s : State) : Res :=
  unary (fun a => a) S d a s

/-- R83: cmp: 1 where the condition holds, else 0. -/
def execCmp (S : Stall) (d a b : Opnd) (c : BitVec 4) (s : State) : Res :=
  binary 1 (fun a b => boolWord (condition c.toNat a b)) S d a b s

/-- R84: addi, with the sign-extended immediate. -/
def execAddi (S : Stall) (d a : Opnd) (i : BitVec 10) (s : State) : Res :=
  immediate (fun a => a + sext10 i) S d a s

/-- R84: andi, with the sign-extended immediate. -/
def execAndi (S : Stall) (d a : Opnd) (i : BitVec 10) (s : State) : Res :=
  immediate (fun a => a &&& sext10 i) S d a s

/-- R84: ori, with the sign-extended immediate. -/
def execOri (S : Stall) (d a : Opnd) (i : BitVec 10) (s : State) : Res :=
  immediate (fun a => a ||| sext10 i) S d a s

/-- R84: xori, with the sign-extended immediate. -/
def execXori (S : Stall) (d a : Opnd) (i : BitVec 10) (s : State) : Res :=
  immediate (fun a => a ^^^ sext10 i) S d a s

/-- R84: shli, by the immediate count. -/
def execShli (S : Stall) (d a : Opnd) (i : BitVec 6) (s : State) : Res :=
  immediate (fun a => a <<< i.toNat) S d a s

/-- R84: shri, by the immediate count. -/
def execShri (S : Stall) (d a : Opnd) (i : BitVec 6) (s : State) : Res :=
  immediate (fun a => a >>> i.toNat) S d a s

/-- R84: sari, by the immediate count. -/
def execSari (S : Stall) (d a : Opnd) (i : BitVec 6) (s : State) : Res :=
  immediate (fun a => a.sshiftRight i.toNat) S d a s

/-- R85: li: the sign-extended immediate. -/
def execLi (S : Stall) (d : Opnd) (i : BitVec 16) (s : State) : Res :=
  s.issue {} fun s => s.op S d [] 1 (sext16 i) 0

/-- The source that lsh reads from its d field: 0 for g0, q1 for 0x3F (R85). -/
def lshSource (d : Opnd) : Opnd := if d = 0x3F then q1 else d

/-- R85: lsh: its source, taken from d, left 16 bits with the immediate merged in. -/
def execLsh (S : Stall) (d : Opnd) (i : BitVec 16) (s : State) : Res :=
  s.issue { reads := [lshSource d] } fun s =>
    s.op S d [lshSource d] 1 ((s.opnd (lshSource d) <<< 16) ||| i.zeroExtend 64) 0

end Sys2Proof.Machine
end

