-- ==== Sys2Proof/Machine/Control.lean ====
section
/-! DEFINITION. Branches, jumps, stall, the prefix word and the repeat word (R34 to R42, R80, R86 to R89, R422). -/
namespace Sys2Proof.Machine

/-- A branch: taken to its target, or on to the next word (R71, R86). -/
def branch (S : Stall) (o : BitVec 10) (taken : Bool) (s : State) : State :=
  if taken then s.jump (wordOffset s.cur.pc (o.signExtend 52)) S else s.finish S

/-- The conditions of br by its field b: eq, ne, lt, le, gt, ge against zero (R45). -/
def zeroCondition (c : Nat) (a : Word) : Bool :=
  match c with
  | 0 => a == 0
  | 1 => a != 0
  | 2 => a.slt 0
  | 3 => a.sle 0
  | 4 => (0 : Word).slt a
  | _ => (0 : Word).sle a

/-- R86: br: branches where a meets the condition against zero. -/
def execBr (S : Stall) (a c : Opnd) (o : BitVec 10) (s : State) : Res :=
  s.issue { reads := [a] } fun s => branch S o (zeroCondition c.toNat (s.opnd a)) s

/-- A bc of condition `c` (R83, R86). -/
def compareBranch (c : Nat) (S : Stall) (a b : Opnd) (o : BitVec 10) (s : State) : Res :=
  s.issue { reads := [a, b] } fun s => branch S o (condition c (s.opnd a) (s.opnd b)) s

/-- R86: bc.eq. -/
def execBcEq (S : Stall) (a b : Opnd) (o : BitVec 10) (s : State) : Res := compareBranch 0 S a b o s
/-- R86: bc.ne. -/
def execBcNe (S : Stall) (a b : Opnd) (o : BitVec 10) (s : State) : Res := compareBranch 1 S a b o s
/-- R86: bc.lt. -/
def execBcLt (S : Stall) (a b : Opnd) (o : BitVec 10) (s : State) : Res := compareBranch 2 S a b o s
/-- R86: bc.ltc. -/
def execBcLtc (S : Stall) (a b : Opnd) (o : BitVec 10) (s : State) : Res := compareBranch 3 S a b o s
/-- R86: bc.le. -/
def execBcLe (S : Stall) (a b : Opnd) (o : BitVec 10) (s : State) : Res := compareBranch 4 S a b o s
/-- R86: bc.lec. -/
def execBcLec (S : Stall) (a b : Opnd) (o : BitVec 10) (s : State) : Res := compareBranch 5 S a b o s

/-- R87: j. -/
def execJ (S : Stall) (o : BitVec 22) (s : State) : Res :=
  s.issue {} fun s => s.jump (wordOffset s.cur.pc (o.signExtend 52)) S

/-- The link of a jump: the address of the next word (R87). -/
def State.link (s : State) : Word := (s.cur.pc + 4).zeroExtend 64

/-- R87: jal: the link goes to g31 and is pushed. -/
def execJal (S : Stall) (o : BitVec 22) (s : State) : Res :=
  s.issue {} fun s =>
    let target := wordOffset s.cur.pc (o.signExtend 52)
    (s.result 0x1F s.link 1 false 0).jump target S

/-- R87: jr: to the address in a, the link to d; a misaligned target traps with cause 91 and changes nothing. -/
def execJr (S : Stall) (d a : Opnd) (s : State) : Res :=
  s.issue { reads := [a] } fun s =>
    let target := s.opnd a
    if target.toNat % 4 ≠ 0 then s.exact 91 target.toNat
    else (s.result d s.link 1 (slowCode a) 0).jump (BitVec.ofNat 52 target.toNat) S

/-- R88: stall n: the next word is held back n cycles beyond the stall count. -/
def execStall (S : Stall) (i : BitVec 16) (s : State) : Res :=
  s.issue { exchange := true } fun s =>
    (s.finish S).modCur fun t => { t with readyAt := s.now + 1 + S.toNat + i.toNat }

/-- R38: pfx: PP is set and the fields are latched into PF. -/
def execPfx (S : Stall) (a b : BitVec 6) (d : BitVec 4) (r : BitVec 2) (s : State) : Res :=
  s.issue {} fun s =>
    (s.finish S).modCur fun t =>
      { t with st := putFld (putFld (putFld (putFld (putFld t.st 9 1 1) 28 6 a.toNat) 22 6 b.toNat) 18 4 d.toNat) 16 2 r.toNat }

/-! ### Fetching (R26, R119, R354) -/

/-- The word at a physical address as fetch may see it: the present one, or one it held before a store that no gen of
the address space has followed (R26). -/
def State.fetchWord (s : State) (asid pa : Nat) : Code :=
  let olds := (s.stale.filter fun e => e.1 == pa && (s.space asid).fetchFrom ≤ e.2.1).map fun e => e.2.2
  let now := s.gread pa 4
  match olds with
  | [] => BitVec.ofNat 32 now
  | _ => BitVec.ofNat 32 ((now :: olds).getD (Config.freeFetch s.now s.fresh pa % (olds.length + 1)) now)

/-- What a fetch gives: the word, a miss of the translation cache, or the cause of R354. -/
inductive Fetched where
  | code (w : Code)
  | miss
  | bad (cause : Nat)
  deriving DecidableEq, Repr

/-- Instruction fetch for the current context, of a core (R119, R354): EX is needed, and code lies on this device. -/
def State.fetchAt (s : State) (core : Nat) (pc : BitVec 52) : Fetched :=
  let asid := s.asidOf core
  if pc.toNat % 4 ≠ 0 then .bad 1
  else match s.xlateCur pc.toNat 4 with
  | .hit pa _ => .code (s.fetchWord asid pa)
  | .miss => .miss
  | .bad c => .bad c

/-! ### The repeat word -/

/-- Stagger of a scalar code (R41). -/
def staggerScalar (f : Opnd) (sk : Nat) : Opnd :=
  let n := f.toNat
  if n = 0 then f
  else if n ≤ 0x1F then BitVec.ofNat 6 (n / 16 * 16 + (n % 16 + sk) % 16)
  else f

/-- Stagger of a vector code (R41). -/
def staggerVector (f : Opnd) (sk : Nat) : Opnd :=
  let n := f.toNat
  if n ≤ 47 then BitVec.ofNat 6 ((n + sk) % 48) else f

/-- How a captured word's fields d, a and b hold operand codes: none, scalar or vector (R27, R41). -/
inductive Role where
  | none | scalar | vector
  deriving DecidableEq, Repr

/-- The roles of the fields d, a and b of a frame-eligible word (column F of R43, R44, R48, R49); none where the word
is not eligible.  A field that the word does not give to an operand keeps its bits (R41). -/
def frameRoles : Instr → Option (Role × Role × Role)
  | .add _ _ _ _ => some (.scalar, .scalar, .scalar)
  | .sub _ _ _ _ => some (.scalar, .scalar, .scalar)
  | .and _ _ _ _ => some (.scalar, .scalar, .scalar)
  | .or _ _ _ _ => some (.scalar, .scalar, .scalar)
  | .xor _ _ _ _ => some (.scalar, .scalar, .scalar)
  | .andn _ _ _ _ => some (.scalar, .scalar, .scalar)
  | .shl _ _ _ _ => some (.scalar, .scalar, .scalar)
  | .shr _ _ _ _ => some (.scalar, .scalar, .scalar)
  | .sar _ _ _ _ => some (.scalar, .scalar, .scalar)
  | .rot _ _ _ _ => some (.scalar, .scalar, .scalar)
  | .min _ _ _ _ => some (.scalar, .scalar, .scalar)
  | .minc _ _ _ _ => some (.scalar, .scalar, .scalar)
  | .max _ _ _ _ => some (.scalar, .scalar, .scalar)
  | .maxc _ _ _ _ => some (.scalar, .scalar, .scalar)
  | .sel _ _ _ _ => some (.scalar, .scalar, .scalar)
  | .mul _ _ _ _ => some (.scalar, .scalar, .scalar)
  | .mulh _ _ _ _ => some (.scalar, .scalar, .scalar)
  | .mulhc _ _ _ _ => some (.scalar, .scalar, .scalar)
  | .div _ _ _ _ => some (.scalar, .scalar, .scalar)
  | .divc _ _ _ _ => some (.scalar, .scalar, .scalar)
  | .rem _ _ _ _ => some (.scalar, .scalar, .scalar)
  | .remc _ _ _ _ => some (.scalar, .scalar, .scalar)
  | .clz _ _ _ => some (.scalar, .scalar, .none)
  | .ctz _ _ _ => some (.scalar, .scalar, .none)
  | .popc _ _ _ => some (.scalar, .scalar, .none)
  | .bswap _ _ _ => some (.scalar, .scalar, .none)
  | .mov _ _ _ => some (.scalar, .scalar, .none)
  | .cmp _ _ _ _ _ => some (.scalar, .scalar, .scalar)
  | .addi _ _ _ _ => some (.scalar, .scalar, .none)
  | .andi _ _ _ _ => some (.scalar, .scalar, .none)
  | .ori _ _ _ _ => some (.scalar, .scalar, .none)
  | .xori _ _ _ _ => some (.scalar, .scalar, .none)
  | .shli _ _ _ _ => some (.scalar, .scalar, .none)
  | .shri _ _ _ _ => some (.scalar, .scalar, .none)
  | .sari _ _ _ _ => some (.scalar, .scalar, .none)
  | .li _ _ _ => some (.scalar, .none, .none)
  | .lsh _ _ _ => some (.scalar, .none, .none)
  | .br _ _ _ _ => none
  | .bcEq _ _ _ _ => none
  | .bcNe _ _ _ _ => none
  | .bcLt _ _ _ _ => none
  | .bcLtc _ _ _ _ => none
  | .bcLe _ _ _ _ => none
  | .bcLec _ _ _ _ => none
  | .j _ _ => none
  | .jal _ _ => none
  | .jr _ _ _ => none
  | .stall _ _ => none
  | .fadd _ _ _ _ => some (.scalar, .scalar, .scalar)
  | .fsub _ _ _ _ => some (.scalar, .scalar, .scalar)
  | .fmul _ _ _ _ => some (.scalar, .scalar, .scalar)
  | .fdiv _ _ _ _ => some (.scalar, .scalar, .scalar)
  | .fsqrt _ _ _ => some (.scalar, .scalar, .none)
  | .fmin _ _ _ _ => some (.scalar, .scalar, .scalar)
  | .fmax _ _ _ _ => some (.scalar, .scalar, .scalar)
  | .fneg _ _ _ => some (.scalar, .scalar, .none)
  | .fclass _ _ _ => some (.scalar, .scalar, .none)
  | .fma _ _ _ _ => some (.scalar, .scalar, .scalar)
  | .fcmp _ _ _ _ _ => some (.scalar, .scalar, .scalar)
  | .cvt _ _ _ => some (.scalar, .scalar, .none)
  | .bxenc _ _ _ _ => some (.scalar, .scalar, .scalar)
  | .bxdec _ _ _ _ => some (.scalar, .scalar, .scalar)
  | .bxexp _ _ _ => some (.scalar, .scalar, .none)
  | .ld _ _ _ _ => none
  | .st _ _ _ _ => none
  | .ldx _ _ _ _ => none
  | .stx _ _ _ _ => none
  | .ldg _ _ _ _ => none
  | .stg _ _ _ _ => none
  | .ldgAcq _ _ _ _ => none
  | .stgRel _ _ _ _ => none
  | .lsr _ _ _ _ _ => none
  | .pref _ _ => none
  | .waitc _ _ _ => none
  | .waitv _ _ _ => none
  | .wbk _ _ => none
  | .ldgx _ _ _ _ => none
  | .aadd _ _ _ _ _ _ => none
  | .aand _ _ _ _ _ _ => none
  | .aor _ _ _ _ _ _ => none
  | .axor _ _ _ _ _ _ => none
  | .amin _ _ _ _ _ _ => none
  | .amax _ _ _ _ _ _ => none
  | .aswp _ _ _ _ _ _ => none
  | .acas _ _ _ _ _ _ => none
  | .aincw _ _ _ _ _ _ => none
  | .abadd _ _ _ _ _ _ => none
  | .red _ _ _ _ _ _ => none
  | .barm _ _ _ => none
  | .bwait _ _ _ _ => none
  | .vadd _ _ _ _ k => some (.vector, .vector, if k == 1 then .scalar else .vector)
  | .vsub _ _ _ _ k => some (.vector, .vector, if k == 1 then .scalar else .vector)
  | .vmul _ _ _ _ k => some (.vector, .vector, if k == 1 then .scalar else .vector)
  | .vfma _ _ _ _ k => some (.vector, .vector, if k == 1 then .scalar else .vector)
  | .vmin _ _ _ _ k => some (.vector, .vector, if k == 1 then .scalar else .vector)
  | .vmax _ _ _ _ k => some (.vector, .vector, if k == 1 then .scalar else .vector)
  | .vabs _ _ _ => some (.vector, .vector, .none)
  | .vneg _ _ _ => some (.vector, .vector, .none)
  | .vand _ _ _ _ k => some (.vector, .vector, if k == 1 then .scalar else .vector)
  | .vor _ _ _ _ k => some (.vector, .vector, if k == 1 then .scalar else .vector)
  | .vxor _ _ _ _ k => some (.vector, .vector, if k == 1 then .scalar else .vector)
  | .vshl _ _ _ _ k => some (.vector, .vector, if k == 1 then .scalar else .vector)
  | .vshr _ _ _ _ k => some (.vector, .vector, if k == 1 then .scalar else .vector)
  | .vsar _ _ _ _ k => some (.vector, .vector, if k == 1 then .scalar else .vector)
  | .vcmp _ _ _ _ k _ => some (.vector, .vector, if k == 1 then .scalar else .vector)
  | .vsel _ _ _ _ k => some (.vector, .vector, if k == 1 then .scalar else .vector)
  | .vcvt _ _ _ => some (.vector, .vector, .none)
  | .vperm _ _ _ _ _ => none
  | .vbcast _ _ _ => some (.vector, .none, .scalar)
  | .vred _ _ _ _ _ => none
  | .vscan _ _ _ _ _ => none
  | .vld _ _ _ _ _ _ => none
  | .vst _ _ _ _ _ _ => none
  | .vldx _ _ _ _ => none
  | .vstx _ _ _ _ => none
  | .vidx _ _ _ _ _ => none
  | .vsetvl _ _ _ => none
  | .vmovsWrite _ _ _ _ => none
  | .vmovsRead _ _ _ _ => none
  | .vrcp _ _ _ => some (.vector, .vector, .none)
  | .vrsqrt _ _ _ => some (.vector, .vector, .none)
  | .vexp2 _ _ _ => some (.vector, .vector, .none)
  | .vdot4 _ _ _ _ => some (.vector, .vector, .vector)
  | .mma _ _ _ _ _ _ _ => some (.none, .scalar, .scalar)
  | .mmr _ _ _ _ _ => none
  | .mtile _ _ _ _ _ => none
  | .mzero _ _ _ => none
  | .mrd _ _ _ _ _ => none
  | .mwr _ _ _ _ _ => none
  | .msk _ _ => none
  | .mcommit _ _ => none
  | .mwaitb _ _ => none
  | .mstat _ _ _ => none
  | .kprobe _ _ _ _ => none
  | .kins _ _ _ _ => none
  | .kups _ _ _ _ => none
  | .krem _ _ _ _ => none
  | .knew _ _ _ _ => none
  | .kdel _ _ _ => none
  | .kpub _ _ _ _ => none
  | .kcfg _ _ _ _ => none
  | .kiter _ _ _ _ => none
  | .kstat _ _ _ _ => none
  | .fpush _ _ _ _ => none
  | .fpop _ _ _ => none
  | .fpeek _ _ _ => none
  | .fstat _ _ _ => none
  | .pland _ _ _ _ => none
  | .pcnt _ _ _ => none
  | .pwait _ _ _ _ => none
  | .pcancel _ _ _ => none
  | .syncC _ _ _ _ => none
  | .syncX _ _ _ => none
  | .xmit _ _ _ => none
  | .xsel _ _ _ _ => none
  | .ssrd _ _ _ => none
  | .ulog _ _ _ _ => none
  | .facq _ _ _ _ _ => none
  | .fsur _ _ _ => none
  | .fans _ _ => none
  | .frel _ _ _ => none
  | .frecall _ _ _ => none
  | .cwr _ _ _ _ => none
  | .cclr _ _ _ _ => none
  | .clrn _ _ _ _ => none
  | .cdec _ _ _ _ => none
  | .cback _ _ _ _ => none
  | .cprop _ _ _ _ => none
  | .ctrail _ _ _ _ => none
  | .cval _ _ _ _ => none
  | .cconf _ _ _ _ => none
  | .launch _ _ _ => none
  | .hstart _ _ _ _ => none
  | .hexit _ => none
  | .hjoin _ _ => none
  | .gdone _ _ _ _ => none
  | .schsel _ _ _ _ => none
  | .trap _ _ => none
  | .eret _ => none
  | .halt _ _ _ => none
  | .yield _ => none
  | .srr _ _ _ => none
  | .srw _ _ _ => none
  | .wrd _ _ _ _ => none
  | .wwr _ _ _ _ => none
  | .wres _ _ _ _ => none
  | .gen _ _ _ => none
  | .tlbi _ _ _ _ => none
  | .scrub _ _ _ => none
  | .rpt _ _ _ _ _ => none
  | .pfx _ _ _ _ _ => some (.none, .none, .none)
  | .mtileExpansion => none
  | .illegalWordHalt => none
  | .fetchFault => none
  | .inOrderCheck => none
  | .resultArrival => none
  | .storeAcknowledgement => none
  | .trapEntry => none
  | .interrupt => none
  | .timerCompare => none
  | .tcmpWrite => none
  | .ipendWrite => none
  | .translationWalk => none
  | .globalAccessAtSlice => none
  | .releaseDepart => none
  | .watchArrival => none
  | .atomicAtSlice => none
  | .reductionAtSlice => none
  | .barrierArrival => none
  | .vectorEntryBegin => none
  | .gatheringPointBegin => none
  | .vectorEntryRetire => none
  | .matrixEntryBegin => none
  | .matrixEntryCompletion => none
  | .keyedOperationAccept => none
  | .combiningBufferWrite => none
  | .splitStep => none
  | .facetMigration => none
  | .mapUnitSurrender => none
  | .copy => none
  | .copyl => none
  | .gather => none
  | .gpre => none
  | .hotset => none
  | .codecCompress => none
  | .codecExpand => none
  | .codecBlockEncode => none
  | .codecBlockDecode => none
  | .pbcast => none
  | .pgather => none
  | .prscat => none
  | .prelay => none
  | .commandCompletion => none
  | .engineBlockSurrender => none
  | .sectionArrival => none
  | .prscatChunkArrival => none
  | .cancelAtRouter => none
  | .syncCRelease => none
  | .syncXRelease => none
  | .exchangeWordArrival => none
  | .exchangeTimeout => none
  | .uncorrectableError => none
  | .rollback => none
  | .viralEntry => none
  | .arbitration => none
  | .routineEntry => none
  | .routineOverrun => none
  | .finishDeadline => none
  | .clauseOperationAtArray => none
  | .gangStart => none
  | .switchOut => none
  | .preemptionStamp => none
  | .resume => none
  | .kill => none
  | .gangCompletion => none
  | .cycleBudgetExpiry => none
  | .debugHaltLanding => none
  | .ipost => none
  | .traceStart => none
  | .traceArm => none
  | .traceStamp => none
  | .traceStop => none
  | .traceEnd => none
  | .injectScalar => none
  | .injectVector => none
  | .injectMatrix => none
  | .hostMemoryAccess => none
  | .hostCommand => none
  | .warmReset => none
  | .coldReset => none
  | .plimWrite => none
  | .tenantChange => none
  | .notifyRegister => none
  | .quoteRequest => none
  | .flitReceive => none
  | .replayTimeout => none
  | .laneFailure => none
  | .portRetrainDone => none
  | .remoteRequest => none
  | .hbmScrubPass => none
  | .powerSample => none
  | .startUp => none
  | .startFailedReset => none
  | .portReset => none
  | .resumeStamp => none
  | .bootRecordPinWrite => none

/-- Replace a 6-bit field of a word. -/
def putOpnd (w : Code) (lo : Nat) (f : Opnd) : Code := BitVec.ofNat 32 (putBits w.toNat lo 6 f.toNat)

/-- One field of a captured word on a pass (R41). -/
def staggerField (w : Code) (on : Bool) (role : Role) (lo sk : Nat) : Code :=
  if on then
    match role with
    | .none => w
    | .scalar => putOpnd w lo (staggerScalar (w.get lo 6) sk)
    | .vector => putOpnd w lo (staggerVector (w.get lo 6) sk)
  else w

/-- The captured word as pass `k` executes it (R41). -/
def staggered (rpt w : Code) (k : Nat) : Code :=
  match decode w with
  | .illegal _ => w
  | .instr i =>
    match frameRoles i with
    | none => w
    | some (rd, ra, rb) =>
      let m := rptMask rpt
      let sk := rptStride rpt * k
      staggerField (staggerField (staggerField w (m / 4 % 2 == 1) rd 16 sk) (m / 2 % 2 == 1) ra 10 sk) (m % 2 == 1) rb 4 sk

/-- The words after a repeat word, fetched in order: all of them, or the first that fails and how (R422). -/
def State.fetchRun (s : State) (core : Nat) (pc : BitVec 52) : Nat → Except (BitVec 52 × Fetched) (List Code)
  | 0 => .ok []
  | n + 1 =>
    match s.fetchAt core pc with
    | .code w => (s.fetchRun core (pc + 4) n).map (w :: ·)
    | f => .error (pc, f)

/-- A context waits for the walk of an address it needs (R119). -/
def State.startWalk (s : State) (core ctx va need : Nat) : State :=
  (s.modCtx core ctx fun t => { t with wait := .walk va need }).post 0 .translationWalk ⟨core, ctx, 0, word va, []⟩

/-- A word cannot be fetched: the trap of KIND 1, the pc on the word or on the repeat word (R354, R422). -/
def State.fetchTrap (s : State) (core ctx addr cause : Nat) : State :=
  s.takeTrap core ctx { kind := 1, cause := cause, addr := addr }

end Sys2Proof.Machine
end

