-- ==== Sys2Proof/Machine/LocalMem.lean ====
section
/-! DEFINITION. Local loads and stores, and the region descriptors (R113 to R116, R135, R138). -/
namespace Sys2Proof.Machine

/-- A local access is held back while an earlier one of its context to another core's store has not performed, and one to a
sibling's while the octant network has no slot for its core (R116). -/
def State.localFree (s : State) (target : Nat) : Bool :=
  (s.cur.localTo == target || s.cur.localAt ≤ s.now)
    && (s.curCore.sibs.all fun b => b.ctx != s.cx || b.target == target)
    && (target == s.cc || s.curCore.netAt ≤ s.now)

/-- A local access to a store has been made; one to a sibling's takes the slot of its core in this cycle (R116). -/
def State.madeLocal (s : State) (target : Nat) : State :=
  let s := s.modCur fun t => { t with localTo := target, localAt := s.now + (if target = s.cc then 2 else 4) }
  if target = s.cc then s else s.modCurCore fun k => { k with netAt := s.now + 1 }

/-- A local access at an address would have to wait for an earlier one of the context, to another store, or one to the same that a
guarded range holds back (R116, R131, R192). -/
def State.localWaits (s : State) (addr : Nat) : Bool :=
  match s.target s.cc addr 1 1 with
  | .error _ => false
  | .ok (c, _) => !s.localFree c || s.sibHeld s.cc s.cx c

/-- An earlier sibling access of the current context to a store performs before one that is made now (R131). -/
def State.catchUp (s : State) (target : Nat) : State := s.sibRun s.cc fun b => b.ctx == s.cx && b.target == target

/-- A word whose next word waits for `n` cycles at least (R198, R201, R326). -/
def State.finishIn (s : State) (S : Stall) (n : Nat) : State :=
  (s.finish S).modCur fun t => { t with readyAt := Nat.max t.readyAt (s.now + n) }

/-- A result of a sibling access: readable after `L` cycles, its value read when the access performs (R116, R142). -/
def State.sibResult (s : State) (d : Opnd) (L : Nat) : State :=
  let rat := s.now + L + (if 16 ≤ d.toNat ∧ d.toNat ≤ 31 then 2 else 0)
  let i := s.newId
  (s.modCur fun t => t.produce d fun slot reg =>
    { id := i, slot := some slot, reg := reg, slotAt := s.now + L, regAt := if reg = none then s.now + L else rat }).useId

/-- Send a sibling access on its way (R116). -/
def State.sibSend (s : State) (b : Sib) : State := s.modCurCore fun k => { k with sibs := k.sibs ++ [b] }

/-- A local load of the current context (R116, R135). -/
def localLoad (S : Stall) (d : Opnd) (addr : Nat) (f : IFmt) (s : State) : State :=
  let w := f.w / 8
  match s.target s.cc addr w w with
  | .error c => s.exact c addr
  | .ok (c, a) =>
    if !s.localFree c then s.hold
    else if c = s.cc then ((s.opOwn S d 3 (extend w f.signed (s.lread c a w)))).madeLocal c
    else
      let i := s.newId
      let b : Sib := ⟨s.now + 3, s.cx, c, a, w, f.signed, .load, 0, 0, i⟩
      (((s.sibResult d 6).sibSend b).finish S).madeLocal c

/-- A local store of the current context; a guarded range holds it back (R116, R135, R192). -/
def localStore (S : Stall) (addr : Nat) (f : IFmt) (v : Word) (s : State) : State :=
  let w := f.w / 8
  match s.target s.cc addr w w with
  | .error c => s.exact c addr
  | .ok (c, a) =>
    if !s.localFree c || s.guarded c a w then s.hold
    else if c = s.cc then ((s.lwrite c a w v.toNat).finish S).madeLocal c
    else
      let b : Sib := ⟨s.now + 3, s.cx, c, a, w, f.signed, .store, v.toNat, 0, 0⟩
      ((s.sibSend b).finish S).madeLocal c

/-- The address of an M-format access: base plus the element offset (R28, R135). -/
def State.offAddr (s : State) (b : Opnd) (o : BitVec 10) : Nat :=
  (s.opnd b + sext10 o * word ((memFmt s.cur.pfx).w / 8)).toNat

/-- The address of an indexed access: a plus b scaled by the width (R135). -/
def State.idxAddr (s : State) (a b : Opnd) : Nat :=
  (s.opnd a + s.opnd b * word ((memFmt s.cur.pfx).w / 8)).toNat

/-- R135: ld. -/
def execLd (S : Stall) (d b : Opnd) (o : BitVec 10) (s : State) : Res :=
  s.issue { takes := true, accepts := memAccepts, reads := [b] } fun s =>
    localLoad S d (s.offAddr b o) (memFmt s.cur.pfx) s

/-- R135: st. -/
def execSt (S : Stall) (v b : Opnd) (o : BitVec 10) (s : State) : Res :=
  s.issue { takes := true, accepts := memAccepts, reads := [v, b] } fun s =>
    localStore S (s.offAddr b o) (memFmt s.cur.pfx) (s.opnd v) s

/-- R135: ldx. -/
def execLdx (S : Stall) (d a b : Opnd) (s : State) : Res :=
  s.issue { takes := true, accepts := memAccepts, reads := [a, b] } fun s =>
    localLoad S d (s.idxAddr a b) (memFmt s.cur.pfx) s

/-- R135: stx. -/
def execStx (S : Stall) (v a b : Opnd) (s : State) : Res :=
  s.issue { takes := true, accepts := memAccepts, reads := [v, a, b] } fun s =>
    localStore S (s.idxAddr a b) (memFmt s.cur.pfx) (s.opnd v) s

/-- R138: lsr: a region descriptor, or an exact trap with cause 10. -/
def execLsr (S : Stall) (b z : Opnd) (n p : BitVec 3) (s : State) : Res :=
  s.issue { reads := [b, z] } fun s =>
    let base := s.opn b
    let size := s.opn z
    if base % 4096 ≠ 0 ∨ 0x60000 ≤ base ∨ 96 < size ∨ 0x60000 < base + 4096 * size then s.exact 10 0
    else if !s.localFree s.cc then s.hold
    else ((s.modCurCore fun k => { k with regions := SMap.set {} k.regions n.toNat ⟨base, size, p.toNat⟩ }).finish S).madeLocal
      s.cc

end Sys2Proof.Machine
end

