-- ==== Sys2Proof/Machine/GlobalMem.lean ====
section
/-! DEFINITION. Global loads and stores, ordered accesses, waits, watches and hints, and the events that carry them: the
page-table walk, the access at the home slice, responses and acknowledgements (R117 to R141). -/
namespace Sys2Proof.Machine

/-- Where a global access goes: a physical address of this device, or another device of the domain (R117). -/
inductive Dest where
  | here (pa : Nat)
  | away (device : Nat)
  deriving DecidableEq, Repr

/-- The checks of a global address, alignment first (R117, R130). -/
def globalCause (addr align : Nat) : Option Nat :=
  if addr % align ≠ 0 then some 1
  else if 2 ^ 52 ≤ addr then some 4
  else if 2 ^ 51 ≤ addr ∧ 320 ≤ bitsOf addr 42 9 then some 9
  else none

/-- A global access of the current context as it issues: an exact fault, a walk to wait for, or the translated address
(R119, R136). -/
def State.globalIssue (s : State) (addr align need : Nat) (k : Dest → State → State) : State :=
  match globalCause addr align with
  | some c => s.exact c addr
  | none =>
    if 2 ^ 51 ≤ addr then k (.away (bitsOf addr 42 9)) s
    else
      let asid := s.asidOf s.cc
      match s.xlateCur addr need with
      | .bad c => s.exact c addr
      | .miss => s.startWalk s.cc s.cx addr need
      | .hit pa _ => k (.here pa) (s.countAccess s.cc asid addr pa (need / 2 % 2 == 1))

/-- What holds a global access of the current context back or makes it fault, if anything (R119). -/
def State.heldAt (s : State) (addr align need : Nat) : Option Xlat :=
  match globalCause addr align with
  | some c => some (.bad c)
  | none =>
    if 2 ^ 51 ≤ addr then none
    else match s.xlateCur addr need with
      | .hit _ _ => none
      | x => some x

/-- The channels of a request and of its answer (R8): between its core and the home slice, or another device. -/
def Req.chan (r : Req) : Nat := match r.remote with | none => lsChan r.core (homeOf r.pa) | some d => awayChan r.core d
def Req.back (r : Req) : Nat := match r.remote with | none => lsBack (homeOf r.pa) r.core | some _ => 0

/-- A scope's instance holds the home slice of an earlier access (R17, R133). -/
def inScope (sc core : Nat) (o : Outst) : Bool :=
  match sc with
  | 0 => false
  | 1 => o.home == some (nodeOf core)
  | 2 => match o.home with | some h => dieOfNode h == dieOf core | none => false
  | _ => true

/-- The earlier global accesses of a context that a release of a scope waits for: none at .oc (R133, R421). -/
def Ctx.releaseWaits (t : Ctx) (sc core : Nat) : List Nat :=
  if sc = 0 then [] else ((t.ld.filter fun o => o.load || inScope sc core o) ++ t.stq.filter fun o => inScope sc core o).map (·.id)

/-- The request of the current context for an access that has been translated. -/
def State.mkReq (s : State) (kind : ReqKind) (id va w : Nat) (d : Dest) : Req :=
  let asid := s.asidOf s.cc
  { kind := kind, core := s.cc, ctx := s.cx, id := id, va := va, width := w, asid := asid, gen := (s.space asid).gen,
    pa := match d with | .here pa => pa | .away _ => va
    remote := match d with | .here _ => none | .away v => some v
    pc := s.cur.pc.toNat, src := s.groupKey s.cc, at_ := s.now }

/-- A request on its way: a release, or an access to a word behind a held one of its context, is held; any other leaves
for its line (R132, R133). -/
def State.send (s : State) (r : Req) (ev : Instr) : State :=
  let behind := (s.held.filter fun i => match SMap.find s.reqs i with
    | some h => h.core == r.core && h.ctx == r.ctx && wordsMeet h.pa h.width r.pa r.width && h.remote == r.remote
    | none => false)
  let r := { r with waitsFor := r.waitsFor ++ behind }
  let s := { s with reqs := SMap.put s.reqs r.id r }
  if r.scope.isSome || !behind.isEmpty then { s with held := s.held ++ [r.id] }
  else s.post r.chan ev ⟨r.id, 0, 0, 0, []⟩

/-- A request among those of its line that have reached the slice, which a load may perform ahead of: a store of another context
(R123). -/
def Req.passes (r q : Req) : Bool := r.kind == .load && q.kind == .store && !(q.core == r.core && q.ctx == r.ctx)

/-- The cycle before which a request that reaches its slice cannot perform: behind those of its line that are there, but for stores
that it may pass (R123). -/
def State.lineDue (s : State) (r : Req) : Nat :=
  lastDue (lineChan r.pa) (s.cal.filter fun p => match SMap.find s.reqs p.args.a with | some q => !r.passes q | none => true)

/-- A request at its home slice: one that arrives joins the queue of its line, from where it performs (R123, R421); one to another
device is on its way there. -/
def State.atSlice (s : State) (ev : Instr) (perform : State → Nat → State) (id : Nat) : State :=
  match SMap.find s.reqs id with
  | none => s
  | some r =>
    if r.remote.isSome || r.reached then perform s id
    else
      let due := Nat.max (s.now + s.freeN 0) (s.lineDue r)
      let s := { s with reqs := SMap.put s.reqs id { r with reached := true } }
      State.renew { s with cal := s.cal ++ [⟨due, lineChan r.pa, ev, ⟨id, 0, 0, 0, []⟩⟩] }

/-- Count an access of the current context in ldc or stc (R129). -/
def State.countLd (s : State) (id : Nat) (d : Dest) (load : Bool) : State :=
  s.modCur fun t => { t with ld := t.ld ++ [match d with
    | .here pa => ⟨id, some (homeOf pa), false, load⟩
    | .away _ => ⟨id, none, true, load⟩] }
def State.countSt (s : State) (id : Nat) (d : Dest) : State :=
  s.modCur fun t => { t with stq := t.stq ++ [match d with
    | .here pa => ⟨id, some (homeOf pa), false, false⟩
    | .away _ => ⟨id, none, true, false⟩] }

/-- Count in ldc an operation that is no access to a line: only releases of .dev and .dom wait for it (R223, R322). -/
def State.countOp (s : State) (id : Nat) : State := s.modCur fun t => { t with ld := t.ld ++ [⟨id, none, false, false⟩] }

/-- The same in stc. -/
def State.countOpSt (s : State) (id : Nat) : State := s.modCur fun t => { t with stq := t.stq ++ [⟨id, none, false, false⟩] }

/-- A wait the current context enters after its word (R133, R140). -/
def State.park (s : State) (w : Wait) : State := s.modCur fun t => { t with wait := w }

/-- ldc and stc of the context are 0. -/
def Ctx.drained (t : Ctx) : Bool := t.ld.isEmpty && t.stq.isEmpty

/-- ldc and stc have room for one more (R129). -/
def State.ldRoom (s : State) : Bool := s.cur.ld.length < 32
def State.stRoom (s : State) : Bool := s.cur.stq.length < 64

/-- A store through the domain window makes the superstep unrepeatable (R294). -/
def State.domainUnr (s : State) (d : Dest) : State :=
  match d with
  | .here _ => s
  | .away _ => s.setUnr s.cc

/-- A global load (R136): counted, its result pending until it arrives. -/
def globalLoad (S : Stall) (d : Opnd) (addr : Nat) (f : IFmt) (acq : Bool) (s : State) : State :=
  let w := f.w / 8
  s.globalIssue addr w 1 fun dst s =>
    let i := s.newId
    let r := { s.mkReq .load i addr w dst with signed := f.signed, acq := acq }
    let s := ((s.countLd i dst true).longResult d).finish S
    let s := s.send r .globalAccessAtSlice
    if acq then s.park (.arrival i) else s

/-- A global store (R136), with a release's scope where it has one (R133). -/
def globalStore (S : Stall) (addr : Nat) (f : IFmt) (v : Word) (scope : Option Nat) (s : State) : State :=
  let w := f.w / 8
  s.globalIssue addr w 2 fun dst s =>
    let i := s.newId
    let r := { s.mkReq .store i addr w dst with
      v := v.toNat, scope := scope, waitLocal := s.cur.localAt
      waitsFor := match scope with | some sc => s.cur.releaseWaits sc s.cc | none => [] }
    let s := (((s.countSt i dst).useId).domainUnr dst).finish S
    s.send r .globalAccessAtSlice

/-- R136: ldg. -/
def execLdg (S : Stall) (d b : Opnd) (o : BitVec 10) (s : State) : Res :=
  s.issue { takes := true, accepts := memAccepts, reads := [b], ready := s.ldRoom } fun s =>
    globalLoad S d (s.offAddr b o) (memFmt s.cur.pfx) false s

/-- R136: stg. -/
def execStg (S : Stall) (v b : Opnd) (o : BitVec 10) (s : State) : Res :=
  s.issue { takes := true, accepts := memAccepts, reads := [v, b], ready := s.stRoom } fun s =>
    globalStore S (s.offAddr b o) (memFmt s.cur.pfx) (s.opnd v) none s

/-- R136: ldgx: 64 bits, no prefix. -/
def execLdgx (S : Stall) (d a b : Opnd) (s : State) : Res :=
  s.issue { reads := [a, b], ready := s.ldRoom } fun s =>
    globalLoad S d (s.opnd a + 8 * s.opnd b).toNat ⟨64, false⟩ false s

/-- R137: ldg.acq: the next word waits for the value. -/
def execLdgAcq (S : Stall) (d a : Opnd) (_c : BitVec 3) (s : State) : Res :=
  s.issue { takes := true, accepts := memAccepts, reads := [a], ready := s.ldRoom } fun s =>
    globalLoad S d (s.opn a) (memFmt s.cur.pfx) true s

/-- R137: stg.rel: held until the earlier accesses of its scope have performed. -/
def execStgRel (S : Stall) (v a : Opnd) (c : BitVec 3) (s : State) : Res :=
  s.issue { takes := true, accepts := memAccepts, reads := [v, a], ready := s.stRoom } fun s =>
    globalStore S (s.opn a) (memFmt s.cur.pfx) (s.opnd v) (some c.toNat) s

/-- R139: waitc: on to the next word once the counter is low enough; until then the pc stays on the waitc. -/
def execWaitc (S : Stall) (n : Opnd) (k : BitVec 3) (s : State) : Res :=
  s.issue { reads := [n] } fun s =>
    let lim := s.opn n
    if s.cur.counter k.toNat ≤ lim then s.finish S
    else s.modCur fun t => { t with wait := .counter k.toNat lim, readyAt := s.now + 1 + S.toNat, issuedAt := s.now }

/-- R140: waitv: the watch is sent and the context parks after the word. -/
def execWaitv (S : Stall) (v a : Opnd) (s : State) : Res :=
  s.issue { reads := [v, a] } fun s =>
    s.globalIssue (s.opn a) 8 1 fun dst s =>
      let i := s.newId
      let r := { s.mkReq .watch i (s.opn a) 8 dst with v := s.opn v }
      (((s.useId).finish S).park (.watch i)).send r .watchArrival

/-- The need of a hint's walk: RD, any page, the mark of a hint, and the stall count of its word (R141). -/
def hintNeed (S : Stall) : Nat := 17 + 32 + 64 * S.toNat

/-- R141: pref: a hint; it never faults, and a failed translation drops it.  A miss waits for its walk; the walk's need holds the
mark of a hint and the stall count, for a walk that fails (R119).  DEDUCED (log 174): where it is translated it counts as a load in the
page's counters of R120. -/
def execPref (S : Stall) (a : Opnd) (s : State) : Res :=
  s.issue { reads := [a] } fun s =>
    let addr := s.opn a
    let asid := s.asidOf s.cc
    match s.xlateCur addr 17 with
    | .hit pa _ =>
      let i := s.newId
      let r := s.mkReq .pref i addr 1 (.here pa)
      (((s.countAccess s.cc asid addr pa false).useId).finish S).send r .globalAccessAtSlice
    | .miss => s.startWalk s.cc s.cx addr (hintNeed S)
    | .bad _ => s.finish S

/-- R141: wbk: the line is written back to HBM; counted in stc. -/
def execWbk (S : Stall) (a : Opnd) (s : State) : Res :=
  s.issue { reads := [a], ready := s.stRoom } fun s =>
    s.globalIssue (s.opn a) 1 18 fun dst s =>
      let i := s.newId
      let r := s.mkReq .wbk i (s.opn a) 1 dst
      (((s.countSt i dst).useId).finish S).send r .globalAccessAtSlice

/-! ### Events -/

/-- What a walk that has failed does: a trap, or, for a hint, nothing but the end of the word (R119, R141). -/
def State.walkFails (s : State) (core ctx va need cause : Nat) : State :=
  if need / 32 % 2 = 1 then
    s.modCtx core ctx fun t => { t.advance with readyAt := s.now + 1 + need / 64 % 8, issuedAt := s.now }
  else s.takeTrap core ctx { kind := if need / 4 % 2 = 1 then 1 else 0, cause := cause, addr := va }

/-- What a walk finds: the cache entry of the leaf, with A and D set, or the cause (R119). -/
def State.walkLeaf (s : State) (asid va need : Nat) : Except Nat (TlbEntry × State) :=
  match s.walk asid va with
  | .bad c => .error c
  | .leaf e at' level used =>
    match permit need e with
    | some c => .error c
    | none =>
      let w := need / 2 % 2 == 1
      let size := leafSize level e
      .ok ({ asid := asid, gen := (s.space asid).gen, vpage := va / size * size, size := size,
             leaf := e ||| (if w then 0x300 else 0x100), leafAt := at' }, s.markUsed w used)

/-- The translation of an address in the cache of a core: the leaf cached, or the cause (R119). -/
def State.walkFill (s : State) (core asid va need : Nat) : Except Nat State :=
  match s.walkLeaf asid va need with
  | .error c => .error c
  | .ok (e, s) => .ok (s.tlbFill core e)

/-- The translation of the next fetch of a core's context is in its cache, so that it can issue at once (R336, R343). -/
def State.fetchReady (s : State) (core ctx : Nat) : State :=
  let a := (s.ctxAt core ctx).wordPc.toNat
  match s.xlate core (s.asidOf core) a 4 with
  | .miss => (match s.walkFill core (s.asidOf core) a 4 with | .ok s => s | .error _ => s)
  | _ => s

/-- R119, R374: a walk ends for the context that waits on it: A and D are set and the leaf is cached, or, where a tlbi has met the
walk, kept for the access alone; or the access traps. -/
def State.walkEnds (s : State) (core ctx va : Nat) : State :=
  match (s.ctxAt core ctx).wait with
  | .walk a need =>
    if a ≠ va then s
    else
      let alone := (s.ctxAt core ctx).rewalk
      let s := s.modCtx core ctx fun t => { t with wait := .none, rewalk := false }
      match s.walkLeaf (s.asidOf core) va need with
      | .error c => s.walkFails core ctx va need c
      | .ok (e, s) =>
        if alone then s.modCtx core ctx fun t => { t with walked := t.walked ++ [(s.now, e)] } else s.tlbFill core e
  | _ => s

/-- R119: TRANSLATION_WALK, for a core, a context and an address. -/
def execTranslationWalk (s : State) : Res := .next (s.walkEnds s.ev.a s.ev.b s.ev.w.toNat)

/-- The late fault of a rejected or unreachable access (R121, R130, R354). -/
def Req.lateFault (r : Req) (cause : Nat) : LateFault :=
  { kind := 2, cause := cause, addr := r.va, det := if cause = 61 then (r.pa - facetBase) / 65536 else 0, pc := r.pc
    access := match r.kind with
      | .load => 0 | .store | .wbk => 1 | .atomic _ | .barm => 2 | .red _ _ | .arrival => 3 | _ => 4 }

/-- A request is answered: its record goes, and the response carries the value, or the fault and 0 (R121). -/
def State.answer (s : State) (r : Req) (counted : Bool) (v : Word) (fault : Option Nat) : State :=
  let s := { s with reqs := SMap.del s.reqs r.id }
  let x : Resp := match fault with
    | some c => { fault := some (r.lateFault c) }
    | none => { v := v }
  s.respondOn r.back (if counted then .resultArrival else .storeAcknowledgement) r.core r.ctx r.id x

/-- Whether a request returns a value, counted in ldc, or an acknowledgement, counted in stc (R129). -/
def ReqKind.returns : ReqKind → Bool
  | .load => true
  | .atomic _ => true
  | .barm => true
  | .watch => true
  | .bwatch => true
  | _ => false

/-- The event that a request is at its place of performing. -/
def ReqKind.event : ReqKind → Instr
  | .atomic _ => .atomicAtSlice
  | .red _ _ => .reductionAtSlice
  | .barm => .barrierArrival
  | .arrival => .barrierArrival
  | .watch => .watchArrival
  | .bwatch => .watchArrival
  | _ => .globalAccessAtSlice

/-! ### What ports and other devices are told -/

/-- What this device tells another of a branch that came from it: its end, by landing 1, refusal 2 or cancellation 3 (R254,
R261 to R263). -/
def State.tellBranch (s : State) (dev core slot how : Nat) : State :=
  s.sendLater (portTo dev) { vc := 1, dst := dev, pay := .branch core slot how }

/-- The key of a binding. -/
def bindKey (dev part : Nat) : Nat := dev * 2 ^ 16 + part

/-- The arrival that a reduction sends to the barrier object it names (R149), from the slice that performed it.  DEDUCED (log 175): it
keeps the reduction's own address, which a late record of its rejection names (R154). -/
def State.sendArrival (s : State) (r : Req) : State :=
  match r.obj with
  | none => s
  | some o =>
    let i := s.newId
    let q := { r with kind := .arrival, id := i, pa := o, width := 8, obj := none, remote := none, left := 0, reached := false }
    ({ s with reqs := SMap.put s.reqs i q }.useId).post (lsAcross (homeOf r.pa) (homeOf o)) .barrierArrival ⟨i, 0, 0, 0, []⟩

/-- An access of a core that came back to this device, whose own number it named: its place in the address space bound to the
partition of its sender, counted as a remote one, or cause 18, or 17 where its generation is stale (R117, R120, R389). -/
def State.ownPage (s : State) (core gen va need : Nat) : Except Nat (Nat × Nat × State) :=
  match SMap.find s.md.bindings (bindKey s.did (s.partNum (s.partOf core))) with
  | none => .error 18
  | some b =>
    if gen ≠ (s.space b.asid).gen then .error 17
    else match s.xlateWalk b.asid (va % 2 ^ 42) need with
      | .error _ => .error 18
      | .ok (pa, s) =>
        .ok (pa, b.asid, s.addCounts b.asid (va % 2 ^ 42 / 65536) (countOne (0, 0, 0) (need / 2 % 2 == 1) true))

/-- A request that came back to this device performs at its home slice, or ends with the cause (R117, R389). -/
def State.loopBack (s : State) (r : Req) : State :=
  match s.ownPage r.core r.gen r.va (match r.kind with | .load | .watch => 1 | .atomic _ => 3 | .wbk => 18 | _ => 2) with
  | .error k => s.answer r r.kind.returns 0 (some k)
  | .ok (pa, asid, s) =>
    let r := { r with pa := pa, remote := none, asid := asid, src := none, reached := true }
    ({ s with reqs := SMap.put s.reqs r.id r }).postAt s.now 0 r.kind.event ⟨r.id, 0, 0, 0, []⟩

/-- A request through the domain window (R117, R387, R389): it leaves through the port to its device, or ends with cause 18
where the port is down or goes down before the answer; the other device lies outside the machine, so whether it is reached,
whether it takes the generation, and what it answers are free. -/
def State.awayAnswer (s : State) (r : Req) : State :=
  let p := portTo (r.remote.getD 0)
  let again (s : State) (at_ : Nat) : State := s.postAt at_ 0 r.kind.event ⟨r.id, 0, 0, 0, []⟩
  if r.left = 2 ∨ (r.left = 0 ∧ (s.port p).down) then s.answer r r.kind.returns 0 (some 18)
  else if r.left = 0 then
    if !s.portRoom p 1 then again s (s.now + 1)
    else
      let s := s.sendFlit p { dst := r.remote.getD 0, pay := .request [r.id, r.va, r.width, r.gen, r.v, r.u] }
      (again { s with reqs := SMap.put s.reqs r.id { r with left := 1 } } (s.now + 1 + s.freeN 0)).renew
  else if r.remote = some s.did then s.loopBack r
  else
    let fault := if s.freeB 0 then some (if s.freeB 1 then 17 else 18) else none
    let s := s.answer r r.kind.returns (extend r.width r.signed (s.freeW 2).toNat) fault
    (match fault with | none => s.sendArrival r | some _ => s).renew

/-- The group that a context's writes are journalled for (R293). -/
def State.writer (s : State) (core : Nat) : Option (Nat × Nat) := s.groupKey core

/-- The gang of a core holds the facet that a byte lies in (R300). -/
def State.holdsFacet (s : State) (core pa : Nat) : Bool := s.gangHolds (s.core core).gang pa

/-- Why a slice rejects a request: a stale generation, or a facet its gang does not hold (R121, R300). -/
def State.rejects (s : State) (r : Req) : Option Nat :=
  if r.gen ≠ (s.space r.asid).gen then some 16
  else if facetBase ≤ r.pa ∧ !s.gangHolds (r.src.map (·.1)) r.pa then some 61
  else none

/-- R123: an access performs at the home slice of its line, or is rejected. -/
def State.sliceAccess (s : State) (id : Nat) : State :=
  match SMap.find s.reqs id with
  | none => s
  | some r =>
    if r.remote.isSome then s.awayAnswer r
    else match r.kind with
      | .pref => { s with reqs := SMap.del s.reqs id }
      | .load =>
        if (s.rejects r).isSome then s.answer r true 0 (s.rejects r)
        else s.answer r true (extend r.width r.signed (s.gread r.pa r.width)) none
      | .store =>
        if (s.rejects r).isSome then s.answer r false 0 (s.rejects r)
        else (s.gwrite r.src r.pa r.width r.v).answer r false 0 none
      | .wbk => s.answer r false 0 (s.rejects r)
      | _ => s

/-- R123: GLOBAL_ACCESS_AT_SLICE, for a request. -/
def execGlobalAccessAtSlice (s : State) : Res := .next (s.atSlice .globalAccessAtSlice State.sliceAccess s.ev.a)

/-- What a held request waits for has happened, its gang being on its cores: a release waits for the local accesses issued before
it too, those that a guarded range holds back among them (R133, R192, R341). -/
def State.mayDepart (s : State) (r : Req) : Bool :=
  let t := s.ctxAt r.core r.ctx
  (s.core r.core).gang == r.src.map (·.1) && r.waitLocal ≤ s.now
    && !(r.scope.isSome && (s.core r.core).sibBefore r.ctx r.at_)
    && r.waitsFor.all fun i => !(t.ld.any fun o => o.id == i) && !(t.stq.any fun o => o.id == i)

/-- R133: a held release leaves the network interface. -/
def State.depart (s : State) (id : Nat) : State :=
  match SMap.find s.reqs id with
  | none => { s with held := s.held.filter (· != id) }
  | some r =>
    if s.mayDepart r then
      ({ s with held := s.held.filter (· != id) }).post r.chan r.kind.event ⟨id, 0, 0, 0, []⟩
    else s

/-- R133: RELEASE_DEPART, for a held request. -/
def execReleaseDepart (s : State) : Res := .next (s.depart s.ev.a)

/-- A watch enters the table of its slice: 64 entries, the oldest woken where it is full (R140). -/
def State.watchAdd (s : State) (w : Watch) : State :=
  let sl := homeOf w.pa
  let ws := SMap.get [] s.watches sl
  match (if 64 ≤ ws.length then ws.head? else none) with
  | some old =>
    ({ s with watches := SMap.put s.watches sl (ws.drop 1 ++ [w]) }).wake old 0
  | none => { s with watches := SMap.put s.watches sl (ws ++ [w]) }

/-- R140, R153: a watch arrives: it wakes at once where the word differs from the operand (for a barrier object, where
the phase differs from bit 0 of it), else it is kept. -/
def State.watchArrives (s : State) (id : Nat) : State :=
  match SMap.find s.reqs id with
  | none => s
  | some r =>
    if r.remote.isSome then s.awayAnswer r
    else
      let s' := { s with reqs := SMap.del s.reqs id }
      if (s.rejects r).isSome then s.answer r true 0 (s.rejects r)
      else
        let m := s.gread r.pa 8
        match r.kind with
        | .bwatch =>
          if bitsOf m 48 1 ≠ r.v % 2 then s.answer r true 1 none
          else s'.watchAdd ⟨id, r.core, r.ctx, r.asid, r.pa, true, none⟩
        | _ =>
          if m ≠ r.v then s.answer r true 0 none
          else s'.watchAdd ⟨id, r.core, r.ctx, r.asid, r.pa, false, none⟩

/-- R140: WATCH_ARRIVAL, for a request. -/
def execWatchArrival (s : State) : Res := .next (s.atSlice .watchArrival State.watchArrives s.ev.a)

/-- A context waits for a result, or counts it (R72, R129). -/
def Ctx.expects (t : Ctx) (id : Nat) : Bool :=
  (t.pend.any fun p => p.id == id) || (t.ld.any fun o => o.id == id) || (t.stq.any fun o => o.id == id)
    || (match t.wait with | .arrival i => i == id | .watch i => i == id | _ => false)

/-- The switched-out gang that a response is for, if any (R341). -/
def State.absent (s : State) (core ctx id : Nat) : Option Nat :=
  (s.gangs.find? fun e => e.2.status == .out && e.2.saved.any fun k => k.1 == core && (k.2.ctx ctx).expects id).map (·.1)

/-- A response has arrived: the result is delivered, its counter falls, a wait on it ends, and a fault it carries
queues for the context (R68, R121, R129, R133).  A response that its context no longer expects is dropped. -/
def State.arriveNow (s : State) (core ctx id : Nat) : State :=
  let r := SMap.get {} s.resps id
  let known := (s.ctxAt core ctx).expects id
  let s := { s with resps := SMap.del s.resps id }
  if !known then s
  else
  let s := s.deliver core ctx id r.v
  let s := match r.also with | some (i, v) => s.deliver core ctx i v | none => s
  s.modCtx core ctx fun t =>
    let t := (t.uncount id).unwait id
    match r.fault with
    | some f => { t with late := t.late ++ [f] }
    | none => t

/-- The local writes that a response brings, before its result: of a context that still expects it (R227). -/
def State.landStore (s : State) (core ctx id : Nat) : State :=
  match (SMap.get {} s.resps id).store with
  | some (c, a, bs) => if (s.ctxAt core ctx).expects id then s.lputBytes c a bs else s
  | none => s

/-- The local writes of a response fall in a guarded range (R192). -/
def State.landGuarded (s : State) (id : Nat) : Bool :=
  match (SMap.get {} s.resps id).store with
  | some (c, a, bs) => s.guarded c a bs.length
  | none => false

/-- A result of a response belongs in the trap frame of its context, which lies in a guarded range (R192, R356). -/
def State.frameHeld (s : State) (core ctx id : Nat) : Bool :=
  let t := s.ctxAt core ctx
  let into (i : Nat) : Bool := t.pend.any fun p => p.id == i && (p.frSlot.isSome || p.frReg.isSome)
  (t.ih || t.rt) && (into id || (match (SMap.get {} s.resps id).also with | some (i, _) => into i | none => false))
    && s.guarded core t.frameAt 512

/-- A response for a switched-out gang waits in a holding buffer until it is back (R341, R343); one whose local writes are held
back waits for them (R192). -/
def State.arrive (s : State) (ev : Instr) (core ctx id : Nat) : State :=
  match s.absent core ctx id with
  | some g => s.modGang g fun v => { v with parked := v.parked ++ [⟨s.now, 0, ev, ⟨core, ctx, id, 0, []⟩⟩] }
  | none =>
    if s.landGuarded id || s.frameHeld core ctx id then s.postAt (s.now + 1) 0 ev ⟨core, ctx, id, 0, []⟩
    else (s.landStore core ctx id).arriveNow core ctx id

/-- R68: RESULT_ARRIVAL, for a core, a context and a result. -/
def execResultArrival (s : State) : Res := .next (s.arrive .resultArrival s.ev.a s.ev.b s.ev.c)

/-- R129: STORE_ACKNOWLEDGEMENT, for a core, a context and an access. -/
def execStoreAcknowledgement (s : State) : Res := .next (s.arrive .storeAcknowledgement s.ev.a s.ev.b s.ev.c)

end Sys2Proof.Machine
end

