-- ==== Sys2Proof/Machine/ScalarFloat.lean ====
section
/-! DEFINITION. Scalar floating point, conversion and block coding, majors 0x1B to 0x1D (R104, R108 to R112). -/
namespace Sys2Proof.Machine

/-- A code of FA or FB that names a float, or 0 (R104). -/
def floatOr0 (c : Nat) : Bool := c == 0 || c == 0x10 || c == 0x11 || c == 0x12
/-- A code of FD that names a float, or 0 (R104). -/
def dstFloatOr0 (c : Nat) : Bool := c == 0 || c == 9 || c == 10 || c == 11
/-- A block format code (R104). -/
def isBlock (c : Nat) : Bool := (0x22 ≤ c && c ≤ 0x28) || (0x32 ≤ c && c ≤ 0x38)

/-- The float format of a source code, `d` where it is 0. -/
def floatOf (c : Nat) (d : FFmt) : FFmt := match srcFmt c with | .float f => f | _ => d
/-- The float format of a destination code, `d` where it is 0. -/
def dstFloatOf (c : Nat) (d : FFmt) : FFmt := match dstFmt c with | .float f => f | _ => d

/-- The prefixes of the binary float operations and fma (R104). -/
def arithAccepts (p : Pfx) : Bool := floatOr0 p.fa && floatOr0 p.fb && dstFloatOr0 p.fd
/-- The prefixes of fsqrt. -/
def sqrtAccepts (p : Pfx) : Bool := floatOr0 p.fa && p.fb == 0 && dstFloatOr0 p.fd
/-- The prefixes of fneg, fclass and bxexp: FA alone, no rounding. -/
def quietAccepts (p : Pfx) : Bool := floatOr0 p.fa && p.fb == 0 && p.fd == 0 && p.ro == 0
/-- The prefixes of fcmp. -/
def fcmpAccepts (p : Pfx) : Bool := floatOr0 p.fa && floatOr0 p.fb && p.fd == 0 && p.ro == 0

/-- The three formats of an arithmetic instruction: a's, b's and the result's (R104). -/
def arithFmts (p : Pfx) : FFmt × FFmt × FFmt :=
  let fa := floatOf p.fa f32
  (fa, floatOf p.fb fa, dstFloatOf p.fd fa)

/-- A binary float operation of latency `L` (R108, R109). -/
def floatBinary (L : Nat) (f : FFmt → Nat → FVal → FVal → Flagged) (S : Stall) (d a b : Opnd) (s : State) : Res :=
  s.issue { takes := true, accepts := arithAccepts, reads := [a, b] } fun s =>
    let (fa, fb, fd) := arithFmts s.cur.pfx
    let (r, fl) := f fd s.cur.rm (fa.read (s.opn a)) (fb.read (s.opn b))
    s.op S d [a, b] L (word r) fl

/-- R109: fadd. -/
def execFadd (S : Stall) (d a b : Opnd) (s : State) : Res := floatBinary 4 FFmt.add S d a b s
/-- R109: fsub. -/
def execFsub (S : Stall) (d a b : Opnd) (s : State) : Res := floatBinary 4 FFmt.sub S d a b s
/-- R109: fmul. -/
def execFmul (S : Stall) (d a b : Opnd) (s : State) : Res := floatBinary 4 FFmt.mul S d a b s
/-- R109: fmin. -/
def execFmin (S : Stall) (d a b : Opnd) (s : State) : Res := floatBinary 2 FFmt.min S d a b s
/-- R109: fmax. -/
def execFmax (S : Stall) (d a b : Opnd) (s : State) : Res := floatBinary 2 FFmt.max S d a b s

/-- The divide-root unit of the core is taken for 18 cycles (R108). -/
def State.takeRoot (s : State) : State := s.modCurCore fun k => { k with rootAt := s.now + 18 }
def State.rootFree (s : State) : Bool := s.curCore.rootAt ≤ s.now

/-- R109: fdiv, on the divide-root unit. -/
def execFdiv (S : Stall) (d a b : Opnd) (s : State) : Res :=
  s.issue { takes := true, accepts := arithAccepts, reads := [a, b], ready := s.rootFree } fun s =>
    let (fa, fb, fd) := arithFmts s.cur.pfx
    let (r, fl) := fd.div s.cur.rm (fa.read (s.opn a)) (fb.read (s.opn b))
    s.takeRoot.op S d [a, b] 18 (word r) fl

/-- R109: fsqrt, on the divide-root unit. -/
def execFsqrt (S : Stall) (d a : Opnd) (s : State) : Res :=
  s.issue { takes := true, accepts := sqrtAccepts, reads := [a], ready := s.rootFree } fun s =>
    let (fa, _, fd) := arithFmts s.cur.pfx
    let (r, fl) := fd.sqrt s.cur.rm (fa.read (s.opn a))
    s.takeRoot.op S d [a] 18 (word r) fl

/-- R109: fneg: the sign bit inverted, in FA's format; a NaN keeps its payload. -/
def execFneg (S : Stall) (d a : Opnd) (s : State) : Res :=
  s.issue { takes := true, accepts := quietAccepts, reads := [a] } fun s =>
    let f := floatOf s.cur.pfx.fa f32
    s.op S d [a] 1 (word ((s.opn a % 2 ^ f.width) ^^^ 2 ^ (f.width - 1))) 0

/-- R109: fclass. -/
def execFclass (S : Stall) (d a : Opnd) (s : State) : Res :=
  s.issue { takes := true, accepts := quietAccepts, reads := [a] } fun s =>
    s.op S d [a] 1 (word ((floatOf s.cur.pfx.fa f32).classMask (s.opn a))) 0

/-- R109: fma: a times b plus q1, q1 in the result format, one rounding. -/
def execFma (S : Stall) (d a b : Opnd) (s : State) : Res :=
  s.issue { takes := true, accepts := arithAccepts, reads := [a, b, q1] } fun s =>
    let (fa, fb, fd) := arithFmts s.cur.pfx
    let (r, fl) := fd.fma s.cur.rm (fa.read (s.opn a)) (fb.read (s.opn b)) (fd.read (s.opn q1))
    s.op S d [a, b] 4 (word r) fl

/-- R110: fcmp: 1 where the condition holds, else 0. -/
def execFcmp (S : Stall) (d a b : Opnd) (c : BitVec 4) (s : State) : Res :=
  s.issue { takes := true, accepts := fcmpAccepts, reads := [a, b] } fun s =>
    let (fa, fb, _) := arithFmts s.cur.pfx
    let (r, fl) := fcmpCond c.toNat (fa.read (s.opn a)) (fb.read (s.opn b))
    s.op S d [a, b] 2 (boolWord r) fl

/-- The prefixes of cvt: FA an integer or a float, FD 0x1 to 0xB (R104). -/
def cvtAccepts (p : Pfx) : Bool := (p.fa ≤ 8 || floatOr0 p.fa) && p.fb == 0 && p.fd ≤ 11

/-- The conversion of a value between two formats (R111). -/
def convert (src dst : Fmt) (rm n : Nat) : Word × Nat :=
  match src, dst with
  | .float f, .int g => g.ofFloat rm (f.read n)
  | .float f, .float g => let (r, fl) := g.write rm (f.read n); (word r, fl)
  | .int f, .int g => (g.write (f.read n), 0)
  | .int f, .float g => let (r, fl) := g.write rm (FVal.ofInt (f.read n)); (word r, fl)
  | _, _ => (word n, 0)

/-- R111: cvt. -/
def execCvt (S : Stall) (d a : Opnd) (s : State) : Res :=
  s.issue { takes := true, accepts := cvtAccepts, reads := [a] } fun s =>
    let p := s.cur.pfx
    let src := if p.fa = 0 then Fmt.int ⟨64, true⟩ else srcFmt p.fa
    let dst := if p.fd = 0 then Fmt.float f32 else dstFmt p.fd
    let (r, fl) := convert src dst s.cur.rm (s.opn a)
    s.op S d [a] 2 r fl

/-- The prefixes of bxenc: FA a float, FB a block (R104). -/
def bxencAccepts (p : Pfx) : Bool := floatOr0 p.fa && (p.fb == 0 || isBlock p.fb) && p.fd == 0
/-- The prefixes of bxdec: FA a block, FD a float (R104). -/
def bxdecAccepts (p : Pfx) : Bool := (p.fa == 0 || isBlock p.fa) && p.fb == 0 && dstFloatOr0 p.fd

/-- Width of a block code, 8 where it is 0 (R104). -/
def blockOr8 (c : Nat) : Nat := if c = 0 then 8 else c % 16

/-- R112: bxenc: one element encoded against an exponent; RTZ by RO 2 alone (R101).  DESIGN CHOICE (log 173): the reserved RO of 3 counts
as 0. -/
def execBxenc (S : Stall) (d a b : Opnd) (s : State) : Res :=
  s.issue { takes := true, accepts := bxencAccepts, reads := [a, b] } fun s =>
    let p := s.cur.pfx
    let (m, fl) := encElem ((floatOf p.fa f32).read (s.opn a)) (s.opn b % 256) (blockOr8 p.fb) (if p.ro = 2 then 1 else 0)
    s.op S d [a, b] 2 (iword m) fl

/-- R112: bxdec: a mantissa decoded against an exponent, rounded to FD. -/
def execBxdec (S : Stall) (d a b : Opnd) (s : State) : Res :=
  s.issue { takes := true, accepts := bxdecAccepts, reads := [a, b] } fun s =>
    let p := s.cur.pfx
    let w := blockOr8 p.fa
    let (r, fl) := (dstFloatOf p.fd f32).write s.cur.rm (decElem (sgn w (s.opn a)) (s.opn b % 256) w)
    s.op S d [a, b] 2 (word r) fl

/-- R112: bxexp: the block exponent of one value. -/
def execBxexp (S : Stall) (d a : Opnd) (s : State) : Res :=
  s.issue { takes := true, accepts := quietAccepts, reads := [a] } fun s =>
    s.op S d [a] 2 (word (blockExp [(floatOf s.cur.pfx.fa f32).read (s.opn a)])) 0

end Sys2Proof.Machine
end

