-- ==== Sys2Proof/Machine/Vector.lean ====
section
/-! DEFINITION. The shared vector unit (R156 to R181): the entries of a core's queue, the lane groups that begin them,
their arbitration and gathering points, late faults, retirement, and the vector instructions. -/
namespace Sys2Proof.Machine

/-! ### Registers (R32, R156) -/

/-- The index register that a vector code names, if it is an indirect one (R32). -/
def vIndex (c : Opnd) : Option Nat := if c.toNat < 48 then none else some (c.toNat % 8)
/-- A code with post-increment (R32). -/
def vPost (c : Opnd) : Bool := 56 ≤ c.toNat

/-- The register number that a code names in a lane (R32). -/
def VecState.num (v : VecState) (c : Opnd) (lane : Nat) : Nat :=
  match vIndex c with
  | none => c.toNat
  | some k => (SMap.get 0 v.ix (8 * lane + k)).toNat

/-- The register after the one a code names: the second of a pair of vdot4 (R173). -/
def VecState.numNext (v : VecState) (c : Opnd) (lane : Nat) : Nat := (v.num c lane + 1) % 64

def VecState.rd (v : VecState) (lane r : Nat) : Nat := (SMap.get 0 v.v (64 * lane + r)).toNat
def VecState.wr (v : VecState) (lane r n : Nat) : VecState :=
  { v with v := SMap.set 0 v.v (64 * lane + r) (BitVec.ofNat 32 n) }
def VecState.wrIx (v : VecState) (lane k n : Nat) : VecState :=
  { v with ix := SMap.set 0 v.ix (8 * lane + k) (BitVec.ofNat 6 n) }

/-- Register `r` of a group is ready from a cycle on; numbers from 64 on are the index registers (R159, R167). -/
def VecState.readyAt (v : VecState) (g r : Nat) : Nat := SMap.get 0 v.ready (72 * g + r)
def VecState.setReady (v : VecState) (g r t : Nat) : VecState := { v with ready := SMap.set 0 v.ready (72 * g + r) t }

/-- The active lanes of an entry in a group (R157). -/
def groupLanes (vl g : Nat) : List Nat := ((List.range 16).map (16 * g + ·)).filter (· < vl)

/-! ### What an entry reads and writes -/

/-- The vector fields of an instruction: the destination it writes, and the sources it reads, each with whether the next
register belongs to it (R168 to R181). -/
structure VUse where
  dst : Option Opnd := none
  src : List (Opnd × Bool) := []
  deriving DecidableEq, Repr

/-- The float forms of vdot4 read register pairs (R173). -/
def dotFloat (fa : Nat) : Bool := fa == 0x10 || fa == 0x11

/-- A binary form: vb is a vector source where BS is 0 (R33). -/
def binUse (d a b : Opnd) (k : BitVec 1) (old : Bool) : VUse :=
  ⟨some d, (a, false) :: (if k = 0 then [(b, false)] else []) ++ (if old then [(d, false)] else [])⟩

/-- The vector fields of an entry. -/
def vUse (i : Instr) (fa : Nat) : VUse :=
  match i with
  | .vadd _ d a b k | .vsub _ d a b k | .vmul _ d a b k | .vmin _ d a b k | .vmax _ d a b k | .vand _ d a b k
  | .vor _ d a b k | .vxor _ d a b k | .vshl _ d a b k | .vshr _ d a b k | .vsar _ d a b k | .vcmp _ d a b k _
  | .vperm _ d a b k => binUse d a b k false
  | .vfma _ d a b k | .vsel _ d a b k => binUse d a b k true
  | .vabs _ d a | .vneg _ d a | .vcvt _ d a | .vrcp _ d a | .vrsqrt _ d a | .vexp2 _ d a => ⟨some d, [(a, false)]⟩
  | .vbcast _ d _ => ⟨some d, []⟩
  | .vred _ d a _ _ | .vscan _ d a _ _ => ⟨some d, [(a, false)]⟩
  | .vdot4 _ d a b => ⟨some d, [(a, dotFloat fa), (b, dotFloat fa), (d, false)]⟩
  | .vld _ d _ _ _ _ => ⟨some d, []⟩
  | .vst _ d _ _ _ _ => ⟨none, [(d, false)]⟩
  | .vldx _ d a _ => ⟨some d, [(a, false)]⟩
  | .vstx _ d a _ => ⟨none, [(a, false), (d, false)]⟩
  | .vidx _ a _ k _ => ⟨none, if k = 0 then [(a, false)] else []⟩
  | .vmovsWrite _ d _ _ => ⟨some d, []⟩
  | .vmovsRead _ _ a _ => ⟨none, [(a, false)]⟩
  | _ => {}

/-- Every vector code that an entry names. -/
def VUse.codes (u : VUse) : List Opnd := u.dst.toList ++ u.src.map (·.1)
/-- The index registers that an entry reads. -/
def VUse.indexes (u : VUse) : List Nat := u.codes.filterMap vIndex
/-- The index registers that an entry post-increments, each once (R32). -/
def VUse.posts (u : VUse) : List Nat := ((u.codes.filter vPost).filterMap vIndex).eraseDups

/-- The memory entries, and those that store (R177, R178). -/
def vMem : Instr → Bool
  | .vld _ _ _ _ _ _ | .vst _ _ _ _ _ _ | .vldx _ _ _ _ | .vstx _ _ _ _ => true
  | _ => false
def vStore : Instr → Bool
  | .vst _ _ _ _ _ _ | .vstx _ _ _ _ => true
  | _ => false
/-- The gathering points (R161). -/
def vGather : Instr → Bool
  | .vperm _ _ _ _ _ | .vred _ _ _ _ _ | .vscan _ _ _ _ _ => true
  | _ => false
/-- The entries under the residue check (R164). -/
def vResidue : Instr → Bool
  | .vadd _ _ _ _ _ | .vsub _ _ _ _ _ | .vmul _ _ _ _ _ | .vfma _ _ _ _ _ | .vdot4 _ _ _ _ | .vred _ _ _ _ _
  | .vscan _ _ _ _ _ => true
  | _ => false

/-- Occupancy and latency of an entry that is no memory entry (R167). -/
def vTimes (i : Instr) (fa : Nat) : Nat × Nat :=
  match i with
  | .vmul _ _ _ _ _ | .vfma _ _ _ _ _ | .vdot4 _ _ _ _ | .vcvt _ _ _ | .vperm _ _ _ _ _ => (1, 4)
  | .vadd _ _ _ _ _ | .vsub _ _ _ _ _ | .vmin _ _ _ _ _ | .vmax _ _ _ _ _ | .vabs _ _ _ | .vneg _ _ _
  | .vcmp _ _ _ _ _ _ => (1, if fa = 0x12 then 4 else 2)
  | .vrcp _ _ _ | .vrsqrt _ _ _ | .vexp2 _ _ _ => (2, 8)
  | .vred _ _ _ _ _ => (1, 10)
  | .vscan _ _ _ _ _ => (1, 18)
  | _ => (1, 2)

/-! ### What a lane computes (R169 to R176) -/

/-- A lane's integer of i32, or of c32. -/
def laneInt (fa n : Nat) : Int := if fa = 7 then ((n % 2 ^ 32 : Nat) : Int) else sgn 32 n

/-- The lesser of two lanes, or the greater (R169). -/
def laneMin (fa a b : Nat) : Nat := if laneInt fa a ≤ laneInt fa b then a else b
def laneMax (fa a b : Nat) : Nat := if laneInt fa a ≤ laneInt fa b then b else a

/-- The integer conditions of vcmp by VM (R172). -/
def laneCond (m a b : Nat) : Bool :=
  match m with
  | 0 => a == b
  | 1 => a != b
  | 2 => sgn 32 a < sgn 32 b
  | 3 => a < b
  | 4 => sgn 32 a ≤ sgn 32 b
  | _ => a ≤ b

/-- The conditions of fcmp that a VM of vcmp names (R110, R172). -/
def floatCond (m : Nat) : Nat := match m with | 0 => 0 | 1 => 1 | 2 => 2 | 4 => 3 | _ => 4

/-- A quiet sign change of a float lane: a NaN gives the canonical NaN (R170). -/
def laneSign (f : Bool → Bool) (v : FVal) : Flagged :=
  match v with
  | .nan q => (f32.nan, if q then flagNV else 0)
  | .inf n => (f32.infinity (f n), 0)
  | .fin n m e => f32.write 0 (.fin (f n) m e)

/-- The reciprocal (R170). -/
def laneRcp (rm : Nat) (v : FVal) : Flagged := f32.div rm (.fin false 1 0) v

/-- The reciprocal square root (R170): an exact quotient's root, one rounding. -/
def laneRsqrt (rm : Nat) (v : FVal) : Flagged :=
  match v with
  | .nan q => (f32.nan, if q then flagNV else 0)
  | .inf n => if n then (f32.nan, flagNV) else (f32.zero false, 0)
  | .fin n m e =>
    if m = 0 then (f32.infinity n, flagDZ)
    else if n then (f32.nan, flagNV)
    else
      let (m, e) := if e % 2 = 0 then (m, e) else (2 * m, e - 1)
      let r := isqrt (2 ^ 256 / m)
      f32.round rm false r (-(e / 2) - 128) (r * r * m != 2 ^ 256)

/-- 2 to the power of a fraction of `n` bits, with 256 bits below the point, by square roots from the last bit up. -/
def exp2Frac : Nat → Nat → Nat
  | 0, _ => 2 ^ 256
  | n + 1, f => isqrt (exp2Frac n (f % 2 ^ n) * 2 ^ (256 + f / 2 ^ n % 2))

/-- The power of two (R170): exact for a whole exponent, else rounded once from 256 bits. -/
def laneExp2 (rm : Nat) (v : FVal) : Flagged :=
  match v with
  | .nan q => (f32.nan, if q then flagNV else 0)
  | .inf n => (if n then f32.zero false else f32.infinity false, 0)
  | .fin n m e =>
    if m = 0 then f32.write rm (.fin false 1 0)
    else if 10 ≤ (bitLen m : Int) - 1 + e then
      f32.round rm false 1 (if n then -1024 else 1024) true
    else if 0 ≤ e then
      f32.round rm false 1 ((if n then -1 else 1) * ((m * 2 ^ e.toNat : Nat) : Int)) false
    else
      let sh := (-e).toNat
      let z : Int := (if n then -1 else 1) * (m : Int)
      let k := z / (2 : Int) ^ sh
      let fr := (z % (2 : Int) ^ sh).toNat
      if fr = 0 then f32.round rm false 1 k false
      else f32.round rm false (exp2Frac sh fr) (k - 256) true

/-- Some value of a list is an infinity of a sign. -/
def anyInf (neg : Bool) (vs : List FVal) : Bool := vs.any fun v => v == .inf neg

/-- The exact sum of finite values, as an integer multiple of the least of their powers of two. -/
def sumFin : List FVal → Int × Int
  | [] => (0, 0)
  | .fin n m e :: vs =>
    let (z, q) := sumFin vs
    let x : Int := if n then -(m : Int) else (m : Int)
    if z = 0 then (x, e)
    else if m = 0 then (z, q)
    else
      let p := min e q
      (x * (2 : Int) ^ (e - p).toNat + z * (2 : Int) ^ (q - p).toNat, p)
  | _ :: vs => sumFin vs

/-- The exact sum of several values, none where it is invalid; an exact zero keeps a common sign (R107, R109). -/
def sumExact (rm : Nat) (vs : List FVal) : Option FVal :=
  if vs.any FVal.isNan then some (.nan false)
  else if anyInf true vs && anyInf false vs then none
  else if anyInf true vs then some (.inf true)
  else if anyInf false vs then some (.inf false)
  else
    let (z, q) := sumFin vs
    if z = 0 then
      some (.fin (if vs.all FVal.negative then true else if vs.all (fun v => !v.negative) then false else rm == 2) 0 0)
    else some (.fin (decide (z < 0)) z.natAbs q)

/-- The products of two lists of values, none where one is zero times infinity. -/
def products : List FVal → List FVal → Option (List FVal)
  | a :: as, b :: bs =>
    match a.mul b, products as bs with
    | some p, some ps => some (p :: ps)
    | _, _ => none
  | _, _ => some []

/-- The four-element dot product of a float form (R107, R173). -/
def dotF (rm : Nat) (xs ys : List FVal) (acc : FVal) : Flagged :=
  match products xs ys with
  | none => (f32.nan, flagNV)
  | some ps => f32.result rm (nvOf (xs ++ ys ++ [acc])) (sumExact rm (ps ++ [acc]))

/-- The two elements of a register, low first (R173). -/
def halves (f : FFmt) (n : Nat) : List FVal := [f.read (bitsOf n 0 16), f.read (bitsOf n 16 16)]

/-- The sum of the products of the four bytes of two lanes (R173). -/
def dotI (f : IFmt) (a b : Nat) : Int :=
  f.read (bitsOf a 0 8) * f.read (bitsOf b 0 8) + f.read (bitsOf a 8 8) * f.read (bitsOf b 8 8)
    + f.read (bitsOf a 16 8) * f.read (bitsOf b 16 8) + f.read (bitsOf a 24 8) * f.read (bitsOf b 24 8)

/-- A binary operation: the integer result, or that of the float format where FA is f32 (R169). -/
def laneBin (fa rm : Nat) (i : Nat → Nat → Nat) (f : FFmt → Nat → FVal → FVal → Flagged) (a b : Nat) : Flagged :=
  if fa = 0x12 then f f32 rm (f32.read a) (f32.read b) else (i a b % 2 ^ 32, 0)

/-- One step of a reduction or a scan by VM: add, min, max, and, or, xor (R176). -/
def laneStep (m fa rm a b : Nat) : Flagged :=
  match m with
  | 0 => laneBin fa rm (· + ·) FFmt.add a b
  | 1 => laneBin fa rm (laneMin fa) FFmt.min a b
  | 2 => laneBin fa rm (laneMax fa) FFmt.max a b
  | 3 => (a &&& b, 0)
  | 4 => (a ||| b, 0)
  | _ => (a ^^^ b, 0)

/-- What an elementwise entry writes to a lane, from the lane's a, b and old value and the second registers of a pair
(R169 to R174). -/
def laneOp (i : Instr) (fa fd rm a b old a2 b2 : Nat) : Flagged :=
  match i with
  | .vadd _ _ _ _ _ => laneBin fa rm (· + ·) FFmt.add a b
  | .vsub _ _ _ _ _ => laneBin fa rm (fun a b => 2 ^ 32 + a - b) FFmt.sub a b
  | .vmul _ _ _ _ _ => laneBin fa rm (· * ·) FFmt.mul a b
  | .vfma _ _ _ _ _ =>
    if fa = 0x12 then f32.fma rm (f32.read a) (f32.read b) (f32.read old) else ((a * b + old) % 2 ^ 32, 0)
  | .vmin _ _ _ _ _ => laneBin fa rm (laneMin fa) FFmt.min a b
  | .vmax _ _ _ _ _ => laneBin fa rm (laneMax fa) FFmt.max a b
  | .vabs _ _ _ =>
    if fa = 0x12 then laneSign (fun _ => false) (f32.read a) else ((laneInt fa a).natAbs % 2 ^ 32, 0)
  | .vneg _ _ _ => if fa = 0x12 then laneSign (!·) (f32.read a) else ((2 ^ 32 - a) % 2 ^ 32, 0)
  | .vand _ _ _ _ _ => (a &&& b, 0)
  | .vor _ _ _ _ _ => (a ||| b, 0)
  | .vxor _ _ _ _ _ => (a ^^^ b, 0)
  | .vshl _ _ _ _ _ => (a * 2 ^ (b % 32) % 2 ^ 32, 0)
  | .vshr _ _ _ _ _ => (a / 2 ^ (b % 32), 0)
  | .vsar _ _ _ _ _ => (wrapNat 32 (sgn 32 a / (2 : Int) ^ (b % 32)), 0)
  | .vcmp _ _ _ _ _ m =>
    if fa = 0x12 then
      let (r, fl) := fcmpCond (floatCond m.toNat) (f32.read a) (f32.read b)
      (b2n r, fl)
    else (b2n (laneCond m.toNat a b), 0)
  | .vsel _ _ _ _ _ => (if old ≠ 0 then a else b, 0)
  | .vcvt _ _ _ =>
    let src := if fa = 0 then Fmt.int ⟨32, true⟩ else srcFmt fa
    let dst := if fd = 0 then Fmt.float f32 else dstFmt fd
    let (r, fl) := convert src dst rm a
    (r.toNat % 2 ^ 32, fl)
  | .vbcast _ _ _ => (b, 0)
  | .vrcp _ _ _ => laneRcp rm (f32.read a)
  | .vrsqrt _ _ _ => laneRsqrt rm (f32.read a)
  | .vexp2 _ _ _ => laneExp2 rm (f32.read a)
  | .vdot4 _ _ _ _ =>
    match srcFmt fa with
    | .float f => dotF rm (halves f a ++ halves f a2) (halves f b ++ halves f b2) (f32.read old)
    | .int f => (wrapNat 32 ((old : Int) + dotI f a b), 0)
    | _ => (wrapNat 32 ((old : Int) + dotI ⟨8, true⟩ a b), 0)
  | _ => (old, 0)

/-- The results of a binary reduction tree, one level (R107). -/
def treeLevel (op : Nat → Nat → Flagged) : List Nat → List Nat × Nat
  | a :: b :: xs =>
    let (r, fl) := op a b
    let (rs, fs) := treeLevel op xs
    (r :: rs, fl ||| fs)
  | xs => (xs, 0)

/-- tree of R107, by fuel: seven levels reduce 128 lanes. -/
def tree (op : Nat → Nat → Flagged) : Nat → List Nat → Nat × Nat
  | 0, xs => (xs.headD 0, 0)
  | n + 1, xs =>
    let (ys, fl) := treeLevel op xs
    let (r, fs) := tree op n ys
    (r, fl ||| fs)

/-- The ascending scan of R107. -/
def scan (op : Nat → Nat → Flagged) (z : Nat) : List Nat → List Nat × Nat
  | [] => ([], 0)
  | x :: xs =>
    let (r, fl) := op z x
    let (rs, fs) := scan op r xs
    (r :: rs, fl ||| fs)

/-- What a gathering entry writes to lanes 0 up, from its source lanes (R175, R176). -/
def gatherOp (i : Instr) (fa rm : Nat) (s2 : Word) (as idx : List Nat) : List Nat × Nat :=
  let n := as.length
  match i with
  | .vperm _ _ _ _ k =>
    if k = 0 then (idx.map fun j => as.getD (j % n) 0, 0)
    else ((List.range n).map fun j => as.getD ((j + s2.toNat) % n) 0, 0)
  | .vred _ _ _ _ m =>
    let (r, fl) := tree (laneStep m.toNat fa rm) 7 as
    (List.replicate n r, fl)
  | .vscan _ _ _ _ m =>
    match as with
    | [] => ([], 0)
    | a :: as =>
      let (rs, fl) := scan (laneStep m.toNat fa rm) a as
      (a :: rs, fl)
  | _ => (as, 0)

/-! ### Appending an entry (R158) -/

/-- The core's vector queue has room (R158). -/
def State.vroom (s : State) : Bool := s.curCore.vec.q.length < 16

/-- Append an entry of the current context: what it captures, its sequence number, and vqc. -/
def State.vpush (s : State) (i : Instr) (s1 s2 : Word) (id : Nat) : State :=
  let t := s.cur
  let e : VEntry := { seq := t.seqn, ctx := s.cx, ins := i, s1 := s1, s2 := s2, fa := t.pfx.fa, fd := t.pfx.fd, rm := t.rm,
                      vl := t.vl, at_ := s.now, after := t.localAt, id := id }
  let s := s.modCur fun t => { t.dispatch with vqc := t.vqc + 1 }
  s.modCurCore fun k => { k with vec := { k.vec with q := k.vec.q ++ [e] } }

/-- The course of a vector instruction that only queues an entry: `rs` are the scalar operands it captures, the first as
the base or index and the last as vb. -/
def vector (i : Instr) (S : Stall) (takes : Bool) (accepts : Pfx → Bool) (s1 s2 : Option Opnd) (s : State) : Res :=
  s.issue { takes := takes, accepts := accepts, reads := s1.toList ++ s2.toList, ready := s.vroom } fun s =>
    (s.vpush i ((s1.map s.opnd).getD 0) ((s2.map s.opnd).getD 0) 0).finish S

/-- vb as a scalar operand where BS is 1 (R33). -/
def bs (b : Opnd) (k : BitVec 1) : Option Opnd := if k = 1 then some b else none

/-- A format field, with the code that 0 means (R168). -/
def fmtOr (f d : Nat) : Nat := if f = 0 then d else f
/-- The prefixes of the arithmetic entries: i32, c32 or f32, RO only on a float form (R168). -/
def vArith (p : Pfx) : Bool :=
  (p.fa == 0 || p.fa == 3 || p.fa == 7 || p.fa == 0x12) && (p.fb == 0 || p.fb == fmtOr p.fa 3) && p.fd == 0
    && (p.ro == 0 || p.fa == 0x12)
/-- The prefixes of vrcp, vrsqrt and vexp2. -/
def vFloat1 (p : Pfx) : Bool := (p.fa == 0 || p.fa == 0x12) && p.fb == 0 && p.fd == 0
/-- The prefixes of vcvt: a conversion between integers is an integer form. -/
def vConv (p : Pfx) : Bool :=
  let ifa := p.fa == 0 || p.fa == 1 || p.fa == 2 || p.fa == 3 || p.fa == 5 || p.fa == 6 || p.fa == 7
  let ifd := p.fd == 1 || p.fd == 2 || p.fd == 3 || p.fd == 5 || p.fd == 6 || p.fd == 7
  (ifa || p.fa == 0x10 || p.fa == 0x11 || p.fa == 0x12) && p.fb == 0
    && (ifd || p.fd == 0 || p.fd == 9 || p.fd == 10 || p.fd == 11) && (p.ro == 0 || !(ifa && ifd))
/-- The prefixes of vdot4. -/
def vDot (p : Pfx) : Bool :=
  (p.fa == 0 || p.fa == 1 || p.fa == 5 || p.fa == 0x10 || p.fa == 0x11) && (p.fb == 0 || p.fb == fmtOr p.fa 1) && p.fd == 0
    && (p.ro == 0 || dotFloat p.fa)
/-- The prefixes of vcmp: .ltc and .lec are integer conditions, .un a float one (R172). -/
def vCompare (m : Nat) (p : Pfx) : Bool :=
  vArith p && (if p.fa == 0x12 then m != 3 && m != 5 else m != 6)
/-- The prefixes of vred and vscan: and, or and xor take no float (R176). -/
def vReduce (m : Nat) (p : Pfx) : Bool := vArith p && (p.fa != 0x12 || m < 3)

/-! ### The instructions (R169 to R181) -/

/-- R169: vadd. -/
def execVadd (S : Stall) (d a b : Opnd) (k : BitVec 1) (s : State) : Res :=
  vector (.vadd S d a b k) S true vArith none (bs b k) s
/-- R169: vsub. -/
def execVsub (S : Stall) (d a b : Opnd) (k : BitVec 1) (s : State) : Res :=
  vector (.vsub S d a b k) S true vArith none (bs b k) s
/-- R169: vmul. -/
def execVmul (S : Stall) (d a b : Opnd) (k : BitVec 1) (s : State) : Res :=
  vector (.vmul S d a b k) S true vArith none (bs b k) s
/-- R169: vfma. -/
def execVfma (S : Stall) (d a b : Opnd) (k : BitVec 1) (s : State) : Res :=
  vector (.vfma S d a b k) S true vArith none (bs b k) s
/-- R169: vmin. -/
def execVmin (S : Stall) (d a b : Opnd) (k : BitVec 1) (s : State) : Res :=
  vector (.vmin S d a b k) S true vArith none (bs b k) s
/-- R169: vmax. -/
def execVmax (S : Stall) (d a b : Opnd) (k : BitVec 1) (s : State) : Res :=
  vector (.vmax S d a b k) S true vArith none (bs b k) s
/-- R170: vabs. -/
def execVabs (S : Stall) (d a : Opnd) (s : State) : Res := vector (.vabs S d a) S true vArith none none s
/-- R170: vneg. -/
def execVneg (S : Stall) (d a : Opnd) (s : State) : Res := vector (.vneg S d a) S true vArith none none s
/-- R169: vand. -/
def execVand (S : Stall) (d a b : Opnd) (k : BitVec 1) (s : State) : Res :=
  vector (.vand S d a b k) S false noFormat none (bs b k) s
/-- R169: vor. -/
def execVor (S : Stall) (d a b : Opnd) (k : BitVec 1) (s : State) : Res :=
  vector (.vor S d a b k) S false noFormat none (bs b k) s
/-- R169: vxor. -/
def execVxor (S : Stall) (d a b : Opnd) (k : BitVec 1) (s : State) : Res :=
  vector (.vxor S d a b k) S false noFormat none (bs b k) s
/-- R169: vshl. -/
def execVshl (S : Stall) (d a b : Opnd) (k : BitVec 1) (s : State) : Res :=
  vector (.vshl S d a b k) S false noFormat none (bs b k) s
/-- R169: vshr. -/
def execVshr (S : Stall) (d a b : Opnd) (k : BitVec 1) (s : State) : Res :=
  vector (.vshr S d a b k) S false noFormat none (bs b k) s
/-- R169: vsar. -/
def execVsar (S : Stall) (d a b : Opnd) (k : BitVec 1) (s : State) : Res :=
  vector (.vsar S d a b k) S false noFormat none (bs b k) s
/-- R172: vcmp. -/
def execVcmp (S : Stall) (d a b : Opnd) (k : BitVec 1) (m : BitVec 3) (s : State) : Res :=
  vector (.vcmp S d a b k m) S true (vCompare m.toNat) none (bs b k) s
/-- R169: vsel. -/
def execVsel (S : Stall) (d a b : Opnd) (k : BitVec 1) (s : State) : Res :=
  vector (.vsel S d a b k) S false noFormat none (bs b k) s
/-- R171: vcvt. -/
def execVcvt (S : Stall) (d a : Opnd) (s : State) : Res := vector (.vcvt S d a) S true vConv none none s
/-- R175: vperm. -/
def execVperm (S : Stall) (d a b : Opnd) (k : BitVec 1) (s : State) : Res :=
  vector (.vperm S d a b k) S false noFormat none (bs b k) s
/-- R174: vbcast. -/
def execVbcast (S : Stall) (d b : Opnd) (s : State) : Res := vector (.vbcast S d b) S false noFormat none (some b) s
/-- R176: vred. -/
def execVred (S : Stall) (d a b : Opnd) (m : BitVec 3) (s : State) : Res :=
  vector (.vred S d a b m) S true (vReduce m.toNat) none none s
/-- R176: vscan. -/
def execVscan (S : Stall) (d a b : Opnd) (m : BitVec 3) (s : State) : Res :=
  vector (.vscan S d a b m) S true (vReduce m.toNat) none none s
/-- R177: vld: base and stride are captured. -/
def execVld (S : Stall) (d a b : Opnd) (k : BitVec 1) (m : BitVec 3) (s : State) : Res :=
  vector (.vld S d a b k m) S false noFormat (some a) (bs b k) s
/-- R177: vst. -/
def execVst (S : Stall) (d a b : Opnd) (k : BitVec 1) (m : BitVec 3) (s : State) : Res :=
  vector (.vst S d a b k m) S false noFormat (some a) (bs b k) s
/-- R178: vldx: the base is captured. -/
def execVldx (S : Stall) (d a b : Opnd) (s : State) : Res := vector (.vldx S d a b) S false noFormat none (some b) s
/-- R178: vstx. -/
def execVstx (S : Stall) (d a b : Opnd) (s : State) : Res := vector (.vstx S d a b) S false noFormat none (some b) s
/-- R179: vidx. -/
def execVidx (S : Stall) (a b : Opnd) (k : BitVec 1) (m : BitVec 3) (s : State) : Res :=
  vector (.vidx S a b k m) S false noFormat none (bs b k) s
/-- R170: vrcp. -/
def execVrcp (S : Stall) (d a : Opnd) (s : State) : Res := vector (.vrcp S d a) S true vFloat1 none none s
/-- R170: vrsqrt. -/
def execVrsqrt (S : Stall) (d a : Opnd) (s : State) : Res := vector (.vrsqrt S d a) S true vFloat1 none none s
/-- R170: vexp2. -/
def execVexp2 (S : Stall) (d a : Opnd) (s : State) : Res := vector (.vexp2 S d a) S true vFloat1 none none s

/-- R173: vdot4; a direct code 47 in a float form is illegal with cause 5. -/
def execVdot4 (S : Stall) (d a b : Opnd) (s : State) : Res :=
  if dotFloat s.cur.pfx.fa && (a == 47 || b == 47) then .next (s.illegalHalt 5 s.code)
  else vector (.vdot4 S d a b) S true vDot none none s

/-- VL as vsetvl sets it (R180). -/
def roundVl (n : Nat) : Nat := if 128 ≤ n then 128 else Nat.max 16 (16 * ((n + 15) / 16))

/-- R180: vsetvl: in the scalar pipeline, latency 1. -/
def execVsetvl (S : Stall) (d a : Opnd) (s : State) : Res :=
  s.issue { reads := [a] } fun s =>
    let n := roundVl (s.opn a)
    (s.modCur fun t => { t with vl := n }).opOwn S d 1 (word n)

/-- R181: vmovs to a lane: index and value are captured. -/
def execVmovsWrite (S : Stall) (d a b : Opnd) (s : State) : Res :=
  vector (.vmovsWrite S d a b) S false noFormat (some a) (some b) s

/-- R181: vmovs from a lane: the lane index is captured, the result slot is allocated at issue. -/
def execVmovsRead (S : Stall) (d a b : Opnd) (s : State) : Res :=
  s.issue { reads := [b], ready := s.vroom } fun s =>
    let i := s.newId
    ((s.vpush (.vmovsRead S d a b) 0 (s.opnd b) i).longResult d).finish S

/-! ### Beginning an entry (R159 to R165) -/

/-- No group has begun an entry; groups with no lane of it may have passed it (R157, R364). -/
def VEntry.unbegun (e : VEntry) : Bool := !e.dropped && e.begun.all e.passed.contains

/-- Change an entry of a core's queue, by context and sequence number. -/
def State.modV (s : State) (core ctx seq : Nat) (f : VEntry → VEntry) : State :=
  let g (e : VEntry) : VEntry := if e.ctx = ctx ∧ e.seq = seq then f e else e
  s.modCore core fun k => { k with vec := { k.vec with q := k.vec.q.map g } }

/-- The entry of a core's queue with a context and a sequence number. -/
def State.findV (s : State) (core ctx seq : Nat) : Option VEntry :=
  (s.core core).vec.q.find? fun e => e.ctx == ctx && e.seq == seq

def State.modVec (s : State) (core : Nat) (f : VecState → VecState) : State :=
  s.modCore core fun k => { k with vec := f k.vec }

/-- A lane's address (R177, R178). -/
def VEntry.addr (e : VEntry) (v : VecState) (lane : Nat) : Nat :=
  match e.ins with
  | .vld _ _ _ _ k m | .vst _ _ _ _ k m =>
    (e.s1 + word lane * (if k = 1 then e.s2 else word (4 * 2 ^ m.toNat))).toNat
  | .vldx _ _ a _ | .vstx _ _ a _ => (e.s2 + 4 * word (v.rd lane (v.num a lane))).toNat
  | _ => 0

/-- The lane that a vmovs names (R181). -/
def VEntry.lane (e : VEntry) : Nat :=
  match e.ins with
  | .vmovsWrite _ _ _ _ => e.s1.toNat
  | _ => e.s2.toNat

/-- A vmovs entry. -/
def vMoves : Instr → Bool
  | .vmovsWrite _ _ _ _ | .vmovsRead _ _ _ _ => true
  | _ => false

/-- The lanes of a group in which an entry acts: for vmovs the one lane, group 0 taking an index out of range (R157,
R181). -/
def VEntry.lanes (e : VEntry) (g : Nat) : List Nat :=
  if vMoves e.ins then
    (if e.lane < e.vl then (if e.lane / 16 = g then [e.lane] else []) else (if g = 0 then [0] else []))
  else groupLanes e.vl g

/-- The first lane of a list that has no target, with its cause and address (R165, R177). -/
def State.laneFault (s : State) (core : Nat) (e : VEntry) : List Nat → Option (Nat × Nat × Nat)
  | [] => none
  | l :: ls =>
    let a := e.addr (s.core core).vec l
    match s.target core a 4 4 with
    | .error c => some (c, l, a)
    | .ok _ => s.laneFault core e ls

/-- A group takes a fault on an entry when it begins it (R165): a lane without a target, or a vmovs lane out of range, which
group 0 takes. -/
def State.groupFaults (s : State) (core g : Nat) (e : VEntry) : Bool :=
  (vMem e.ins && (s.laneFault core e (e.lanes g)).isSome) || (vMoves e.ins && g == 0 && e.vl ≤ e.lane)

/-- The sequence number of the last entry of a context that a group has completed, an entry that it begins without a fault
in this cycle counted (R165). -/
def State.lastOf (s : State) (core ctx g : Nat) : Nat :=
  let last := SMap.get 0 (s.core core).vec.last (8 * ctx + g)
  let begins := s.cal.filterMap fun p =>
    if p.due ≤ s.now ∧ p.ev = .vectorEntryBegin ∧ p.args.a = core ∧ p.args.b = g ∧ p.args.c / 65536 = ctx then
      s.findV core ctx (p.args.c % 65536)
    else none
  match begins.getLast? with
  | none => last
  | some x => if s.groupFaults core g x then last else x.seq

/-- A late vector fault (R165): every entry of the context that a group has not begun is passed there, none of them
counts any more, and the record waits for the context's trap. -/
def State.vfault (s : State) (core : Nat) (e : VEntry) (cause lane addr : Nat) : State :=
  match s.findV core e.ctx e.seq with
  | none => s
  | some x =>
    if x.dropped then s
    else
      let groups := (List.range 8).map fun g => s.lastOf core e.ctx g
      let s := s.modVec core fun v => { v with q := v.q.map fun x =>
        if x.ctx = e.ctx then
          let rest := (List.range 8).filter fun g => !x.begun.contains g
          { x with begun := x.begun ++ rest, passed := x.passed ++ rest, granted := [], dropped := true }
        else x }
      s.modCtx core e.ctx fun t =>
        { t with vqc := 0, late := t.late ++ [{ kind := 3, cause := cause, seq := e.seq, det := lane, addr := addr,
                                                groups := groups }] }

/-- A group has carried out its part of an entry, done at a cycle (R158, R165). -/
def State.vdone (s : State) (core g : Nat) (e : VEntry) (at_ mem flags : Nat) : State :=
  (s.modV core e.ctx e.seq fun x =>
    { x with doneAt := Nat.max x.doneAt at_, memAt := Nat.max x.memAt mem, flags := x.flags ||| flags }).modVec core
    fun v => { v with last := SMap.set 0 v.last (8 * e.ctx + g) e.seq }

/-- The index registers that an entry post-increments, in a group's active lanes (R32). -/
def VecState.increment (v : VecState) (ks lanes : List Nat) (g at_ : Nat) : VecState :=
  ks.foldl (fun v k =>
    (lanes.foldl (fun v l => v.wrIx l k ((SMap.get 0 v.ix (8 * l + k)).toNat + 1)) v).setReady g (64 + k) at_) v

/-- The words that an entry's lanes access: lane, core and address. -/
def State.laneWords (s : State) (core : Nat) (e : VEntry) (lanes : List Nat) : List (Nat × Nat × Nat) :=
  lanes.filterMap fun l =>
    match s.target core (e.addr (s.core core).vec l) 4 4 with
    | .error _ => none
    | .ok (c, a) => some (l, c, a)

/-- The bank cycles of a group's access: the most 8-byte words from one bank of a store (R167). -/
def State.bankCycles (s : State) (ws : List (Nat × Nat × Nat)) : Nat :=
  let keys := (ws.map fun w => (w.2.1, bankOf (s.core w.2.1).regions w.2.2, w.2.2 / 8)).eraseDups
  keys.foldl (fun n k => Nat.max n (keys.filter fun j => j.1 == k.1 && j.2.1 == k.2.1).length) 1

/-- A lane of an entry stores a word, unless a higher lane, in a group that began the entry before, has (R178). -/
def State.laneStore (s : State) (core : Nat) (e : VEntry) (w : Nat × Nat × Nat) (v : Nat) : State :=
  let (l, c, a) := w
  let wrote := ((s.findV core e.ctx e.seq).map VEntry.wrote).getD []
  if wrote.any fun x => l < x.1 && x.2.1 == c && x.2.2 == a then s
  else
    let s := s.modV core e.ctx e.seq fun x => { x with wrote := x.wrote ++ [w] }
    if c = core then s.lwrite c a 4 v
    else s.modVec core fun v' => { v' with sibs := v'.sibs ++ [⟨e.ctx, e.seq, s.now + 2, l, c, a, none, v⟩] }

/-- A group begins a memory entry (R162, R167, R177, R178): its own-store words perform now, its sibling words two cycles
on.  The lanes act in ascending order.  DEDUCED (log 177): where one lane of a group reaches a sibling store, all its lanes have the
latency 6. -/
def State.vmem (s : State) (core g : Nat) (e : VEntry) : State :=
  let lanes := e.lanes g
  match s.laneFault core e lanes with
  | some (c, l, a) => s.vfault core e c l a
  | none =>
    let v := (s.core core).vec
    let u := vUse e.ins e.fa
    let ws := s.laneWords core e lanes
    let sib := ws.any fun w => w.2.1 != core
    let occ := s.bankCycles ws
    let lat := if sib then 6 else 3
    let reg (l : Nat) : Nat := match e.ins with
      | .vld _ d _ _ _ _ | .vst _ d _ _ _ _ | .vldx _ d _ _ | .vstx _ d _ _ => v.num d l
      | _ => 0
    let act (s : State) (w : Nat × Nat × Nat) : State :=
      let (l, c, a) := w
      let r := reg l
      if vStore e.ins then s.laneStore core e w (v.rd l r)
      else if c = core then s.modVec core fun v' => (v'.wr l r (s.lread c a 4)).setReady g r (s.now + lat)
      else s.modVec core fun v' =>
        { v'.setReady g r (s.now + lat) with sibs := v'.sibs ++ [⟨e.ctx, e.seq, s.now + 2, l, c, a, some r, 0⟩] }
    let s := ws.foldl act s
    let s := s.modVec core fun v => v.increment u.posts lanes g (s.now + lat)
    let mem := if sib then 3 else 1
    let s := s.vdone core g e (s.now + if vStore e.ins then mem else lat) (s.now + mem) 0
    { s with vgroups := SMap.set 0 s.vgroups (8 * octOf core + g) (s.now + occ) }

/-- A group carries out an entry that is no memory entry and no gathering point, lane by lane (R169 to R174, R179,
R181). -/
def State.vlanes (s : State) (core g : Nat) (e : VEntry) : State :=
  let u := vUse e.ins e.fa
  let lanes := e.lanes g
  let (occ, lat) := vTimes e.ins e.fa
  let at_ := s.now + lat
  let v := (s.core core).vec
  let one (acc : VecState × Nat) (l : Nat) : VecState × Nat :=
    let (v, fl) := acc
    match e.ins with
    | .vidx _ a _ k m =>
      let n := if k = 1 then e.s2.toNat else v.rd l (v.num a l)
      ((v.wrIx l m.toNat n).setReady g (64 + m.toNat) at_, fl)
    | .vmovsWrite _ d _ _ => ((v.wr l (v.num d l) e.s2.toNat).setReady g (v.num d l) at_, fl)
    | .vmovsRead _ _ _ _ => (v, fl)
    | _ =>
      match u.dst with
      | none => (v, fl)
      | some d =>
        let src (n : Nat) : Nat := match u.src[n]? with
          | some (c, _) => v.rd l (v.num c l)
          | none => 0
        let nxt (n : Nat) : Nat := match u.src[n]? with
          | some (c, true) => v.rd l (v.numNext c l)
          | _ => 0
        let scalar := match e.ins with
          | .vadd _ _ _ _ k | .vsub _ _ _ _ k | .vmul _ _ _ _ k | .vfma _ _ _ _ k | .vmin _ _ _ _ k | .vmax _ _ _ _ k
          | .vand _ _ _ _ k | .vor _ _ _ _ k | .vxor _ _ _ _ k | .vshl _ _ _ _ k | .vshr _ _ _ _ k | .vsar _ _ _ _ k
          | .vcmp _ _ _ _ k _ | .vsel _ _ _ _ k => k == 1
          | .vbcast _ _ _ => true
          | _ => false
        let b := if scalar then e.s2.toNat % 2 ^ 32 else src 1
        let (r, f) := laneOp e.ins e.fa e.fd e.rm (src 0) b (v.rd l (v.num d l)) (nxt 0) (nxt 1)
        ((v.wr l (v.num d l) r).setReady g (v.num d l) at_, fl ||| f)
  let (v', fl) := lanes.foldl one (v, 0)
  let s := s.modVec core fun _ => v'.increment u.posts (groupLanes e.vl g) g at_
  let s := match e.ins with
    | .vmovsRead _ _ a _ =>
      if lanes.isEmpty then s
      else
        let r : Resp := { v := word (v.rd e.lane (v.num a e.lane)) }
        ({ s with resps := SMap.put s.resps e.id r }).postAt at_ 0 .resultArrival ⟨core, e.ctx, e.id, 0, []⟩
    | _ => s
  let s := s.vdone core g e at_ 0 fl
  { s with vgroups := SMap.set 0 s.vgroups (8 * octOf core + g) (s.now + occ) }

/-- A mismatch of the checker or of a residue check of a core: counted, and contained as R23 gives (R76, R164, R194,
R368). -/
def State.mismatch (s : State) (core : Nat) : State :=
  ({ s with mism := Nat.min (s.mism + 1) 0xFFFFFFFF }).postAt s.now 0 .uncorrectableError ⟨core, 0, 0, 0, []⟩

/-- An injected mismatch of a residue-checked entry comes up: the entry and those after it end without effect (R164,
R368). -/
def State.vinjected (s : State) (core : Nat) (e : VEntry) : Bool := (s.core core).injV && vResidue e.ins

def State.vmismatch (s : State) (core : Nat) : State :=
  (s.modCore core fun k => { k with injV := false, vec := { k.vec with failed := true } }).mismatch core

/-- R159: a group begins the entry it was granted. -/
def State.vbegin (s : State) (core g ctx seq : Nat) : State :=
  match s.findV core ctx seq with
  | none => s
  | some e =>
    if (s.core core).vec.failed then s
    else if s.vinjected core e then s.vmismatch core
    else if vMoves e.ins && g == 0 && e.vl ≤ e.lane then s.vfault core e 20 (e.lane % 2 ^ 32) 0
    else if vMem e.ins then s.vmem core g e
    else s.vlanes core g e

/-- R159: VECTOR_ENTRY_BEGIN, for a core, a group and an entry (context and sequence number). -/
def execVectorEntryBegin (s : State) : Res := .next (s.vbegin s.ev.a s.ev.b (s.ev.c / 65536) (s.ev.c % 65536))

/-- R161, R175, R176: a gathering entry begins in all groups: all reads precede all writes. -/
def State.vgather (s : State) (core ctx seq : Nat) : State :=
  match s.findV core ctx seq with
  | none => s
  | some e =>
    if (s.core core).vec.failed then s
    else if s.vinjected core e then s.vmismatch core
    else
      let v := (s.core core).vec
      let lanes := List.range e.vl
      let (occ, lat) := vTimes e.ins e.fa
      let at_ := s.now + lat
      let src (c : Opnd) : List Nat := lanes.map fun l => v.rd l (v.num c l)
      let u := vUse e.ins e.fa
      let as := match u.src[0]? with | some (c, _) => src c | none => []
      let idx := match u.src[1]? with | some (c, _) => src c | none => []
      let (rs, fl) := gatherOp e.ins e.fa e.rm e.s2 as idx
      let put (v : VecState) (x : Nat × Nat) : VecState :=
        match u.dst with
        | some d => (v.wr x.1 (v.num d x.1) x.2).setReady (x.1 / 16) (v.num d x.1) at_
        | none => v
      let v' := (lanes.zip rs).foldl put v
      let v' := (List.range 8).foldl (fun v g => v.increment u.posts (groupLanes e.vl g) g at_) v'
      let s := s.modVec core fun _ => v'
      let s := (List.range 8).foldl (fun s g => s.vdone core g e at_ 0 fl) s
      (List.range 8).foldl (fun s g =>
        { s with vgroups := SMap.set 0 s.vgroups (8 * octOf core + g) (s.now + occ) }) s

/-- R161: GATHERING_POINT_BEGIN, for a core and an entry. -/
def execGatheringPointBegin (s : State) : Res := .next (s.vgather s.ev.a (s.ev.c / 65536) (s.ev.c % 65536))

/-- R158, R163: an entry retires: its flags are merged and vqc falls. -/
def State.vretire (s : State) (core ctx seq : Nat) : State :=
  match s.findV core ctx seq with
  | none => s
  | some e =>
    if (s.core core).vec.failed then s
    else
    let s := s.modVec core fun v => { v with q := v.q.filter fun x => !(x.ctx == ctx && x.seq == seq) }
    s.modCtx core ctx fun t => { t.orFlags e.flags with vqc := if e.dropped then t.vqc else t.vqc - 1 }

/-- R158: VECTOR_ENTRY_RETIRE, for a core and an entry. -/
def execVectorEntryRetire (s : State) : Res := .next (s.vretire s.ev.a (s.ev.c / 65536) (s.ev.c % 65536))

/-! ### The cycle of an octant's vector unit (R159 to R161) -/

/-- The head of a core's queue for a group (R159). -/
def VecState.head (v : VecState) (g : Nat) : Option VEntry := v.q.find? fun e => !e.begun.contains g

/-- The entries of a core's queue before a given one. -/
def VecState.before (v : VecState) (e : VEntry) : List VEntry := v.q.takeWhile fun x => !(x.ctx == e.ctx && x.seq == e.seq)

/-- The registers that an entry reads in a group are ready, and those it writes await no word from a sibling store
(R159). -/
def VecState.operandsReady (v : VecState) (e : VEntry) (g now : Nat) : Bool :=
  let u := vUse e.ins e.fa
  let lanes := e.lanes g
  u.indexes.all (fun k => v.readyAt g (64 + k) ≤ now)
    && u.src.all (fun c => lanes.all fun l =>
        v.readyAt g (v.num c.1 l) ≤ now && (!c.2 || v.readyAt g (v.numNext c.1 l) ≤ now))
    && (match u.dst with
        | none => true
        | some d => lanes.all fun l => !v.sibs.any fun b => b.lane == l && b.reg == some (v.num d l))

/-- An entry's words in sibling stores have performed (R162). -/
def VecState.landed (v : VecState) (e : VEntry) : Bool := v.sibs.all fun b => !(b.ctx == e.ctx && b.seq == e.seq)

/-- The memory rule of R162: earlier memory entries have performed in every group, the context's earlier local accesses
have performed, and no store meets a guarded range (R192); and an entry with a word in a sibling store waits for its core's
slot of the octant network (R116, R159). -/
def State.memoryReady (s : State) (core g : Nat) (e : VEntry) : Bool :=
  let k := s.core core
  let ws := s.laneWords core e (e.lanes g)
  !vMem e.ins ||
    (e.after ≤ s.now && !k.sibBefore e.ctx e.at_
      && (k.vec.before e).all (fun x => !vMem x.ins || (x.begun.length == 8 && x.memAt ≤ s.now && k.vec.landed x))
      && (!vStore e.ins || ws.all fun w => !s.guarded w.2.1 w.2.2 4)
      && (k.netAt ≤ s.now || ws.all fun w => w.2.1 == core))

/-- The head of a core is ready in a group (R159, R161). -/
def State.vready (s : State) (core g : Nat) (e : VEntry) : Bool :=
  let v := (s.core core).vec
  e.at_ + 2 ≤ s.now && !e.granted.contains g
    && (if vGather e.ins then (List.range 8).all fun h => match v.head h with
          | some x => x.ctx == e.ctx && x.seq == e.seq
          | none => false
        else v.operandsReady e g s.now && s.memoryReady core g e)

/-- The lane groups begin no entry of a core that a debug halt has stopped (R363). -/
def CoreState.vstopped (k : CoreState) : Bool :=
  k.ctxs.all (fun x => x.2.status != .running) && k.ctxs.any fun x => x.2.status == .halted && x.2.hk == 2

/-- An entry has nothing for a group to do: no lane, and no index register to increment; a vmovs out of range has nothing for any
but group 0 (R32, R157, R181). -/
def VEntry.idle (e : VEntry) (g : Nat) : Bool :=
  (vMoves e.ins && e.vl ≤ e.lane && g != 0) || (e.lanes g).isEmpty && ((vUse e.ins e.fa).posts.isEmpty || (groupLanes e.vl g).isEmpty)

/-- Groups whose lanes are all inactive pass an entry (R157). -/
def State.vpass (s : State) (core : Nat) : State :=
  s.modVec core fun v => { v with q := (v.q.foldl (fun (acc : List VEntry × List Nat) e =>
      let free := (List.range 8).filter fun g => !acc.2.contains g && !e.begun.contains g
      let pass := if vGather e.ins || s.now < e.at_ + 2 then [] else free.filter e.idle
      let e' := { e with begun := e.begun ++ pass, passed := e.passed ++ pass }
      (acc.1 ++ [e'], acc.2 ++ free.filter fun g => !pass.contains g)) ([], [])).1 }

/-- The greatest credit, the lower core number first (R160). -/
def bestCredit : List (Nat × Int) → Option (Nat × Int)
  | [] => none
  | x :: xs => match bestCredit xs with
    | none => some x
    | some y => if y.2 ≤ x.2 then some x else some y

/-- A group of an octant holds a grant for a gathering point of some core whose entries may begin (R161, R363). -/
def State.vholds (s : State) (o g : Nat) : Bool :=
  (coresOf [o]).any fun c => !(s.core c).vstopped && !(s.core c).vec.failed && (s.core c).vec.q.any fun e => e.granted.contains g

/-- One group's contest in a cycle (R160): credits rise by weight, the greatest is granted and pays the sum.  A group that holds a
grant begins nothing, and grants gathering points only, so that those of several cores do not keep one another out (R161). -/
def State.vcontest (s : State) (o g : Nat) : State :=
  let held := s.vholds o g
  if s.now < SMap.get 0 s.vgroups (8 * o + g) then s
  else
    let ready := (coresOf [o]).filterMap fun c =>
      if (s.core c).vstopped || (s.core c).vec.failed then none
      else match (s.core c).vec.head g with
        | none => none
        | some e => if s.vready c g e && (!held || vGather e.ins) then some (c, e) else none
    if ready.isEmpty then s
    else
      let weight (c : Nat) : Int := ((s.core c).vsw % 8 + 1 : Nat)
      let sum := ready.foldl (fun n r => n + weight r.1) 0
      let s := ready.foldl (fun s r => s.modVec r.1 fun v =>
        { v with credit := SMap.set 0 v.credit g (SMap.get 0 v.credit g + weight r.1) }) s
      match bestCredit (ready.map fun r => (r.1, SMap.get 0 (s.core r.1).vec.credit g)) with
      | none => s
      | some (c, _) =>
        let s := s.modVec c fun v => { v with credit := SMap.set 0 v.credit g (SMap.get 0 v.credit g - sum) }
        match (ready.find? fun r => r.1 == c) with
        | none => s
        | some (_, e) =>
          if vGather e.ins then s.modV c e.ctx e.seq fun x => { x with granted := x.granted ++ [g], grantAt := s.now }
          else
            let s := s.modV c e.ctx e.seq fun x => { x with begun := x.begun ++ [g], memAt := Nat.max x.memAt (s.now + 1) }
            let s := if vMem e.ins ∧ (s.laneWords c e (e.lanes g)).any (fun w => w.2.1 != c) then
                s.modCore c fun k => { k with netAt := s.now + 1 }
              else s
            s.postAt s.now 0 .vectorEntryBegin ⟨c, g, e.ctx * 65536 + e.seq, 0, []⟩

/-- Gathering entries that every group has granted begin, in the cycle after the last grant or once their operands are
ready; of two that could begin in one cycle the second waits for the next (R159, R161). -/
def State.vgathers (s : State) (core : Nat) : State :=
  let v := (s.core core).vec
  if (s.core core).vstopped || v.failed then s
  else v.q.foldl (fun s e =>
    if e.granted.length = 8 ∧ e.grantAt < s.now ∧ (List.range 8).all (fun g => SMap.get 0 s.vgroups (8 * octOf core + g) ≤ s.now) ∧ (List.range 8).all (fun g => v.operandsReady e g s.now) then
      let s := (List.range 8).foldl (fun s g =>
        { s with vgroups := SMap.set 0 s.vgroups (8 * octOf core + g) (s.now + 1) }) s
      (s.modV core e.ctx e.seq fun x => { x with granted := [], begun := List.range 8 }).postAt s.now 0 .gatheringPointBegin
        ⟨core, 0, e.ctx * 65536 + e.seq, 0, []⟩
    else s) s

/-- Entries done in every group retire (R158). -/
def State.vretires (s : State) (core : Nat) : State :=
  (s.core core).vec.q.foldl (fun s e =>
    if e.begun.length = 8 ∧ e.doneAt ≤ s.now ∧ (s.core core).vec.landed e then
      s.postAt s.now 0 .vectorEntryRetire ⟨core, 0, e.ctx * 65536 + e.seq, 0, []⟩
    else s) s

/-- Sibling accesses of a core's entries perform, but for a store that a guarded range holds back (R162, R192). -/
def State.vsibs (s : State) (core : Nat) : State :=
  let ready (b : VSib) : Bool := b.due ≤ s.now && (b.reg.isSome || !s.guarded b.core b.addr 4)
  let due := (s.core core).vec.sibs.filter ready
  let s := s.modVec core fun v => { v with sibs := v.sibs.filter fun b => !ready b }
  due.foldl (fun s b => match b.reg with
    | some r => s.modVec core fun v => v.wr b.lane r (s.lread b.core b.addr 4)
    | none => s.lwrite b.core b.addr 4 b.v) s

/-- The vector unit of an octant at the start of a cycle: what this cycle retires and begins. -/
def State.vectorCycle (s : State) (o : Nat) : State :=
  let cs := coresOf [o]
  let s := cs.foldl State.vsibs s
  if cs.all fun c => (s.core c).vec.q.isEmpty then s
  else
    let s := cs.foldl State.vretires s
    let s := cs.foldl State.vpass s
    let s := cs.foldl State.vgathers s
    (List.range 8).foldl (fun s g => s.vcontest o g) s

end Sys2Proof.Machine
end

