-- ==== Sys2Proof/Machine/Matrix.lean ====
section
/-! DEFINITION. The plane array of a core: its queue, operand tiles, accumulators, batches and checks, and the matrix
instructions (R182 to R204). -/
namespace Sys2Proof.Machine

/-! ### Modes (R191) -/

/-- The modes of an mma. -/
inductive MMode where
  | float (f : FFmt)
  | int
  | bxFloat
  | bxInt
  | exact
  deriving DecidableEq, Repr

def isBx (f : Nat) : Bool := 0x22 ≤ f && f ≤ 0x28
def isRbx (f : Nat) : Bool := 0x32 ≤ f && f ≤ 0x38

/-- The formats of A and B: FA 0 means bx8, FB 0 means FA's format (R191). -/
def mmaFa (p : Pfx) : Nat := if p.fa = 0 then 0x28 else p.fa
def mmaFb (p : Pfx) : Nat := if p.fb = 0 then mmaFa p else p.fb

/-- The combinations of R191. -/
def mmaAccepts (x pl : Bool) (p : Pfx) : Bool :=
  let a := mmaFa p
  let b := mmaFb p
  p.ro == 0 && (!pl || isRbx a) &&
    (if x then isRbx a && isRbx b && (p.fd == 0 || p.fd == 4)
     else if isBx a then isBx b && (p.fd == 0 || p.fd == 11 || p.fd == 3)
     else if isRbx a then isRbx b && (p.fd == 0 || p.fd == 11 || p.fd == 3)
     else if a == 0x10 || a == 0x11 then b == a && (p.fd == 0 || p.fd == 11)
     else a == 1 && b == 1 && (p.fd == 0 || p.fd == 3))

/-- The mode of an entry (R191). -/
def MEntry.mode (e : MEntry) : MMode :=
  if e.pair then .exact
  else if e.fa = 0x10 then .float f16
  else if e.fa = 0x11 then .float bf16
  else if e.fa = 1 then .int
  else if e.fd = 3 then .bxInt else .bxFloat

/-! ### Batches (R193) -/

/-- Change the batch of a context with a number. -/
def MatState.modBatch (m : MatState) (ctx num : Nat) (f : Batch → Batch) : MatState :=
  let g (b : Batch) : Batch := if b.ctx = ctx ∧ b.num = num then f b else b
  { m with batches := m.batches.map g }

def MatState.findBatch (m : MatState) (ctx num : Nat) : Option Batch :=
  m.batches.find? fun b => b.ctx == ctx && b.num == num

/-- The closed batches a context holds, the oldest first. -/
def MatState.held (m : MatState) (ctx : Nat) : List Batch := m.batches.filter fun b => b.ctx == ctx && b.num != 0

/-- One more entry in the open batch of a context. -/
def MatState.joinOpen (m : MatState) (ctx : Nat) : MatState :=
  match m.findBatch ctx 0 with
  | some _ => m.modBatch ctx 0 fun b => { b with left := b.left + 1 }
  | none => { m with batches := m.batches ++ [⟨ctx, 0, 1, 0⟩] }

/-- An entry of a batch has completed, with its flags; whether a closed batch is complete by it.  An entry that its batch
does not count leaves only the flags (R195). -/
def MatState.leaveBatch (m : MatState) (ctx num flags : Nat) (out : Bool) : MatState × Bool :=
  match m.findBatch ctx num with
  | none => (m, false)
  | some b =>
    (m.modBatch ctx num fun b => { b with left := if out then b.left else b.left - 1, flags := b.flags ||| flags },
      !out && num != 0 && b.left == 1)

/-- Free a held batch. -/
def MatState.freeBatch (m : MatState) (ctx num : Nat) : MatState :=
  { m with batches := m.batches.filter fun b => !(b.ctx == ctx && b.num == num) }

/-- Close the open batch under a number: it moves behind the batches held, and its entries take the number. -/
def MatState.closeBatch (m : MatState) (ctx num : Nat) : MatState :=
  let b := (m.findBatch ctx 0).getD ⟨ctx, 0, 0, 0⟩
  let number (e : MEntry) : MEntry := if e.ctx = ctx ∧ e.batch = 0 then { e with batch := num } else e
  { m with batches := (m.batches.filter fun b => !(b.ctx == ctx && b.num == 0)) ++ [{ b with num := num }],
           q := m.q.map number, commits := SMap.put m.commits ctx num }

/-- The number after a batch number: modulo 2^16 with 0 skipped (R193). -/
def nextBatch (n : Nat) : Nat := if n = 65535 then 1 else n + 1

def State.modMat (s : State) (core : Nat) (f : MatState → MatState) : State :=
  s.modCore core fun k => { k with mat := f k.mat }

/-! ### Appending an entry (R182, R188, R198) -/

/-- sk.EN and sk.ADDR (R188). -/
def MatState.skOn (m : MatState) : Bool := bit m.sk 63
def MatState.skAddr (m : MatState) : Nat := fld m.sk 0 24

/-- An entry can be appended now: the queue has room, and the reads made at issue need not wait (R116, R182). -/
def State.mroom (s : State) (refine pl : Bool) (a : Nat) : Bool :=
  s.curCore.mat.q.length < 8
    && !(!refine && s.curCore.mat.skOn && s.localWaits s.curCore.mat.skAddr) && !(pl && s.localWaits a)

/-- The skip word of an mma at issue, and the fault of its read (R188). -/
def State.skipWord (s : State) : State × Nat × Option (Nat × Nat) :=
  let m := s.curCore.mat
  if m.skOn then
    let a := m.skAddr
    let s := s.modMat s.cc fun m => { m with sk := putFld m.sk 0 24 (a + 2) }
    match s.target s.cc a 2 2 with
    | .error c => (s, 0, some (c, a))
    | .ok (c, o) =>
      let s := s.catchUp c
      (s.madeLocal c, s.lread c o 2, none)
  else (s, 0, none)

/-- The planes that an mma .pl uses, from the landing slot its A tile names: the planes, the cycles of the read, and the
fault (R198).  The header is read as a local load (R192). -/
def State.planesRead (s : State) (a w : Nat) : State × Nat × Nat × Option (Nat × Nat) :=
  match s.target s.cc a 64 64 with
  | .error c => (s, 1, 2, some (c, a))
  | .ok (c, o) =>
    let s := s.catchUp c
    let n := s.precision c (s.tile c o).slot
    (s.madeLocal c, Nat.max 1 (Nat.min (n - 1) w), if c = s.cc then 2 else 4, if n < 2 then some (26, a) else none)

/-- The lower of two causes (R195). -/
def lowerCause (a b : Option (Nat × Nat)) : Option (Nat × Nat) :=
  match a, b with
  | some x, some y => if y.1 < x.1 then some y else some x
  | some x, none => some x
  | none, y => y

/-- Append an entry of the current context; the cycles its issue takes (R182). -/
def State.mpush (s : State) (refine x pl mid : Bool) (acc a b : Nat) : State × Nat :=
  let (s, skip, e1) := if refine then (s, 0, none) else s.skipWord
  let t := s.cur
  let fa := mmaFa t.pfx
  let (s, planes, cycles, e2) := if pl then s.planesRead a (blockWidth fa) else (s, 0, 1, none)
  let t := s.cur
  let e : MEntry :=
    { seq := t.seqn, ctx := s.cx, acc := acc, pair := x, pl := pl, mid := mid, refine := refine, a := a, b := b, fa := fa,
      fb := mmaFb t.pfx, fd := t.pfx.fd, mg := bit t.st 8, skip := skip, planes := planes, early := lowerCause e1 e2,
      at_ := s.now, after := t.localAt }
  let s := s.modCur fun t => { t.dispatch with mpend := t.mpend + 1 }
  (s.modMat s.cc fun m => { m.joinOpen s.cx with q := m.q ++ [e] }, cycles)

/-- mma and mmr (R197, R199). -/
def matrixWord (refine x pl mid : Bool) (S : Stall) (acc : BitVec 3) (a b : Opnd) (s : State) : Res :=
  s.issue { takes := true, accepts := mmaAccepts x pl, reads := [a, b], ready := s.mroom refine pl (s.opn a) } fun s =>
    let (s', n) := s.mpush refine x pl mid acc.toNat (s.opn a) (s.opn b)
    s'.finishIn S n

/-- R197: mma. -/
def execMma (S : Stall) (c : BitVec 3) (a b : Opnd) (x p m : BitVec 1) (s : State) : Res :=
  matrixWord false (x == 1) (p == 1) (m == 1) S c a b s

/-- R199: mmr. -/
def execMmr (S : Stall) (c : BitVec 3) (a b : Opnd) (x : BitVec 1) (s : State) : Res :=
  matrixWord true (x == 1) false false S c a b s

/-! ### Fetching operands (R185, R186, R192) -/

/-- The values a word held between two cycles, from its present value and what it held before, newest first (R192). -/
def heldValues (from_ till : Nat) (cur : List Byte) : List OldWord → List (List Byte)
  | [] => [cur]
  | o :: os =>
    (if o.at_ ≤ till then [cur] else []) ++ (if from_ ≤ o.at_ then heldValues from_ till o.bytes os else [])

/-- The write behind what a word held is a sibling access that a context of a core issued before a cycle. -/
def OldWord.before (o : OldWord) (core ctx at_ : Nat) : Bool :=
  match o.by_ with
  | some (c, x, t) => c == core && x == ctx && t < at_
  | none => false

/-- What a place of a store held, newest first, back to the last write that an entry's context issued before the entry: the entry
fetches behind that (R192). -/
def CoreState.olds (k : CoreState) (p core ctx at_ : Nat) : List OldWord :=
  (k.mat.hist.filter fun o => o.place == p).takeWhile fun o => !o.before core ctx at_

/-- An 8-byte word of a tile as an entry of a core without guard fetches it: any value it held in the window, the `k`-th free
choice (R192). -/
def State.fetchWord8 (s : State) (core : Nat) (e : MEntry) (tc addr till k : Nat) : List Byte :=
  let m := s.core tc
  match heldValues e.at_ till (m.lbytes addr 8) (m.olds (place m.regions addr) core e.ctx e.at_) with
  | [v] => v
  | vs => vs.getD (Config.freeNat (64 * (s.fresh + k)) % vs.length) (m.lbytes addr 8)

/-- The bytes of an operand range as an entry of a core with MG set fetches them: as they stood when it issued, with the accesses
behind which it issued (R192). -/
def State.fetchGuarded (s : State) (core : Nat) (e : MEntry) (tc addr n : Nat) : List Byte :=
  let m := s.core tc
  if m.mat.hist.isEmpty then m.lbytes addr n
  else (((List.range ((n + 7) / 8)).map fun i =>
    let a := addr + 8 * i
    (((m.olds (place m.regions a) core e.ctx e.at_).filter fun o => e.at_ < o.at_).getLast?.map fun o => o.bytes).getD
      (m.lbytes a 8)).flatten).take n

/-- The bytes of an operand range as fetched in a window. -/
def State.fetchRange (s : State) (core : Nat) (e : MEntry) (tc addr n till k : Nat) : List Byte :=
  if (s.core tc).mat.hist.isEmpty then (s.core tc).lbytes addr n
  else (((List.range ((n + 7) / 8)).map fun i => s.fetchWord8 core e tc (addr + 8 * i) till (k + i)).flatten).take n

/-- The faults of one operand: address, format, whether .pl, planes; each a cause and the tile's address (R186, R195). -/
def State.tileFaults (s : State) (core h f : Nat) (pl : Bool) (planes : Nat) : List (Nat × Nat) :=
  if h % 64 ≠ 0 then [(1, h)]
  else match s.target core h 1 64 with
    | .error c => [(c, h)]
    | .ok (c, a) =>
      let t := s.tile c a
      if !layoutFits t.tag f || t.fmt != f then [(21, h)] ++ (if pl && t.tag != 4 then [(26, h)] else [])
      else
        let n := tileLen t.tag f t.depth (if pl then planes else blockWidth f)
        (match s.target core h 1 n with | .error c => [(c, h)] | .ok _ => [])
          ++ (if t.spn != spanOf (s.core c).regions a then [(22, h)] else [])
          ++ (if pl && t.tag != 4 then [(26, h)] else [])

/-- The header of an operand that has no fault, and its store. -/
def State.tileAt (s : State) (core h : Nat) : Nat × Nat × Tile :=
  match s.target core h 1 64 with
  | .ok (c, a) => (c, a, s.tile c a)
  | .error _ => (core, 0, ⟨0, 0, 0, 0, 0⟩)

/-- The lowest cause among several, the first of equals. -/
def lowestCause : List (Nat × Nat) → Option (Nat × Nat)
  | [] => none
  | x :: xs => lowerCause (some x) (lowestCause xs)

/-- The fault an entry has as it begins (R186, R195). -/
def State.mfaultOf (s : State) (core : Nat) (e : MEntry) : Option (Nat × Nat) :=
  let fa := s.tileFaults core e.a e.fa e.pl e.planes
  let fb := s.tileFaults core e.b e.fb false 0
  let ks := if fa.isEmpty && fb.isEmpty && (s.tileAt core e.a).2.2.ks != (s.tileAt core e.b).2.2.ks then [(23, e.b)] else []
  lowestCause (e.early.toList ++ fa ++ fb ++ ks)

/-! ### Refine tags (R189, R198) -/

/-- The refine tag that a .pl entry leaves. -/
def plTag (e : MEntry) : Word :=
  word (1 + 2 * e.planes + 2 ^ 5 * blockWidth e.fa + 2 ^ 9 * b2n e.mid + 2 ^ 10 * b2n e.pair
    + 2 ^ 11 * b2n (e.mode == .bxInt) + 2 ^ 16 * (e.skip % 65536))

/-- The refine tag of an accumulator as an entry finds it: with the begun entries before it complete (R190). -/
def MatState.tagFor (m : MatState) (e : MEntry) : Word :=
  ((m.q.takeWhile fun x => !(x.seq == e.seq && x.ctx == e.ctx)).filter fun x => x.acc == e.acc).foldl
    (fun t x => if x.pl then plTag x else if x.refine then 0 else t) (SMap.get 0 m.tag e.acc)

/-! ### Beginning an entry (R183, R186) -/

/-- A late matrix fault (R195). -/
def State.mfault (s : State) (core : Nat) (e : MEntry) (cause addr : Nat) : State :=
  let s := s.modMat core fun m =>
    let done (b : Batch) : Batch := if b.ctx = e.ctx then { b with left := 0 } else b
    let apart (x : MEntry) : MEntry := if x.ctx = e.ctx then { x with out := true } else x
    { m with q := (m.q.filter fun x => !(x.ctx == e.ctx && (x.begunAt.isNone || x.seq == e.seq))).map apart,
             batches := m.batches.map done }
  let left := ((s.core core).mat.q.filter fun x => x.ctx == e.ctx).length
  s.modCtx core e.ctx fun t =>
    { t with mbc := 0, mpend := left,
             late := t.late ++ [{ kind := 4, cause := cause, seq := e.seq, det := e.acc, addr := addr }] }

/-- Cycles of a step that is not skipped (R183). -/
def MEntry.stepCost (e : MEntry) (tag : Word) : Nat :=
  if e.refine then blockWidth e.fa - fld tag 1 4
  else if e.pl then e.planes
  else match e.mode with
    | .float f => if f.fb = 10 then 22 else 16
    | .int => 8
    | _ => blockWidth e.fa

/-- The cycles from the fill to the begin of step `n`. -/
def MEntry.stepOffset (skip cost n : Nat) : Nat :=
  ((List.range n).map fun i => if skip / 2 ^ i % 2 = 1 then 1 else cost).foldl (· + ·) 0

/-- The cycle in which step `n` of an entry begins. -/
def MEntry.stepAt (e : MEntry) (n : Nat) : Nat := e.begunAt.getD 0 + e.fill + MEntry.stepOffset e.skip e.cost n

/-- The first entry of a queue that has not begun. -/
def MatState.nextEntry (m : MatState) : Option MEntry := m.q.find? fun e => e.begunAt.isNone

/-- A context is stopped by a debug halt (R363). -/
def Ctx.debugHalted (t : Ctx) : Bool := t.status == .halted && t.hk == 2

/-- The entry that the array of a core can begin now: two cycles after its issue, with the local accesses that its context
issued before it performed (R182, R183, R192, R196). -/
def State.mnext (s : State) (core : Nat) : Option MEntry :=
  let k := s.core core
  match k.mat.nextEntry with
  | none => none
  | some e =>
    if k.mat.freeAt ≤ s.now && e.at_ + 2 ≤ s.now && e.after ≤ s.now && !k.sibBefore e.ctx e.at_
        && !(k.ctx e.ctx).debugHalted then some e
    else none

/-- R183: the array begins an entry: the checks, its times, and, under MG, what it fetches. -/
def State.mbegin (s : State) (core : Nat) : State :=
  match s.mnext core with
  | none => s
  | some e =>
    match s.mfaultOf core e with
    | some (c, a) => s.mfault core e c a
    | none =>
      let (ca, oa, ta) := s.tileAt core e.a
      let (cb, ob, tb) := s.tileAt core e.b
      let tag := (s.core core).mat.tagFor e
      let steps := ta.ks + 1
      let skip := if e.refine then fld tag 16 16 else e.skip
      let cost := e.stepCost tag
      let fill := if ca = core ∧ cb = core then 8 else 12
      let na := tileLen ta.tag e.fa ta.depth (if e.pl then e.planes else blockWidth e.fa)
      let nb := tileLen tb.tag e.fb tb.depth (blockWidth e.fb)
      let ends := s.now + fill + MEntry.stepOffset skip cost steps
      let e' := { e with
        begunAt := some s.now, tagA := ta.tag, tagB := tb.tag, ks := ta.ks, skip := skip, fill := fill, cost := cost
        da := if e.mg then s.fetchGuarded core e ca oa na else []
        db := if e.mg then s.fetchGuarded core e cb ob nb else []
        fetchAt := s.now + fill + MEntry.stepOffset skip cost (steps - 1), doneAt := ends + 4 }
      let swap (x : MEntry) : MEntry := if x.seq = e.seq ∧ x.ctx = e.ctx then e' else x
      s.modMat core fun m => { m with q := m.q.map swap, freeAt := ends }

/-- R183: MATRIX_ENTRY_BEGIN, for a core. -/
def execMatrixEntryBegin (s : State) : Res := .next (s.mbegin s.ev.a)

/-! ### Computing an entry (R105, R106, R197 to R199) -/

/-- Bits `bit` to `bit + w - 1` of a field that starts at a byte, lowest first. -/
def fieldAt (bs : Array Byte) (off bit w : Nat) : Nat :=
  let o := off + bit / 8
  bitsOf ((bs.getD o 0).toNat + 256 * (bs.getD (o + 1) 0).toNat) (bit % 8) w

/-- The element of a tile as stored: row `r`, place `k`; a PM tile is read down to its first `planes` planes (R185). -/
def tileElem (tag f K planes : Nat) (bs : Array Byte) (r k : Nat) : Nat :=
  let w := blockWidth f
  match tag with
  | 1 => if f = 1 then (bs.getD (64 + r * K + k) 0).toNat
         else (bs.getD (64 + 2 * (r * K + k)) 0).toNat + 256 * (bs.getD (65 + 2 * (r * K + k)) 0).toNat
  | 2 => fieldAt bs (64 + 2 * K + r * (2 * w * (K / 16)) + k / 16 * (2 * w)) (w * (k % 16)) w
  | 3 => fieldAt bs (128 + r * (w * K / 8)) (w * k) w
  | _ => (List.range (Nat.min planes w)).foldl (fun n j =>
      n + bitsOf (bs.getD (128 + j * 4 * K + r * (K / 8) + k / 8) 0).toNat (k % 8) 1 * 2 ^ (w - 1 - j)) 0

/-- The exponent of row `r` in step `s` (R185). -/
def tileExp (tag K : Nat) (bs : Array Byte) (r s : Nat) : Nat :=
  (if tag = 2 then bs.getD (64 + r * (K / 16) + s) 0 else bs.getD (64 + r) 0).toNat

/-- The A mantissa that .pl uses (R198). -/
def plUse (w p : Nat) (mid : Bool) (m : Int) : Int :=
  let q := (2 : Int) ^ (w - p)
  m / q * q + (if mid && p < w then (2 : Int) ^ (w - p - 1) else 0)

/-- The products of a float step truncated below 2^-40 of the greatest, summed and rounded (R105). -/
def floatStep (ps : List FVal) : Flagged :=
  let top := ps.foldl (fun (t : Option Int) p => match p with
    | .fin _ m e =>
      if m = 0 then t
      else
        let l : Int := (bitLen m : Int) - 1 + e
        some (match t with | none => l | some x => max x l)
    | _ => t) none
  match top with
  | none => (f32.zero (ps.all FVal.negative), 0)
  | some t =>
    let g := t - 40
    let q := ps.map fun p => match p with
      | .fin n m e => if e < g then FVal.fin n (m / 2 ^ (g - e).toNat) g else p
      | p => p
    let (z, e) := sumFin q
    if z = 0 then (0, 0) else f32.round 0 (decide (z < 0)) z.natAbs e false

/-- The step result of float operands (R105). -/
def floatSum (xs ys : List FVal) : Flagged :=
  let nan := (xs ++ ys).any FVal.isNan
  match products xs ys with
  | none => (f32.nan, flagNV)
  | some ps =>
    if anyInf true ps && anyInf false ps then (f32.nan, flagNV)
    else if nan then (f32.nan, nvOf (xs ++ ys))
    else if anyInf true ps then (f32.infinity true, 0)
    else if anyInf false ps then (f32.infinity false, 0)
    else floatStep ps

/-- A scaled integer rounded to f32 (R106). -/
def scaledF32 (rm : Nat) (f : FFmt) (z : Int) (e : Int) : Flagged :=
  if z = 0 then (0, 0) else f.round rm (decide (z < 0)) z.natAbs e false

/-- The sum of products of two rows of mantissas. -/
def dotZ : List Int → List Int → Int
  | a :: as, b :: bs => a * b + dotZ as bs
  | _, _ => 0

/-- What an entry computes with: operand bytes by step, the first step's for the exponents. -/
structure MInput where
  e : MEntry
  das : List (Array Byte)
  dbs : List (Array Byte)
  tag : Word

/-- The depth of the tiles of an entry. -/
def MEntry.depth (e : MEntry) : Nat := 16 * (e.ks + 1)

/-- The bytes of A, and of B, as step `n` has them. -/
def MInput.da (x : MInput) (n : Nat) : Array Byte := x.das.getD n #[]
def MInput.db (x : MInput) (n : Nat) : Array Byte := x.dbs.getD n #[]

/-- Row `r` of A in step `n`, as stored. -/
def MInput.rawA (x : MInput) (n r : Nat) : List Nat :=
  let planes := if x.e.pl then x.e.planes else blockWidth x.e.fa
  let bs := x.da n
  (List.range 16).map fun i => tileElem x.e.tagA x.e.fa x.e.depth planes bs r (16 * n + i)
/-- Column `c` of B in step `n`, as stored. -/
def MInput.rawB (x : MInput) (n c : Nat) : List Nat :=
  let bs := x.db n
  (List.range 16).map fun i => tileElem x.e.tagB x.e.fb x.e.depth (blockWidth x.e.fb) bs c (16 * n + i)

/-- The A mantissas of a row that the step multiplies: as .pl uses them, or the remainder of mmr (R198, R199). -/
def MInput.mantA (x : MInput) (n r : Nat) : List Int :=
  let w := if x.e.fa = 1 then 8 else blockWidth x.e.fa
  (x.rawA n r).map fun v =>
    let m := sgn w v
    if x.e.refine then m - plUse w (fld x.tag 1 4) (bit x.tag 9) m
    else if x.e.pl then plUse w x.e.planes x.e.mid m
    else m
def MInput.mantB (x : MInput) (n c : Nat) : List Int :=
  let w := if x.e.fb = 1 then 8 else blockWidth x.e.fb
  (x.rawB n c).map fun v => sgn w v

def MInput.expA (x : MInput) (n r : Nat) : Nat := tileExp x.e.tagA x.e.depth (x.da 0) r n
def MInput.expB (x : MInput) (n c : Nat) : Nat := tileExp x.e.tagB x.e.depth (x.db 0) c n

/-- A step that the check unit marks unchecked (R194). -/
def MInput.unchecked (x : MInput) (n : Nat) : Bool :=
  match x.e.mode with
  | .int => false
  | .float f => (List.range 32).any fun r => (x.rawA n r ++ x.rawB n r).any fun v =>
      match f.read v with | .fin _ _ _ => false | _ => true
  | _ => (List.range 32).any fun r => x.expA n r == 0xFF || x.expB n r == 0xFF

/-- One step on all elements, the accumulator as 1,024 numbers in row order (R105, R106). -/
def MInput.step (x : MInput) (n : Nat) (acc : List Nat) : List Nat × Nat :=
  let zip (f : Nat → Nat → Nat → Flagged) : List Nat × Nat :=
    let rs := (acc.zip (List.range 1024)).map fun p => f (p.2 / 32) (p.2 % 32) p.1
    (rs.map (·.1), rs.foldl (fun fl r => fl ||| r.2) 0)
  let addF (a : Nat) (t : Flagged) : Flagged :=
    let (v, fl) := f32.add 0 (f32.read a) (f32.read t.1)
    (v, fl ||| t.2)
  match x.e.mode with
  | .float f =>
    let as := ((List.range 32).map fun r => (x.rawA n r).map f.read).toArray
    let bs := ((List.range 32).map fun c => (x.rawB n c).map f.read).toArray
    zip fun r c a => addF a (floatSum (as.getD r []) (bs.getD c []))
  | m =>
    let as := ((List.range 32).map fun r => x.mantA n r).toArray
    let bs := ((List.range 32).map fun c => x.mantB n c).toArray
    let dot (r c : Nat) : Int := dotZ (as.getD r []) (bs.getD c [])
    match m with
    | .bxFloat =>
      let wa : Int := blockWidth x.e.fa
      let wb : Int := blockWidth x.e.fb
      zip fun r c a =>
        let ea := x.expA n r
        let eb := x.expB n c
        addF a (if ea = 0xFF ∨ eb = 0xFF then (f32.nan, 0)
                else scaledF32 0 f32 (dot r c) ((ea : Int) + eb - 254 - (wa - 1) - (wb - 1)))
    | .exact => zip fun r c a => (wrapNat 64 ((a : Int) + dot r c), 0)
    | _ => zip fun r c a => (wrapNat 32 ((a : Int) + dot r c), 0)

/-- All the steps of an entry in ascending K: the accumulator, the flags, the steps checked and unchecked. -/
def MInput.run (x : MInput) (acc : List Nat) : List Nat × Nat × Nat × Nat :=
  (List.range (x.e.ks + 1)).foldl (fun (a : List Nat × Nat × Nat × Nat) n =>
    let (acc, fl, chk, unc) := a
    if x.e.skip / 2 ^ n % 2 = 1 then a
    else
      let (acc', f) := x.step n acc
      let u := x.unchecked n
      (acc', fl ||| f, chk + b2n (!u), unc + b2n u)) (acc, 0, 0, 0)

/-! ### Accumulators (R189) -/

/-- Replace the elements from a key up by numbers of 32 bits. -/
def putElems (m : SMap Elem) (lo : Nat) (vs : List Nat) : SMap Elem :=
  let new := ((List.range vs.length).zip vs).filterMap fun p =>
    let v : Elem := BitVec.ofNat 32 p.2
    if v = 0 then none else some (lo + p.1, v)
  (m.filter fun e => e.1 < lo) ++ new ++ (m.filter fun e => lo + vs.length ≤ e.1)

/-- The elements of an accumulator, in row order. -/
def MatState.elems (m : MatState) (n : Nat) : List Nat :=
  let own := (m.acc.filter fun e => 1024 * n ≤ e.1 && e.1 < 1024 * n + 1024)
  (List.range 1024).map fun i => (SMap.get 0 own (1024 * n + i)).toNat

/-- The elements of an accumulator, or of a pair as 64-bit numbers (R189). -/
def MatState.read (m : MatState) (n : Nat) (pair : Bool) : List Nat :=
  if pair then ((m.elems n).zip (m.elems (n + 1))).map fun p => p.1 + 2 ^ 32 * p.2 else m.elems n

def MatState.write (m : MatState) (n : Nat) (pair : Bool) (vs : List Nat) : MatState :=
  if pair then { m with acc := putElems (putElems m.acc (1024 * n) (vs.map (· % 2 ^ 32))) (1024 * (n + 1)) (vs.map (· / 2 ^ 32)) }
  else { m with acc := putElems m.acc (1024 * n) vs }

/-- A debugger's write of an accumulator element: an entry that has begun adds to the value it found (R197, R365). -/
def MatState.poke (m : MatState) (i : Nat) (v : Elem) : MatState :=
  let runs (e : MEntry) : Bool := e.begunAt.isSome && (i / 1024 == e.acc || (e.pair && i / 1024 == e.acc + 1))
  let old := SMap.get 0 m.acc i
  let keep (e : MEntry) : MEntry := if (SMap.find e.was i).isNone then { e with was := SMap.put e.was i old } else e
  match m.q.find? runs with
  | none => { m with acc := SMap.set 0 m.acc i v }
  | some x => { m with acc := SMap.set 0 m.acc i v
                       q := m.q.map fun e => if e.seq = x.seq ∧ e.ctx = x.ctx then keep e else e }

/-- The operands of an entry as its array has them at completion (R192). -/
def State.minput (s : State) (core : Nat) (e : MEntry) : MInput :=
  let tag := SMap.get 0 (s.core core).mat.tag e.acc
  let steps := List.range (e.ks + 1)
  if e.mg then ⟨e, steps.map fun _ => e.da.toArray, steps.map fun _ => e.db.toArray, tag⟩
  else
    let (ca, oa, _) := s.tileAt core e.a
    let (cb, ob, _) := s.tileAt core e.b
    let na := tileLen e.tagA e.fa e.depth (if e.pl then e.planes else blockWidth e.fa)
    let nb := tileLen e.tagB e.fb e.depth (blockWidth e.fb)
    ⟨e, steps.map fun n => (s.fetchRange core e ca oa na (e.stepAt n) (8192 * n)).toArray,
        steps.map fun n => (s.fetchRange core e cb ob nb (e.stepAt n) (8192 * n + 4096)).toArray, tag⟩

/-- The pair scale of an entry's tiles (R189). -/
def MInput.scale (x : MInput) : PairScale :=
  ⟨(List.range 32).map (x.expA 0), (List.range 32).map (x.expB 0), blockWidth x.e.fa, blockWidth x.e.fb⟩

/-- The fault that an entry has as it completes: the refine tag (24) or the pair scale (25) (R195). -/
def State.mlateOf (s : State) (core : Nat) (x : MInput) : Option Nat :=
  let e := x.e
  let pend := bit x.tag 0
  if (e.pl && pend) || (e.refine && (!pend || fld x.tag 5 4 != blockWidth e.fa || bit x.tag 10 != e.pair
      || bit x.tag 11 != (e.mode == .bxInt))) then some 24
  else if e.pair then
    match SMap.find (s.core core).mat.scale e.acc with
    | some sc => if sc = x.scale then none else some 25
    | none => none
  else none

/-- An entry leaves the queue, its batch and the counters (R193). -/
def State.mleave (s : State) (core : Nat) (e : MEntry) (flags : Nat) : State :=
  let m := (s.core core).mat
  let (m, done) := { m with q := m.q.filter fun x => !(x.seq == e.seq && x.ctx == e.ctx) }.leaveBatch e.ctx e.batch flags e.out
  (s.modMat core fun _ => m).modCtx core e.ctx fun t =>
    { t with mpend := t.mpend - 1, mbc := if done then t.mbc - 1 else t.mbc }

/-- The elements that an entry adds to: its accumulator as it stood when the entry began (R197). -/
def MatState.found (m : MatState) (e : MEntry) : List Nat :=
  { m with acc := e.was.foldl (fun a (x : Nat × Elem) => SMap.set 0 a x.1 x.2) m.acc }.read e.acc e.pair

/-- R183: an entry completes: its accumulator, scale and tag are written, its flags go to its batch; an injected
mismatch writes nothing (R194, R368). -/
def State.mcomplete (s : State) (core ctx seq : Nat) : State :=
  match (s.core core).mat.q.find? fun e => e.ctx == ctx && e.seq == seq with
  | none => s
  | some e =>
    let x := s.minput core e
    let s := { s with fresh := s.fresh + 16 * 8192 }
    match s.mlateOf core x with
    | some c => s.mfault core e c e.a
    | none =>
      if e.refine && fld x.tag 1 4 == fld x.tag 5 4 && !bit x.tag 9 then
        (s.modMat core fun m => { m with tag := SMap.set 0 m.tag e.acc 0 }).mleave core e 0
      else
        let (acc, fl, chk, unc) := x.run ((s.core core).mat.found e)
        if (s.core core).injM && chk != 0 then
          ((s.modCore core fun k => { k with injM := false }).mleave core e 0).mismatch core
        else
          let s := s.modMat core fun m =>
            let m := m.write e.acc e.pair acc
            { m with
              chk := Nat.min (m.chk + chk) 0xFFFFFFFF
              unc := Nat.min (m.unc + unc) 0xFFFF
              tag := if e.pl then SMap.set 0 m.tag e.acc (plTag e) else if e.refine then SMap.set 0 m.tag e.acc 0 else m.tag
              scale := if e.pair && (SMap.find m.scale e.acc).isNone then SMap.put m.scale e.acc x.scale else m.scale }
          s.mleave core e fl

/-- R183: MATRIX_ENTRY_COMPLETION, for a core and an entry. -/
def execMatrixEntryCompletion (s : State) : Res := .next (s.mcomplete s.ev.a (s.ev.c / 65536) (s.ev.c % 65536))

/-! ### mtile (R200) -/

/-- The fields of an mtile descriptor (R200). -/
structure TileDesc where
  a0 : Nat
  b0 : Nat
  aks : Int
  bks : Int
  bns : Int
  nk : Nat
  na : Nat
  acc : Nat
  done : Nat
  zeros : Bool
  deriving DecidableEq, Repr

/-- A descriptor of 32 bytes (R200). -/
def TileDesc.ofNat (n : Nat) : TileDesc :=
  { a0 := bitsOf n 0 24, b0 := bitsOf n 32 24, aks := sgn 32 (bitsOf n 64 32), bks := sgn 32 (bitsOf n 96 32),
    bns := sgn 32 (bitsOf n 128 32), nk := bitsOf n 160 8 + 1, na := bitsOf n 168 3 + 1, acc := bitsOf n 171 3,
    done := bitsOf n 176 16,
    zeros := bitsOf n 24 8 == 0 && bitsOf n 56 8 == 0 && bitsOf n 174 2 == 0 && bitsOf n 192 64 == 0 }

/-- The rules of R200 on a descriptor. -/
def TileDesc.ok (d : TileDesc) (x pl : Bool) : Bool :=
  d.zeros && d.done < d.nk * d.na && !(x && (d.acc % 2 == 1 || 4 < d.na)) && !(pl && 1 < d.nk)

/-- R200: mtile: the descriptor is read and checked, and the expansion begins; the pc and the prefix stay. -/
def execMtile (S : Stall) (d : Opnd) (x p m : BitVec 1) (s : State) : Res :=
  s.issue { takes := true, accepts := mmaAccepts (x == 1) (p == 1), reads := [d], ready := !s.localWaits (s.opn d) } fun s =>
    let a := s.opn d
    match s.target s.cc a 32 32 with
    | .error c => s.exact c a
    | .ok (c, o) =>
      let s := s.catchUp c
      let n := s.lread c o 32
      if !(TileDesc.ofNat n).ok (x == 1) (p == 1) then s.exact 27 a
      else (s.modCur fun t => { t with wait := .tile a (x == 1) (p == 1) (m == 1) (s.now + 1 + S.toNat) n,
                                        readyAt := s.now + 3, issuedAt := s.now }).madeLocal c

/-- An address of a tile: a base and steps, as an address of 64 bits. -/
def tileAddr (base : Nat) (z : Int) : Nat := (iword ((base : Int) + z)).toNat

/-- R200: the next expanded mma of an mtile of the current context, and DONE, by the descriptor as read at issue. -/
def State.expandTile (s : State) : State :=
  match s.cur.wait with
  | .tile a x pl mid till words =>
    match s.target s.cc a 32 32 with
    | .error c => s.exact c a
    | .ok (c, o) =>
      let d := TileDesc.ofNat words
      let i := d.done
      let kk := i / d.na
      let j := i % d.na
      let acc := (if x then d.acc + 2 * j else d.acc + j) % 8
      let pa := tileAddr d.a0 (kk * d.aks)
      let pb := tileAddr d.b0 (j * d.bns + kk * d.bks)
      let last := i + 1 = d.nk * d.na
      if !s.mroom false pl pa || s.guarded c (o + 22) 2 then s.hold
      else
        let (s', n) := s.mpush false x pl mid acc pa pb
        let s' := s'.lwrite c (o + 22) 2 (if last then 0 else i + 1)
        if last then
          s'.modCur fun t => { t.advance with st := clearPrefix t.advance.st, wait := .none, readyAt := Nat.max (s.now + n) till,
                                               issuedAt := s.now }
        else s'.modCur fun t => { t with wait := .tile a x pl mid till (words + 2 ^ 176), readyAt := s.now + n, issuedAt := s.now }
  | _ => s

/-- R200: MTILE_EXPANSION, for the context whose turn it is. -/
def execMtileExpansion (s : State) : Res := .next s.expandTile

/-! ### Accumulator access (R201) -/

/-- No earlier entry on an accumulator, or on either of a pair, is pending (R190). -/
def State.accFree (s : State) (n : Nat) (pair : Bool) : Bool :=
  let names := if pair then [n, n + 1] else [n]
  s.curCore.mat.q.all fun e => !names.contains e.acc && !(e.pair && names.contains (e.acc + 1))

/-- R201: mzero. -/
def execMzero (S : Stall) (c : BitVec 3) (p : BitVec 1) (s : State) : Res :=
  s.issue { ready := s.accFree c.toNat (p == 1) } fun s =>
    let n := c.toNat
    let clear (m : MatState) (n : Nat) : MatState :=
      { m with acc := putElems m.acc (1024 * n) (List.replicate 1024 0), tag := SMap.set 0 m.tag n 0 }
    (s.modMat s.cc fun m =>
      if p = 1 then { (clear (clear m n) (n + 1)) with scale := SMap.del m.scale n } else clear m n).finishIn S 2

/-- The prefixes of mrd and mwr (R191). -/
def mrdAccepts (pair : Bool) (p : Pfx) : Bool :=
  p.fa == 0 && p.fb == 0 && (p.fd == 0 || p.fd == 9 || p.fd == 10 || p.fd == 11 || p.fd == (if pair then 4 else 3))
def mwrAccepts (pair : Bool) (p : Pfx) : Bool :=
  (p.fa == 0 || (if pair then p.fa == 4 else p.fa == 0x12 || p.fa == 3)) && p.fb == 0 && p.fd == 0 && p.ro == 0

/-- The rows that R selects, in order (R201). -/
def rowsOf (r : Word) : List Nat := (List.range (fld r 5 5 + 1)).map fun j => (fld r 0 5 + j) % 32

/-- An accumulator element as mrd writes it, and its flags (R201). -/
def accOut (pair : Bool) (sc : Option PairScale) (fd rm r c v : Nat) : Flagged :=
  match dstFmt fd, pair with
  | .float f, false => if fd = 11 then (v, 0) else f.write rm (f32.read v)
  | .int _, _ => (v, 0)
  | fmt, true =>
    let f := match fmt with | .float f => f | _ => f32
    let e : Int := match sc with
      | none => 0
      | some x => ((x.er.getD r 0 : Nat) : Int) + (x.ec.getD c 0 : Nat) - 254 - ((x.wa : Int) - 1) - ((x.wb : Int) - 1)
    scaledF32 rm f (sgn 64 v) e
  | _, false => (v, 0)

/-- The first element of a run of elements that has no target, with its cause. -/
def State.elemFault (s : State) (core a e n : Nat) : Option (Nat × Nat) :=
  match s.target core a e (n * e) with
  | .ok _ => none
  | .error _ =>
    match firstOf (fun i => match s.target core (a + i * e) e e with | .ok _ => false | .error _ => true) (List.range n) with
    | none => some (2, a)
    | some i => match s.target core (a + i * e) e e with
      | .error c => some (c, a + i * e)
      | .ok _ => none

/-- R201: mrd: rows of an accumulator go to local store, converted by FD. -/
def execMrd (S : Stall) (d r : Opnd) (c : BitVec 3) (p : BitVec 1) (s : State) : Res :=
  let pair := p == 1
  s.issue { takes := true, accepts := mrdAccepts pair, reads := [d, r], ready := s.accFree c.toNat pair } fun s =>
    let fd := s.cur.pfx.fd
    let e := if fd = 9 ∨ fd = 10 then 2 else if pair ∧ fd = 4 then 8 else 4
    let rows := rowsOf (s.opnd r)
    let n := rows.length
    let a := s.opn d
    match s.elemFault s.cc a e (32 * n) with
    | some (k, x) => s.exact k x
    | none =>
      match s.target s.cc a e (32 * n * e) with
      | .error k => s.exact k a
      | .ok (tc, o) =>
        if !s.localFree tc || s.guarded tc o (32 * n * e) then s.hold
        else
          let m := s.curCore.mat
          let vs := (m.read c.toNat pair).toArray
          let sc := SMap.find m.scale c.toNat
          let outs := (rows.map fun r => (List.range 32).map fun k => accOut pair sc fd s.cur.rm r k (vs.getD (32 * r + k) 0)).flatten
          let s := (s.catchUp tc).lputBytes tc o ((outs.map fun x => toBytes e x.1).flatten)
          let s := s.raise s.cc s.cx (outs.foldl (fun fl x => fl ||| x.2) 0)
          (s.finishIn S (4 + n)).madeLocal tc

/-- R201: mwr: rows of an accumulator are loaded from local store. -/
def execMwr (S : Stall) (d r : Opnd) (c : BitVec 3) (p : BitVec 1) (s : State) : Res :=
  let pair := p == 1
  s.issue { takes := true, accepts := mwrAccepts pair, reads := [d, r], ready := s.accFree c.toNat pair } fun s =>
    let e := if pair then 8 else 4
    let rows := rowsOf (s.opnd r)
    let n := rows.length
    let a := s.opn d
    match s.elemFault s.cc a e (32 * n) with
    | some (k, x) => s.exact k x
    | none =>
      match s.target s.cc a e (32 * n * e) with
      | .error k => s.exact k a
      | .ok (tc, o) =>
        if !s.localFree tc then s.hold
        else
          let s := s.catchUp tc
          let vs := (s.curCore.mat.read c.toNat pair).toArray
          let vs := ((List.range n).zip rows).foldl (fun vs jr =>
            (List.range 32).foldl (fun (vs : Array Nat) k =>
              vs.setIfInBounds (32 * jr.2 + k) (s.lread tc (o + (32 * jr.1 + k) * e) e)) vs) vs
          let s := s.modMat s.cc fun m => m.write c.toNat pair vs.toList
          (s.finishIn S (4 + n)).madeLocal tc

/-! ### The remaining instructions (R202 to R204) -/

/-- R202: msk. -/
def execMsk (S : Stall) (a : Opnd) (s : State) : Res :=
  s.issue { reads := [a] } fun s =>
    let v := s.opnd a
    (s.modMat s.cc fun m => { m with sk := v &&& 0x8000000000FFFFFF }).finish S

/-- The held batches of the current context leave room for another, or the oldest is complete (R193). -/
def State.commitFree (s : State) : Bool :=
  let h := s.curCore.mat.held s.cx
  h.length < 8 || (match h with | b :: _ => b.left == 0 | [] => true)

/-- The oldest held batch is freed where eight are held, its flags merged (R193). -/
def State.freeOldest (s : State) : State :=
  let h := s.curCore.mat.held s.cx
  if h.length < 8 then s
  else match h with
    | [] => s
    | b :: _ => (s.modMat s.cc fun m => m.freeBatch s.cx b.num).raise s.cc s.cx b.flags

/-- R203: mcommit: the open batch is closed; d receives its number. -/
def execMcommit (S : Stall) (d : Opnd) (s : State) : Res :=
  s.issue { ready := s.commitFree } fun s =>
    let s := s.freeOldest
    let n := nextBatch (SMap.get 0 s.curCore.mat.commits s.cx)
    let s := s.modMat s.cc fun m => m.closeBatch s.cx n
    let left := match s.curCore.mat.findBatch s.cx n with | some b => b.left | none => 0
    (s.modCur fun t => { t with mbc := if left = 0 then t.mbc else t.mbc + 1 }).opOwn S d 1 (word n)

/-- A held batch that is complete is freed, its flags merged into st (R193, R203). -/
def State.freeIfDone (s : State) (core ctx num : Nat) : State :=
  match (s.core core).mat.findBatch ctx num with
  | none => s
  | some b =>
    if num ≠ 0 ∧ b.left = 0 then (s.modMat core fun m => m.freeBatch ctx num).raise core ctx b.flags else s

/-- R203: mwaitb: a complete or absent batch lets the context go on; else it waits, the pc on the mwaitb. -/
def execMwaitb (S : Stall) (a : Opnd) (s : State) : Res :=
  s.issue { reads := [a] } fun s =>
    let n := fld (s.opnd a) 0 16
    match (if n = 0 then none else s.curCore.mat.findBatch s.cx n) with
    | none => s.finish S
    | some b =>
      if b.left = 0 then (s.freeIfDone s.cc s.cx n).finish S
      else s.modCur fun t => { t with wait := .batch n, readyAt := s.now + 1 + S.toNat, issuedAt := s.now }

/-- R204: mstat. -/
def execMstat (S : Stall) (d a : Opnd) (s : State) : Res :=
  s.issue { reads := [a] } fun s =>
    let v := s.opnd a
    let sel := fld v 0 4
    let m := s.curCore.mat
    let h := m.held s.cx
    let r : Word := match sel with
      | 0 => word (m.chk + 2 ^ 32 * m.unc + 2 ^ 48 * m.q.length)
      | 1 => word ((match h with | b :: _ => b.num | [] => 0) + 2 ^ 16 * h.length
          + 2 ^ 20 * (h.filter fun b => b.left == 0).length + 2 ^ 24 * s.cur.mbc)
      | n => if 8 ≤ n then SMap.get 0 m.tag (n - 8) else 0
    let s := if sel = 0 && bit v 4 then s.modMat s.cc fun m => { m with chk := 0, unc := 0 } else s
    s.opOwn S d 2 r

/-! ### The cycle of a plane array -/

/-- What the array of a core completes and begins in this cycle (R183). -/
def State.matrixCycle (s : State) (core : Nat) : State :=
  let m := (s.core core).mat
  let s := if m.q.isEmpty && !s.matrixBusy core && !m.hist.isEmpty then s.modMat core fun m => { m with hist := [] } else s
  let s := m.q.foldl (fun s e =>
    if e.begunAt.isSome && e.doneAt ≤ s.now then
      s.postAt s.now 0 .matrixEntryCompletion ⟨core, 0, e.ctx * 65536 + e.seq, 0, []⟩
    else s) s
  if (s.mnext core).isSome then s.postAt s.now 0 .matrixEntryBegin ⟨core, 0, 0, 0, []⟩ else s

/-- A context that waits for a batch goes on once it is complete (R203). -/
def State.batchWait (s : State) (core ctx : Nat) : State :=
  match (s.ctxAt core ctx).wait with
  | .batch n =>
    match (s.core core).mat.findBatch ctx n with
    | some b =>
      if b.left = 0 then (s.freeIfDone core ctx n).modCtx core ctx fun t => { t.advance with wait := .none } else s
    | none => s.modCtx core ctx fun t => { t.advance with wait := .none }
  | _ => s

end Sys2Proof.Machine
end

