-- ==== Sys2Proof/Machine/Frames.lean ====
section
/-! DEFINITION. The repeat word: the checks of a frame, its captured words, and its reading again (R40, R79, R80, R422). -/
namespace Sys2Proof.Machine

/-- A frame-eligible word with the prefix that the captured word before it latches, or none: it accepts the formats, or it takes
none and none is latched (R38, R40, R51). -/
def prefixFits (i : Instr) (latched : Bool) (p : Pfx) : Bool :=
  match i with
  | .fadd _ _ _ _ | .fsub _ _ _ _ | .fmul _ _ _ _ | .fdiv _ _ _ _ | .fmin _ _ _ _ | .fmax _ _ _ _ | .fma _ _ _ _ => arithAccepts p
  | .fsqrt _ _ _ => sqrtAccepts p
  | .fneg _ _ _ | .fclass _ _ _ | .bxexp _ _ _ => quietAccepts p
  | .fcmp _ _ _ _ _ => fcmpAccepts p
  | .cvt _ _ _ => cvtAccepts p
  | .bxenc _ _ _ _ => bxencAccepts p
  | .bxdec _ _ _ _ => bxdecAccepts p
  | .vadd _ _ _ _ _ | .vsub _ _ _ _ _ | .vmul _ _ _ _ _ | .vfma _ _ _ _ _ | .vmin _ _ _ _ _ | .vmax _ _ _ _ _ | .vabs _ _ _
  | .vneg _ _ _ => vArith p
  | .vcmp _ _ _ _ _ m => vCompare m.toNat p
  | .vcvt _ _ _ => vConv p
  | .vrcp _ _ _ | .vrsqrt _ _ _ | .vexp2 _ _ _ => vFloat1 p
  | .vdot4 _ _ a b => vDot p && !(dotFloat p.fa && (a == 47 || b == 47))
  | .mma _ _ _ _ x pl _ => mmaAccepts (x == 1) (pl == 1) p
  | _ => !latched

/-- The checks of R40 on captured words, the first of which issues under the prefix given: each is legal, eligible and fits its
prefix, and the last is no PFX. -/
def frameOkFrom : Option Pfx → List Code → Bool
  | latched, [] => latched.isNone
  | latched, w :: ws =>
    match decode w with
    | .illegal _ => false
    | .instr i =>
      (frameRoles i).isSome && prefixFits i latched.isSome (latched.getD {})
        && frameOkFrom (match i with
            | .pfx _ a b d r => some ⟨a.toNat, b.toNat, d.toNat, r.toNat⟩
            | _ => none) ws

/-- The checks of R40 on the captured words. -/
def frameOk (ws : List Code) : Bool := !ws.isEmpty && frameOkFrom none ws

/-- Reading the captured words of a repeat word for the current context: the frame, a fetch that has to wait or fails,
or a halt with cause 8, where a word fails R40 or the saved position lies outside the frame (R40, R80, R422). -/
def State.captureFrame (s : State) (rpt : Code) (inside : Bool) (ok : List Code → State → State) : State :=
  match s.fetchRun s.cc (s.cur.pc + 4) (rptCount rpt) with
  | .error (va, .miss) => s.startWalk s.cc s.cx va.toNat 4
  | .error (va, .bad c) => s.fetchTrap s.cc s.cx va.toNat c
  | .error (_, .code _) => s
  | .ok ws => if frameOk ws && inside then ok ws s else s.illegalHalt 8 s.code

/-- R79, R89: rpt: the words are captured and checked, and the frame begins at word 0 of pass 0. -/
def execRpt (S m : BitVec 3) (c t : BitVec 4) (p : BitVec 10) (s : State) : Res :=
  s.issue {} fun s =>
    let w := (encode (.rpt S m c t p)).getD 0
    s.captureFrame w true fun ws s =>
      s.modCur fun x => { x with frame := ws, frameRpt := w, st := setRf x.st true 0 0, readyAt := s.now + 1 + S.toNat,
                                 issuedAt := s.now }

/-- The words of a frame are read again after a return or a resume (R80, R422): the word at the saved address has to be a
repeat word that passes R40 and holds the saved position. -/
def State.recapture (s : State) : State :=
  let t := s.cur
  match s.fetchAt s.cc t.pc with
  | .miss => s.startWalk s.cc s.cx t.pc.toNat 4
  | .bad c => s.fetchTrap s.cc s.cx t.pc.toNat c
  | .code w =>
    let s := { s with code := w }
    match decode w with
    | .instr (.rpt _ _ _ _ _) =>
      s.captureFrame w (t.rfWord < rptCount w && t.rfPass < rptPasses w) fun ws s =>
        s.modCur fun t => { t with frame := ws, frameRpt := w }
    | _ => s.illegalHalt 8 w

end Sys2Proof.Machine
end

