-- ==== Sys2Proof/Machine/Negotiation.lean ====
section
/-! DEFINITION. Facets and clause arrays as held units: budgets, arbitration, recalls and surrender routines, and the
instructions facq, fsur, fans, frel and frecall (R298 to R314). -/
namespace Sys2Proof.Machine

/-! ### Charges along an RCB chain (R332) -/

/-- The budget of an RCB for cores (0), facets (1) and HBM units (2), and where its usage field lies. -/
def Link.budget (l : Link) (k : Nat) : Nat := match k with | 0 => l.bcore | 1 => l.bfac | _ => l.bhbm
def usageAt (k : Nat) : Nat × Nat := match k with | 0 => (0, 12) | 1 => (16, 13) | _ => (32, 32)

def State.usage (s : State) (l : Link) (k : Nat) : Nat := bitsOf (s.gread l.use 8) (usageAt k).1 (usageAt k).2
def State.setUsage (s : State) (k n : Nat) (l : Link) : State :=
  s.gwrite none l.use 8 (putBits (s.gread l.use 8) (usageAt k).1 (usageAt k).2 n)

/-- A charge of `n` fits every RCB of a chain (R332). -/
def State.fits (s : State) (ls : List Link) (k n : Nat) : Bool := ls.all fun l => s.usage l k + n ≤ l.budget k

/-- A split step that could not begin is tried again at every slice: the map may gain storage (R425). -/
def KMap.unblocked (m : KMap) : KMap := { m with slices := SMap.mapVals m.slices fun x => { x with blocked := false } }

/-- A charge, or a refund, of `n` along a chain (R332); a refund of HBM units lets split steps be tried again (R425). -/
def State.charge (s : State) (ls : List Link) (k n : Nat) : State := ls.foldl (fun s l => s.setUsage k (s.usage l k + n) l) s
def State.refund (s : State) (ls : List Link) (k n : Nat) : State :=
  let s := ls.foldl (fun s l => s.setUsage k (s.usage l k - n) l) s
  if k = 2 then { s with maps := SMap.mapVals s.maps KMap.unblocked } else s

/-! ### Grants, releases and answers (R299, R301, R306, R311) -/

/-- A byte of the table of global bytes lies in a facet (R300). -/
def inFacet (u a : Nat) : Bool := facetBase + 65536 * u ≤ a && a < facetBase + 65536 * (u + 1)

/-- The arbiter clears a unit; watches on a facet's words wake (R140, R299, R315). -/
def State.clearUnit (s : State) (u : Nat) : State :=
  if u < 4096 then State.wakeAll { s with mem := s.mem.filter fun e => !inFacet u e.1 } (inFacet u)
  else { s with arrays := SMap.del s.arrays (u - 4096) }

/-- The result word of facq (R311). -/
def unitWord (kind : Bool) (sts u : Nat) : Word :=
  word (2 ^ 63 + sts * 2 ^ 16 + 4096 * b2n kind + (if sts = 0 then u % 4096 else 0))

/-- The answer to a map unit: its slice holds the facet, and moves buckets into it; or it goes without (R217). -/
def State.facetAnswer (s : State) (m slice sts u : Nat) : State :=
  match SMap.find s.maps m with
  | none => s
  | some k =>
    let i := slice - k.slb
    let f (x : KSlice) : KSlice :=
      if sts = 0 then { x with asked := false, facets := x.facets ++ [u], blocked := false } else { x with asked := false }
    let s := { s with maps := SMap.put s.maps m { k with slices := SMap.upd {} k.slices i f } }
    if sts = 0 then s.post 0 .facetMigration ⟨m, i, u, 0, []⟩ else s

/-- The answer to an engine block (R243). -/
def State.hotAnswer (s : State) (o sts u : Nat) : State :=
  match SMap.find s.hots o with
  | none => s
  | some h => { s with hots := SMap.put s.hots o { h with asked := h.asked - 1,
                                                          facets := if sts = 0 then h.facets ++ [u] else h.facets } }

/-- A request is answered with a status and a unit. -/
def State.answerUnit (s : State) (q : UnitReq) (sts u : Nat) : State :=
  let s := { s with unitReqs := SMap.del s.unitReqs q.id }
  match q.src with
  | 0 => s.respond q.core q.ctx q.id { v := unitWord (4096 ≤ q.unit) sts u }
  | 1 => s.facetAnswer q.who.2 (q.unit / 32) sts u
  | 2 => s.hotAnswer q.who.2 sts u
  | _ => s.respond q.core q.ctx q.id { v := word sts }

/-- A unit is cleared and granted, where the budgets allow it (R299). -/
def State.grantUnit (s : State) (q : UnitReq) (u : Nat) : State :=
  if s.fits q.links 1 1 then
    let s := (s.charge q.links 1 1).clearUnit u
    let h : UnitHold := { gang := if q.src = 0 then some q.who.2 else none, agent := if q.src = 0 then none else some q.who,
                          core := q.core, cls := q.cls, pri := q.pri, at_ := s.now, links := q.links }
    { s with units := SMap.put s.units u h }.answerUnit q 0 u
  else s.answerUnit q 4 0

/-- A request waits, or no longer waits, for a recall. -/
def State.setWaits (s : State) (q : UnitReq) (w : Option Nat) (posted : Bool) : State :=
  { s with unitReqs := SMap.put s.unitReqs q.id { q with waits := w, posted := posted } }

/-- A request is arbitrated again (R301). -/
def State.rearbitrate (s : State) (q : UnitReq) : State := (s.setWaits q none false).postAt s.now 0 .arbitration ⟨q.id, 0, 0, 0, []⟩

/-- The requests that wait for the recall of a unit. -/
def State.waiting (s : State) (u : Nat) : List UnitReq := (s.unitReqs.filter fun e => e.2.waits == some u).map (·.2)

/-- A unit becomes free: it is refunded, its refusal counts are reset, a queued record of it goes; a frecall of it is
answered, the request that had it recalled is granted it, the others are arbitrated again (R299, R302, R306). -/
def State.freeUnit (s : State) (u : Nat) : State :=
  match SMap.find s.units u with
  | none => s
  | some h =>
    let s := s.refund h.links 1 1
    let s := { s with units := SMap.del s.units u, refusals := s.refusals.filter fun e => e.1 / 2 ^ 20 != u }
    let s := if h.gang.isSome then s.modCore h.core fun k => { k with recalls := k.recalls.filter fun r => r.unit != u } else s
    let ws := s.waiting u
    let s := (ws.filter fun q => q.src == 3).foldl (fun s q => s.answerUnit q 0 u) s
    let s := match ws.find? fun q => q.src != 3 && q.posted with
      | some q => s.grantUnit q u
      | none => s
    (ws.filter fun q => q.src != 3 && !q.posted).foldl State.rearbitrate s

/-! ### Arbitration (R301, R302) -/

/-- The key of a refusal count: a unit and a requester (R302). -/
def refusalKey (q : UnitReq) (u : Nat) : Nat := u * 2 ^ 20 + q.who.1 * 2 ^ 17 + q.who.2
def State.refusalsOf (s : State) (q : UnitReq) (u : Nat) : Nat := SMap.get 0 s.refusals (refusalKey q u)

/-- The candidates of a request (R311). -/
def UnitReq.candidates (q : UnitReq) : List Nat :=
  if !q.any then [q.unit]
  else if q.unit < 4096 then (List.range 32).map (q.unit / 32 * 32 + ·)
  else (List.range 64).map (4096 + ·)

/-- A gang is resident (R302). -/
def State.residentGang (s : State) (g : Nat) : Bool :=
  match SMap.find s.gangs g with
  | some v => v.status == .running || v.status == .stopping
  | none => false

/-- A core whose gang has reached a stop, or has not reached the stamp of its resume: it issues nothing, and its engines
begin nothing (R15, R245, R341, R343). -/
def State.stopped (s : State) (core : Nat) : Bool :=
  match s.gangOf core with
  | none => false
  | some g =>
    match g.status with
    | .running => false
    | .stopping => g.stopStamp ≤ s.cyc core && !(s.core core).ex.phase
    | _ => true

/-- The requester holds the unit itself. -/
def UnitReq.own (q : UnitReq) (h : UnitHold) : Bool := if q.src = 0 then h.gang == some q.who.2 else h.agent == some q.who

/-- A held unit of a class that the requester could take or have recalled (R301, R302). -/
def State.reachable (s : State) (q : UnitReq) (cls u : Nat) : Bool :=
  match SMap.find s.units u with
  | none => false
  | some h => h.cls == cls && h.pri ≤ q.pri && !q.own h &&
      (cls != 2 || (match h.gang with | some g => s.residentGang g | none => true))

/-- No recall of the unit is in progress and its holder's queue has room (R302, R303). -/
def State.recallRoom (s : State) (u : Nat) : Bool :=
  match SMap.find s.units u with
  | none => false
  | some h => h.recalled.isNone && (h.gang.isNone || (s.core h.core).recalls.length < 8)

/-- The order of choice: lowest priority, most refusals, earliest grant, lowest number (R301, R302). -/
def State.unitRank (s : State) (q : UnitReq) (refusals : Bool) (u : Nat) : Nat :=
  let h := SMap.get {} s.units u
  ((h.pri * 4 + (if refusals then 3 - s.refusalsOf q u else 0)) * 2 ^ 64 + h.at_) * 8192 + u

/-- The unit chosen among several. -/
def State.bestUnit (s : State) (q : UnitReq) (refusals : Bool) (us : List Nat) : Option Nat :=
  (minOf (us.map (s.unitRank q refusals))).map (· % 8192)

/-- The record of a recall as the routine receives it (R303). -/
def Recall.word (r : Recall) : Word :=
  Machine.word (r.unit + 2 ^ 13 * b2n r.force + 2 ^ 14 * r.src + 2 ^ 16 * r.pri + 2 ^ 20 * r.num + 2 ^ 32 * r.rqc)

/-- A device agent still holds a unit under the recall that it is to answer (R217, R243). -/
def UnitHold.underRecall (h : UnitHold) (req : Nat) : Bool := h.agent.isSome && h.recalled == some req

/-- A recall is posted: to the holding core's queue, a supervisor's at its head, or to the device agent, which answers
within 1,024 cycles (R303, R308, R313). -/
def State.postRecall (s : State) (q : UnitReq) (u : Nat) : State :=
  let h := SMap.get {} s.units u
  let num := if q.src = 3 then 1 else Nat.min 3 (s.refusalsOf q u + 1)
  let r : Recall := { unit := u, force := num == 3 || q.src == 3, src := q.src, pri := q.pri, num := num, req := q.id,
                      rqc := if q.src = 1 then q.unit / 32 else if q.src = 2 then q.who.2 else q.core }
  let s := ({ s with units := SMap.put s.units u { h with recalled := some q.id } }).setWaits q (some u) true
  match h.agent with
  | some (1, _) => (s.postAt (s.now + s.freeN 0 % 1024) 0 .mapUnitSurrender ⟨u, 0, q.id, 0, []⟩).renew
  | some _ => (s.postAt (s.now + s.freeN 0 % 1024) 0 .engineBlockSurrender ⟨u, 0, q.id, 0, []⟩).renew
  | none => s.modCore h.core fun k => { k with recalls := if q.src = 3 then r :: k.recalls else k.recalls ++ [r] }

/-- R301: a request is arbitrated, by the first step that applies. -/
def State.arbitrate (s : State) (q : UnitReq) : State :=
  let c := q.candidates
  if !s.fits q.links 1 1 then s.answerUnit q 4 0
  else match c.find? fun u => (SMap.find s.units u).isNone with
  | some u => s.grantUnit q u
  | none =>
    match s.bestUnit q false (c.filter (s.reachable q 1)) with
    | some u => (s.freeUnit u).grantUnit q u
    | none =>
      let near := c.filter (s.reachable q 2)
      if q.routine then s.answerUnit q 1 0
      else match s.bestUnit q true (near.filter s.recallRoom) with
      | some u => s.postRecall q u
      | none =>
        match s.bestUnit q true (near.filter fun u => (SMap.get {} s.units u).recalled.isSome) with
        | some u => s.setWaits q (some u) false
        | none => s.answerUnit q 1 0

/-- The partition of a held unit (R313). -/
def State.unitPart (s : State) (h : UnitHold) : Option Nat :=
  match h.gang, h.agent with
  | some g, _ => (SMap.find s.gangs g).map (·.chain.part)
  | none, some (1, m) => (SMap.find s.maps m).map (·.part)
  | none, some (_, o) => (SMap.find s.hots o).bind fun t => (SMap.find s.gangs t.gang).map (·.chain.part)
  | none, none => none

/-- R313: frel reaches the arbiter. -/
def State.frelArrives (s : State) (q : UnitReq) : State :=
  match SMap.find s.units q.unit with
  | none => s.answerUnit q 1 0
  | some h =>
    if h.agent.isSome then s.answerUnit q 2 0
    else if h.gang = some q.who.2 then (s.freeUnit q.unit).answerUnit q 0 0
    else s.answerUnit q 1 0

/-- R313: frecall reaches the arbiter. -/
def State.frecallArrives (s : State) (q : UnitReq) : State :=
  match SMap.find s.units q.unit with
  | none => s.answerUnit q 1 0
  | some h =>
    if s.unitPart h ≠ some q.part then s.answerUnit q 1 0
    else if h.agent.isNone && h.cls != 2 then (s.freeUnit q.unit).answerUnit q 0 0
    else if h.recalled.isSome || (match h.gang with | some g => !s.residentGang g | none => false) then
      s.setWaits q (some q.unit) false
    else s.postRecall q q.unit

/-- R301: a request is taken by its arbiter. -/
def State.arbitration (s : State) (id : Nat) : State :=
  match SMap.find s.unitReqs id with
  | none => s
  | some q =>
    if q.waits.isSome then s
    else match q.src with
      | 3 => s.frecallArrives q
      | 4 => s.frelArrives q
      | _ => s.arbitrate q

/-- R301: ARBITRATION, for a request. -/
def execArbitration (s : State) : Res := .next (s.arbitration s.ev.a)

/-- A request leaves for its arbiter: the slice of the facets, or the device arbiter of the clause arrays (R301). -/
def State.sendUnitReq (s : State) (q : UnitReq) : State :=
  let place := if q.unit < 4096 then q.unit / 32 else 128
  let s := { s with unitReqs := SMap.put s.unitReqs q.id q }
  s.post (unitChan 1 (place * 4096 + q.core)) .arbitration ⟨q.id, 0, 0, 0, []⟩

/-! ### The surrender routine (R303 to R308) -/

/-- What a context waits for once a routine has ended in it: the result of an acquire still; an mtile, a park or a wait of the
routine is over with it (R305). -/
def Wait.afterRoutine : Wait → Wait
  | .arrival i => .arrival i
  | .checked => .checked
  | _ => .none

/-- The control context's state comes back and the routine is over (R305, R312). -/
def State.endRoutine (s : State) (core : Nat) : State :=
  ((s.restoreFrame core 0).modCtx core 0 fun t => { t with rt := false, wait := t.wait.afterRoutine }).modCore core fun k =>
    { k with running := none, rcount := 0 }

/-- The recall that a record stands for is still open. -/
def State.openRecall (s : State) (r : Recall) : Bool :=
  match SMap.find s.units r.unit with
  | some h => h.recalled == some r.req
  | none => false

/-- An answer of REFUSE that is honoured: the requester learns it, and its refusal count rises (R306). -/
def State.refuse (s : State) (r : Recall) : State :=
  let h := SMap.get {} s.units r.unit
  let s := { s with units := SMap.put s.units r.unit { h with recalled := none } }
  let ws := s.waiting r.unit
  let s := match ws.find? fun q => q.id == r.req with
    | some q => { s with refusals := SMap.put s.refusals (refusalKey q r.unit) (s.refusalsOf q r.unit + 1) }.answerUnit q 2 0
    | none => s
  (ws.filter fun q => q.id != r.req).foldl State.rearbitrate s

/-- R306: the answer of fans for the record that entered the routine: FINISH 0, SUMMARISE 1, REFUSE 2. -/
def State.answerRecall (s : State) (r : Recall) (ans : Nat) : State :=
  if !s.openRecall r then s
  else match ans with
    | 0 =>
      if r.src = 3 then s.freeUnit r.unit
      else
        let h := SMap.get {} s.units r.unit
        { s with units := SMap.put s.units r.unit { h with finish := true } }.postAt (s.now + 65536) 0 .finishDeadline
          ⟨r.unit, 0, r.req, 0, []⟩
    | 1 => s.freeUnit r.unit
    | _ => if r.force then s.freeUnit r.unit else s.refuse r

/-- R306: FINISH_DEADLINE, for a unit and the recall that was answered FINISH: a unit still held is revoked. -/
def State.finishEnds (s : State) (u req : Nat) : State :=
  match SMap.find s.units u with
  | some h => if h.finish ∧ h.recalled = some req then s.freeUnit u else s
  | none => s

def execFinishDeadline (s : State) : Res := .next (s.finishEnds s.ev.a s.ev.c)

/-- The control context of a core can enter the routine for the head record now (R304, R359). -/
def State.routineReady (s : State) (core : Nat) : Bool :=
  let k := s.core core
  let t := k.ctx 0
  !k.recalls.isEmpty && k.running.isNone && k.routine != 0 && t.status == .running && !t.ih && !k.ex.phase
    && (match t.wait with | .sync _ => false | .arrival _ => false | .walk _ _ => false | .checked => false | .entry _ => false | _ => true)

/-- The head record overruns at once: there is no routine, or no control context to run it (R305). -/
def State.routineAbsent (s : State) (core : Nat) : Bool :=
  let k := s.core core
  let t := k.ctx 0
  !k.recalls.isEmpty && k.running.isNone
    && (k.routine == 0 || t.status == .ended || t.status == .free || (t.status == .halted && t.hk != 2))

/-- The routine's entry is held back: by the local accesses of the control context, or by the guard over its frame (R74, R192,
R304). -/
def State.routineHeld (s : State) (core : Nat) : Bool := s.accessing core 0 || s.frameGuarded core 0

/-- The control context saves its state as at trap entry and enters the routine with the head record (R304). -/
def State.enterNow (s : State) (core : Nat) : State :=
  match (s.core core).recalls with
  | [] => s
  | r :: rest =>
    let s := s.unpark core 0
    let arrived := fixedAt (s.ctxAt core 0).pend
    let s := s.modCtx core 0 Ctx.drain
    let t := s.ctxAt core 0
    let s := s.saveFrame core 0 t.trec t.taddr []
    let k := s.core core
    let i := s.newId
    let s := (s.modCtx core 0 fun t =>
      let t := { t.markFrame with
        rt := true, st := clearFrame (clearPrefix t.st), pc := BitVec.ofNat 52 k.routine, frame := [], walked := [],
        frameAt := k.tfa.toNat, wait := .none, readyAt := Nat.max s.now arrived + 33 }
      (t.produce 1 fun slot reg => { id := i, slot := some slot, reg := reg, val := some r.word, slotAt := s.now,
                                     regAt := s.now }).settle s.now).useId
    s.modCore core fun k => { k with recalls := rest, running := some r, rcount := 0 }

/-- R304: the routine is entered, or its control context waits until it can be. -/
def State.enterRoutine (s : State) (core : Nat) : State :=
  if !s.routineReady core then s
  else if s.routineHeld core then (s.unpark core 0).modCtx core 0 fun t => { t with wait := .entry none }
  else s.enterNow core

/-- A trap or a routine that waits is entered once nothing holds it back; a routine whose record is gone is not (R304, R356). -/
def State.enters (s : State) (core ctx : Nat) : State :=
  let freed := s.modCtx core ctx fun t => { t with wait := .none }
  match (s.ctxAt core ctx).wait with
  | .entry (some i) => if s.entryHeld core ctx then s else freed.trapNow core ctx i
  | .entry none =>
    if (s.core core).recalls.isEmpty || (s.core core).routine == 0 then freed
    else if s.routineHeld core then s else freed.enterNow core
  | _ => s

/-- R304: ROUTINE_ENTRY, for a core. -/
def execRoutineEntry (s : State) : Res := .next (s.enterRoutine s.ev.a)

/-- The message of an overrun (R305, R362). -/
def State.overrunMsg (s : State) (core : Nat) (r : Recall) : State :=
  s.message (s.partOf core) { s.ctxMsg core 0 4 0 0 with taddr := word r.unit }

/-- R305: a routine overruns, or a record that no routine can take: the unit is revoked, a message names it, and the
control context's state is restored. -/
def State.routineOverruns (s : State) (core : Nat) : State :=
  match (s.core core).running with
  | some r =>
    let s := s.overrunMsg core r
    let s := if s.openRecall r then s.freeUnit r.unit else s
    s.endRoutine core
  | none =>
    match (s.core core).recalls with
    | [] => s
    | r :: rest =>
      let s := (s.modCore core fun k => { k with recalls := rest }).overrunMsg core r
      if s.openRecall r then s.freeUnit r.unit else s

/-- R305: ROUTINE_OVERRUN, for a core. -/
def execRoutineOverrun (s : State) : Res := .next (s.routineOverruns s.ev.a)

/-- The queued records of a core are withdrawn and their requests arbitrated again (R310). -/
def State.withdrawRecalls (s : State) (core : Nat) : State :=
  let rs := (s.core core).recalls
  let s := if rs.isEmpty then s else s.modCore core fun k => { k with recalls := [] }
  rs.foldl (fun s r =>
    if s.openRecall r then
      let h := SMap.get {} s.units r.unit
      let s := { s with units := SMap.put s.units r.unit { h with recalled := none } }
      (s.waiting r.unit).foldl State.rearbitrate s
    else s) s

/-! ### The instructions (R311 to R313) -/

/-- The requester and the charge of a context's request (R299, R302). -/
def State.unitReq (s : State) (src id u : Nat) : UnitReq :=
  let g := s.curCore.gang.getD 0
  let ch := (s.gang g).chain
  { id := id, src := src, core := s.cc, ctx := s.cx, who := (0, g), unit := u, part := s.partOf s.cc, pri := ch.pri, links := ch.links }

/-- R311: facq. -/
def execFacq (S : Stall) (d a : Opnd) (c : BitVec 2) (k : BitVec 1) (s : State) : Res :=
  s.issue { reads := [a], ready := s.ldRoom } fun s =>
    let v := s.opnd a
    let u := fld v 0 12
    let any := bit v 12
    let i := s.newId
    let rt := s.cur.rt
    let none_ := s.curCore.routine == 0
    let q := { s.unitReq 0 i (if k = 1 then 4096 + u else u) with any := any, cls := c.toNat, routine := rt }
    let s := (((s.countOp i).longResult d).setUnr s.cc).finish S
    let say (sts : Nat) : State := s.respond s.cc s.cx i { v := unitWord (k == 1) sts 0 }
    if v.toNat / 2 ^ 13 ≠ 0 ∨ (k = 1 ∧ !any ∧ 63 < u) then say 3
    else if rt && c == 2 then say 6
    else if c = 2 && none_ then say 5
    else s.sendUnitReq q

/-- R312: fsur: only the control context, outside a routine (cause 62); a misaligned address takes cause 1. -/
def execFsur (S : Stall) (d a : Opnd) (s : State) : Res :=
  s.issue { reads := [a] } fun s =>
    let v := (s.opnd a).toNat
    if s.cx ≠ 0 || s.cur.rt then s.exact 62 0
    else if v % 4 ≠ 0 ∨ 2 ^ 52 ≤ v then s.exact 1 v
    else
      let old := s.curCore.routine
      (s.modCurCore fun k => { k with routine := v }).opOwn S d 1 (word old)

/-- R312: fans: the record is answered and the interrupted state restored. -/
def execFans (_S : Stall) (n : BitVec 2) (s : State) : Res :=
  s.issue { ready := s.cur.drained } fun s =>
    if s.cx ≠ 0 then s.exact 62 0
    else if !s.cur.rt then s.exact 60 0
    else
      let s := match s.curCore.running with
        | some r => s.answerRecall r n.toNat
        | none => s
      s.endRoutine s.cc

/-- A request of frel or frecall: counted in ldc, its result pending; the partition of a frecall is the one that the core supervises
(R313, R351). -/
def State.unitRelease (s : State) (src : Nat) (S : Stall) (d a : Opnd) : State :=
  let i := s.newId
  let q := { s.unitReq src i (fld (s.opnd a) 0 13) with part := s.actsFor s.cc }
  ((((s.countOp i).longResult d).setUnr s.cc).finish S).sendUnitReq q

/-- R313: frel. -/
def execFrel (S : Stall) (d a : Opnd) (s : State) : Res :=
  s.issue { reads := [a], ready := s.cur.drained } fun s => s.unitRelease 4 S d a

/-- R313: frecall: only on the supervisor core of a partition (cause 63). -/
def execFrecall (S : Stall) (d a : Opnd) (s : State) : Res :=
  s.issue { reads := [a], ready := s.cur.drained } fun s =>
    if s.level s.cc = 0 then s.exact 63 0 else s.unitRelease 3 S d a

end Sys2Proof.Machine
end

