-- ==== Sys2Proof/Machine/Keyed.lean ====
section
/-! DEFINITION. The keyed space: maps, buckets, growth, the combining buffer, publications, and the keyed instructions
(R205 to R228, R425). -/
namespace Sys2Proof.Machine

/-! ### Values and places (R208, R209) -/

/-- Value and key widths in bits, and entries of a bucket (R207, R210). -/
def KMap.vbits (m : KMap) : Nat := if m.vw then 64 else 32
def KMap.kbits (m : KMap) : Nat := if m.kw then 64 else 32
def KMap.room (m : KMap) : Nat := if m.kw && m.vw then 3 else if m.kw || m.vw then 4 else 7

/-- The new value of a present key (R208). -/
def KMap.combine (m : KMap) (old v : Nat) : Nat :=
  let w := m.vbits
  match m.op with
  | 0 => (old + v) % 2 ^ 32
  | 1 => (old + v) % 2 ^ 64
  | 2 => (f32.add 0 (f32.read old) (f32.read v)).1
  | 3 => if sgn w v < sgn w old then v else old
  | 4 => Nat.min old v
  | 5 => (f32.min 0 (f32.read old) (f32.read v)).1
  | 6 => if sgn w old < sgn w v then v else old
  | 7 => Nat.max old v
  | 8 => (f32.max 0 (f32.read old) (f32.read v)).1
  | 9 => old ||| v
  | 10 => old ^^^ v
  | 11 => v
  | 12 => old
  | _ => (old + 1) % 2 ^ w

/-- The value an absent key is inserted with (R208). -/
def KMap.fresh (m : KMap) (v : Nat) : Nat := if m.op = 13 then 1 else v

/-- The extension of a returned value (R208). -/
def KMap.extend (m : KMap) (v : Nat) : Word :=
  if m.op = 0 ∨ m.op = 3 ∨ m.op = 6 then iword (sgn m.vbits v) else word v

/-- R209: the hash of a key, the slice index and the bucket number. -/
def keyHash (k : Nat) : Nat := k * 0x9E3779B97F4A7C15 % 2 ^ 64 / 2 ^ 32
def KMap.index (m : KMap) (k : Nat) : Nat := if m.lgs = 0 then 0 else keyHash k / 2 ^ (32 - m.lgs)
def KSlice.bucket (x : KSlice) (b0 k : Nat) : Nat :=
  let b := keyHash k % (b0 * 2 ^ x.l)
  if b < x.p then keyHash k % (b0 * 2 ^ (x.l + 1)) else b

/-- Primary buckets of a slice (R215). -/
def KSlice.buckets (x : KSlice) (b0 : Nat) : Nat := b0 * 2 ^ x.l + x.p
/-- Entries of a slice. -/
def KSlice.count (x : KSlice) : Nat := x.chains.foldl (fun n c => n + c.2.ents.length) 0

def KMap.slice (m : KMap) (i : Nat) : KSlice := SMap.get {} m.slices i
def State.map (s : State) (id : Nat) : Option KMap := SMap.find s.maps id
def State.putMap (s : State) (id : Nat) (m : KMap) : State := { s with maps := SMap.put s.maps id m }
def State.putSlice (s : State) (id i : Nat) (x : KSlice) : State :=
  match s.map id with
  | some m => s.putMap id { m with slices := SMap.put m.slices i x }
  | none => s
def KSlice.chain (x : KSlice) (b : Nat) : KChain := SMap.get ⟨0, [], [], 0⟩ x.chains b
def KSlice.putChain (x : KSlice) (b : Nat) (c : KChain) : KSlice := { x with chains := SMap.put x.chains b c }

/-! ### Bucket places (R211) -/

/-- Places of the extents in use: every home place, and the overflow buckets that lie there. -/
def KSlice.extUsed (x : KSlice) : List Nat :=
  x.chains.flatMap fun c => c.2.home :: (c.2.places.drop 1).filterMap fun p => if p.1.isNone then some p.2 else none
/-- Places of a facet in use. -/
def KSlice.facUsed (x : KSlice) (u : Nat) : List Nat :=
  x.chains.flatMap fun c => c.2.places.filterMap fun p => if p.1 = some u then some p.2 else none

def firstFree (used : List Nat) (n : Nat) : Option Nat := firstOf (fun k => !used.contains k) (List.range n)

/-- A place in a held facet that has room. -/
def KSlice.facetPlace (x : KSlice) : Option (Option Nat × Nat) :=
  x.facets.findSome? fun u => (firstFree (x.facUsed u) 1024).map fun k => (some u, k)

/-- A free extent place, or one of a new extent where the budget allows it. -/
def State.extentPlace (s : State) (m : KMap) (x : KSlice) : Option (State × KSlice × Nat) :=
  match firstFree x.extUsed (1024 * x.exts) with
  | some k => some (s, x, k)
  | none => if s.fits m.links 2 1 then some (s.charge m.links 2 1, { x with exts := x.exts + 1 }, 1024 * x.exts) else none

/-- A place for an overflow bucket: a facet first, or an extent first. -/
def State.overflowPlace (s : State) (m : KMap) (x : KSlice) (facetFirst : Bool) : Option (State × KSlice × (Option Nat × Nat)) :=
  let e := (s.extentPlace m x).map fun r => (r.1, r.2.1, ((none : Option Nat), r.2.2))
  let f := x.facetPlace.map fun p => (s, x, p)
  if facetFirst then (match f with | some r => some r | none => e) else (match e with | some r => some r | none => f)

/-- Give a chain up to `n` more places, as far as they can be had; the number that could not. -/
def State.addPlaces (s : State) (m : KMap) (x : KSlice) (b : Nat) (facetFirst : Bool) : Nat → State × KSlice × Nat
  | 0 => (s, x, 0)
  | n + 1 =>
    match s.overflowPlace m x facetFirst with
    | none => (s, x, n + 1)
    | some (s, x, p) =>
      let c := x.chain b
      s.addPlaces m (x.putChain b { c with places := c.places ++ [p] }) b facetFirst n

/-- Buckets that a number of entries needs (R210). -/
def bucketsFor (room n : Nat) : Nat := Nat.max 1 ((n + room - 1) / room)

/-- A chain placed anew under R211, none where something it needs cannot be had. -/
def State.placeChain (s : State) (m : KMap) (x : KSlice) (b home : Nat) (ents : List (Nat × Nat)) : Option (State × KSlice) :=
  let p := x.facetPlace.getD (none, home)
  let (s, x, short) := s.addPlaces m (x.putChain b ⟨home, ents, [p], 0⟩) b true (bucketsFor m.room ents.length - 1)
  if short = 0 then some (s, x) else none

/-! ### Facets of a map (R217) -/

/-- A slice asks for a facet of the map's class, once at a time (R217). -/
def State.askFacet (s : State) (id i : Nat) : State :=
  match s.map id with
  | none => s
  | some m =>
    let x := m.slice i
    if x.asked || x.facetPlace.isSome then s
    else
      let q : UnitReq := { id := s.newId, src := 1, core := 2048, who := (1, id), unit := 32 * (m.slb + i), any := true,
                           cls := m.cls, pri := m.pri, links := m.links }
      (s.putSlice id i { x with asked := true }).useId.sendUnitReq q

/-- The key operand of an operation (R209). -/
def KMap.key (m : KMap) (k : Word) : Nat := k.toNat % 2 ^ m.kbits

/-- The version of a map id (R205). -/
def State.version (s : State) (id : Nat) : Nat := SMap.get 1 s.versions id

/-- The partition of the gang of an operation. -/
def State.kpart (s : State) (r : KReq) : Nat := (s.gang r.gang).chain.part

/-- The fields of a handle, and the map of a live handle of a partition (R206). -/
def handleId (h : Word) : Nat := fld h 32 20
def State.liveMap (s : State) (part : Nat) (h : Word) : Option KMap :=
  match s.map (handleId h) with
  | some m => if m.part = part ∧ fld h 52 12 = s.version (handleId h) then some m else none
  | none => none

/-- A kups has to wait: the buffer is full and holds no entry for it (R214). -/
def State.bufferFull (s : State) (slice id key gang : Nat) : Bool :=
  let cs := SMap.get [] s.combs slice
  64 ≤ cs.length && !(cs.any fun e => e.map == id && e.key == key && e.gang == gang)

/-! ### The order of acceptance (R213, R214, R216) -/

/-- The slice at which an operation is to be accepted next. -/
def State.kslice (s : State) (r : KReq) : Nat :=
  match s.map (handleId r.handle) with
  | none => 0
  | some m =>
    if r.op < 4 then m.slb + m.index (m.key r.key)
    else if r.op = 8 then m.slb + fld r.cur 48 7 % 2 ^ m.lgs
    else if r.op = 9 ∧ fld r.v 0 4 = 2 then m.slb + fld r.v 7 7 % 2 ^ m.lgs
    else m.slb + r.at_

/-- An operation has a slice still to visit: a kiter and a kstat of a sum go on to the end of the map (R227, R228). -/
def State.kvisits (s : State) (r : KReq) (slice : Nat) : Bool :=
  match s.map (handleId r.handle) with
  | none => s.kslice r == slice
  | some m =>
    if r.op = 8 ∨ r.op = 9 ∧ [0, 3, 4, 5, 7].contains (fld r.v 0 4) then s.kslice r ≤ slice && slice < m.slb + 2 ^ m.lgs
    else s.kslice r == slice

/-- An earlier operation of the same context has not performed at a slice yet: operations of one context to one slice arrive in
program order (R213, R223). -/
def State.kbehind (s : State) (r : KReq) (slice : Nat) : Bool :=
  s.kreqs.any fun e => e.2.core == r.core && e.2.ctx == r.ctx && e.1 < r.id && s.kvisits e.2 slice

/-- The bucket that an operation on a key is for, with its map, and what holds it (R210). -/
def State.kbucket (s : State) (r : KReq) : Option (Nat × Nat × Nat) :=
  if r.op < 4 then
    (s.liveMap (s.kpart r) r.handle).map fun m =>
      let k := m.key r.key
      let x := m.slice (m.index k)
      let b := x.bucket m.b0 k
      (handleId r.handle, b, (x.chain b).state)
  else none

/-- A split step or a migration holds the bucket of an operation (R210, R216, R217). -/
def State.kheld (s : State) (r : KReq) : Bool := match s.kbucket r with | some (_, _, st) => st != 0 | none => false

/-- A kups finds the combining buffer full (R214). -/
def State.kfull (s : State) (r : KReq) (slice : Nat) : Bool :=
  r.op == 2 && (match s.liveMap (s.kpart r) r.handle with
    | some m => s.bufferFull slice (handleId r.handle) (m.key r.key) r.gang
    | none => false)

/-- An operation that has arrived at a slice can be accepted there, or has to go on: it waits behind what arrived before it, but
not behind an operation whose bucket, another one, is held (R213, R214, R216). -/
def State.kgoes (s : State) (slice : Nat) (r : KReq) : Bool :=
  s.kslice r != slice ||
    (!s.kheld r && !s.kfull r slice && ((SMap.get [] s.kwait slice).takeWhile (· != r.id)).all fun i =>
      match SMap.find s.kreqs i with
      | none => true
      | some e => s.kslice e != slice || s.kbehind e slice || (s.kheld e && s.kbucket e != s.kbucket r))

/-- The first operation that waits at a slice and can be accepted comes up again (R214, R216). -/
def State.knext (s : State) (slice : Nat) : State :=
  let can (i : Nat) : Bool := match SMap.find s.kreqs i with | some r => s.kgoes slice r | none => false
  match (SMap.get [] s.kwait slice).find? can with
  | none => s
  | some i => s.postAt (s.now + 1) 0 .keyedOperationAccept ⟨i, 1, 0, 0, []⟩

/-- The buckets of a slice that a split step (1) or a migration (2) holds are idle again (R210). -/
def KSlice.idle (x : KSlice) (st : Nat) : KSlice :=
  { x with chains := SMap.mapVals x.chains fun c => if c.state = st then { c with state := 0 } else c }
/-- A bucket of a slice is held. -/
def KSlice.held (x : KSlice) (b st : Nat) : KSlice := x.putChain b { x.chain b with state := st }

/-- One bucket moves into a granted facet: primary buckets first, in ascending number; it stays in migration until the move
is done; an overflow bucket frees its place in an extent (R210, R217, R425). -/
def KSlice.moveIn (x : KSlice) (u : Nat) : Option KSlice :=
  if !x.facets.contains u then none
  else match firstFree (x.facUsed u) 1024 with
  | none => none
  | some k =>
    let prim := x.chains.find? fun c => match c.2.places with | p :: _ => p.1.isNone | [] => false
    match prim with
    | some (b, c) => some (x.putChain b { c with places := (some u, k) :: c.places.drop 1, state := 2 })
    | none =>
      match x.chains.find? fun c => c.2.places.any fun p => p.1.isNone with
      | none => none
      | some (b, c) =>
        let (a, z) := c.places.span fun p => p.1.isSome
        some { x.putChain b { c with places := a ++ [(some u, k)] ++ z.drop 1, state := 2 } with blocked := false }

/-- R217: FACET_MIGRATION, for a map, a slice index and a facet: the bucket in migration has moved, and the next one is held. -/
def State.migrate (s : State) (id i u : Nat) : State :=
  match s.map id with
  | none => s
  | some m =>
    let x := (m.slice i).idle 2
    match x.moveIn u with
    | none => (s.putSlice id i x).knext (m.slb + i)
    | some x => ((s.putSlice id i x).knext (m.slb + i)).post 0 .facetMigration ⟨id, i, u, 0, []⟩

def execFacetMigration (s : State) : Res := .next (s.migrate s.ev.a s.ev.b s.ev.c)

/-- A chain leaves a facet: its primary bucket goes home, its overflow buckets to extents or other facets; entries beyond
the room left are discarded (R217). -/
def State.evacuate (s : State) (m : KMap) (x : KSlice) (b u : Nat) : State × KSlice :=
  let c := x.chain b
  let prim := match c.places with | p :: _ => if p.1 = some u then (none, c.home) else p | [] => (none, c.home)
  let keep := (c.places.drop 1).filter fun p => p.1 != some u
  let gone := (c.places.drop 1).length - keep.length
  let (s, x, _) := s.addPlaces m (x.putChain b { c with places := prim :: keep }) b false gone
  let c := x.chain b
  let cap := m.room * c.places.length
  (s, { x.putChain b { c with ents := c.ents.take cap } with lost := Nat.min (x.lost + (c.ents.length - cap)) 0xFFFFFFFF })

/-- R217: MAP_UNIT_SURRENDER, for a facet and the request whose recall it answers: the map unit answers SUMMARISE. -/
def State.mapSurrender (s : State) (u req : Nat) : State :=
  match SMap.find s.units u with
  | none => s
  | some h =>
    if !h.underRecall req then s
    else match h.agent with
    | some (1, id) =>
      match s.map id with
      | none => s
      | some m =>
        let i := u / 32 - m.slb
        let x := m.slice i
        let x := { x with facets := x.facets.filter (· != u) }
        let (s, x) := (x.chains.map (·.1)).foldl (fun (a : State × KSlice) b => a.1.evacuate m a.2 b u) (s, x)
        (s.putSlice id i x).freeUnit u
    | _ => s

def execMapUnitSurrender (s : State) : Res := .next (s.mapSurrender s.ev.a s.ev.c)

/-! ### Growth (R215, R216, R425) -/

/-- The slice of a map after a split step; none where the step cannot begin (R216, R425). -/
def State.trySplit (s : State) (m : KMap) (x : KSlice) : Option (State × KSlice) :=
  let n := m.b0 * 2 ^ x.l
  let c := x.chain x.p
  let stay := c.ents.filter fun e => keyHash e.1 % (2 * n) == x.p
  let move := c.ents.filter fun e => keyHash e.1 % (2 * n) != x.p
  let x := x.putChain x.p ⟨c.home, [], [], 0⟩
  match s.extentPlace m x with
  | none => none
  | some (s, x, home) =>
    match s.placeChain m (x.putChain (x.p + n) ⟨home, [], [], 0⟩) x.p c.home stay with
    | none => none
    | some (s, x) =>
      match s.placeChain m x (x.p + n) home move with
      | none => none
      | some (s, x) =>
        let y := { x with pending := x.pending - 1 }
        some (s, if x.p + 1 = n then { y with l := x.l + 1, p := 0 } else { y with p := x.p + 1 })

/-- The gang that created a map is resident (R218). -/
def State.mapActive (s : State) (m : KMap) : Bool := match m.gang with | some g => s.residentGang g | none => false

/-- A bucket of a slice lies in an extent. -/
def KSlice.inExtent (x : KSlice) (b : Nat) : Bool := (x.chain b).places.any fun p => p.1.isNone

/-- A split step of a slice begins: it asks for a facet where it needs a bucket and the map holds none with room, and holds the two
buckets until it ends; a step that cannot begin is not tried again before R425 says so (R210, R216, R217, R425). -/
def State.beginSplit (s : State) (id i : Nat) (m : KMap) : State :=
  let s := (s.putSlice id i (m.slice i)).askFacet id i
  let x := ((s.map id).getD m).slice i
  match s.trySplit m x with
  | some (t, y) =>
    let new := x.p + m.b0 * 2 ^ x.l
    let t := t.putSlice id i ((y.held x.p 1).held new 1)
    (if y.inExtent x.p || y.inExtent new then t.askFacet id i else t).post 0 .splitStep ⟨id, i, 1, 0, []⟩
  | none => s.putSlice id i { x with stepping := false, blocked := true }

/-- R216: SPLIT_STEP, for a map, a slice index, and whether the step begins (0) or ends (1): a step that has begun completes. -/
def State.splitStep (s : State) (id i phase : Nat) : State :=
  match s.map id with
  | none => s
  | some m =>
    let x := m.slice i
    if phase = 1 then (s.putSlice id i { x.idle 1 with stepping := false }).knext (m.slb + i)
    else if x.pending = 0 || !s.mapActive m then s.putSlice id i { x with stepping := false }
    else s.beginSplit id i m

def execSplitStep (s : State) : Res := .next (s.splitStep s.ev.a s.ev.b s.ev.c)

/-- An insert that crosses the threshold schedules a step (R215). -/
def KMap.schedule (m : KMap) (x : KSlice) : KSlice :=
  if m.t ≠ 0 ∧ m.t * m.room * x.buckets m.b0 < 256 * x.count ∧ x.buckets m.b0 < 2 ^ 24 then
    { x with pending := Nat.min (x.pending + 1) 65535, blocked := false }
  else x

/-- Steps that are pending and not yet on their way are put on it (R216, R218, R425). -/
def State.keyedCycle (s : State) : State :=
  s.maps.foldl (fun s e =>
    if s.mapActive e.2 then
      e.2.slices.foldl (fun s x =>
        if x.2.pending != 0 && !x.2.stepping && !x.2.blocked then
          (s.putSlice e.1 x.1 { x.2 with stepping := true }).post 0 .splitStep ⟨e.1, x.1, 0, 0, []⟩
        else s) s
    else s) s

/-! ### The four entry operations (R212 to R214, R221) -/

/-- The entry of a key in a slice. -/
def KSlice.find (x : KSlice) (b0 k : Nat) : Option Nat :=
  ((x.chain (x.bucket b0 k)).ents.find? fun e => e.1 == k).map (·.2)

/-- Replace the value of a present key. -/
def KSlice.replace (x : KSlice) (b0 k v : Nat) : KSlice :=
  let b := x.bucket b0 k
  let c := x.chain b
  x.putChain b { c with ents := c.ents.map fun e => if e.1 = k then (k, v) else e }

/-- Remove a key: the last entry of the chain moves into the hole, an empty overflow bucket is freed, with which a step may be
tried again (R210, R425). -/
def KSlice.remove (x : KSlice) (room b0 k : Nat) : KSlice :=
  let b := x.bucket b0 k
  let c := x.chain b
  let (a, z) := c.ents.span fun e => e.1 != k
  match z with
  | [] => x
  | _ :: z =>
    let ents := match z.getLast? with | some e => a ++ [e] ++ z.dropLast | none => a
    let n := bucketsFor room ents.length
    { x.putChain b { c with ents := ents, places := c.places.take n } with blocked := x.blocked && c.places.length ≤ n }

/-- Append an absent key, with an overflow bucket where the chain is full; none where there is no room (R211). -/
def State.insert (s : State) (m : KMap) (x : KSlice) (k v : Nat) : Option (State × KSlice) :=
  let b := x.bucket m.b0 k
  let c := x.chain b
  let (s, x, short) :=
    if c.ents.length < m.room * c.places.length then (s, x, 0) else s.addPlaces m x b true 1
  let c := x.chain b
  if short = 0 then some (s, x.putChain b { c with ents := c.ents ++ [(k, v)] }) else none

/-- Journal the first change of a group to a key in a superstep (R221). -/
def State.journalKey (s : State) (r : KReq) (id key slice : Nat) (old : Option Nat) : State :=
  let g := r.gang
  let i := r.group
  if !(s.gang g).chain.rbe then s
  else
    let js := SMap.get [] s.journals slice
    if js.any fun r => r.gang == g && (match r.keyed with | some (a, b, _) => a == id && b == key | none => false) then s
    else if journalSize < (js.map recSize).foldl (· + ·) 24 then
      s.modGroup g i fun v => { v with unr := true, jov := true }
    else { s with journals := SMap.put s.journals slice (({ gang := g, group := i, line := 0, pre := [], keyed := some (id, key, old) } : JRec) :: js) }

/-- The combining buffer of a slice takes a kups: merged where an entry holds the same map, key and gang (R214). -/
def State.buffer (s : State) (slice id key gang v : Nat) : State :=
  let cs := SMap.get [] s.combs slice
  let same (e : CombEntry) : Bool := e.map == id && e.key == key && e.gang == gang
  if cs.any same then
    let upd (e : CombEntry) : CombEntry := if same e then { e with v := v } else e
    { s with combs := SMap.put s.combs slice (cs.map upd) }
  else
    let n := s.newId
    let s : State := { s with combs := SMap.put s.combs slice (cs ++ [⟨n, id, key, gang, v⟩]) }
    let s := s.useId
    (s.postAt (s.now + 4 + s.freeN 0) 0 .combiningBufferWrite ⟨slice, 0, n, 0, []⟩).renew

/-- An entry operation performs: kprobe 0, kins 1, kups 2, krem 3; its value and status (R212). -/
def State.entryOp (s : State) (r : KReq) (id : Nat) (m : KMap) : State × Nat × Nat :=
  let k := m.key r.key
  let i := m.index k
  let sl := m.slb + i
  let x := m.slice i
  let v := r.v.toNat % 2 ^ m.vbits
  let miss := m.miss % 2 ^ m.vbits
  match x.find m.b0 k, r.op with
  | some old, 0 => (s, old, 1)
  | some old, 1 => (s, old, 1)
  | some old, 2 =>
    let new := m.combine old v
    let s := (s.journalKey r id k sl (some old)).putSlice id i (x.replace m.b0 k new)
    (s.buffer sl id k r.gang new, new, 1)
  | some old, _ =>
    let s := (s.journalKey r id k sl (some old)).putSlice id i (x.remove m.room m.b0 k)
    let cs := (SMap.get [] s.combs sl).filter fun e => !(e.map == id && e.key == k)
    ({ s with combs := SMap.set [] s.combs sl cs }, old, 1)
  | none, 0 => (s, miss, 0)
  | none, 3 => (s, miss, 0)
  | none, op =>
    let new := if op = 2 then m.fresh v else v
    let full := (x.chain (x.bucket m.b0 k)).ents.length = m.room * (x.chain (x.bucket m.b0 k)).places.length
    let s := if full then s.askFacet id i else s
    let x := match s.map id with | some m => m.slice i | none => x
    match s.insert m x k new with
    | none => (s, miss, 3)
    | some (s, x) =>
      let s := (s.putSlice id i (m.schedule x)).journalKey r id k sl none
      ((if op = 2 then s.buffer sl id k r.gang new else s), new, 2)

/-! ### Map management (R219, R226) -/

/-- A handle is malformed (R206). -/
def badHandle (h : Word) : Bool := fld h 0 32 != 0 || handleId h == 0

/-- A descriptor as a map with no slices yet; none where it is malformed (R207, R224). -/
def mapOf (w0 w1 slb : Nat) : Option KMap :=
  let vw := bitsOf w1 1 1 == 1
  let op := bitsOf w1 8 8
  let lgs := bitsOf w1 16 3
  let b0 := bitsOf w1 32 13
  let cls := bitsOf w1 48 2
  if bitsOf w1 2 6 ≠ 0 ∨ bitsOf w1 19 5 ≠ 0 ∨ bitsOf w1 45 3 ≠ 0 ∨ bitsOf w1 50 14 ≠ 0 ∨ 13 < op ∨ b0 = 0 ∨ 4096 < b0
      ∨ cls % 2 = 1 ∨ slb % 2 ^ lgs ≠ 0 ∨ (op = 1 ∧ !vw) ∨ (vw ∧ (op = 0 ∨ op = 2 ∨ op = 5 ∨ op = 8)) then none
  else some { part := 0, miss := w0, kw := bitsOf w1 0 1 == 1, vw := vw, op := op, lgs := lgs, t := bitsOf w1 24 8,
              b0 := b0, cls := cls, slb := slb }

/-- The configuration as kstat and kcfg return it (R226, R228). -/
def KMap.config (m : KMap) : Nat :=
  b2n m.kw + 2 * b2n m.vw + 2 ^ 8 * m.op + 2 ^ 16 * m.lgs + 2 ^ 24 * m.t + 2 ^ 32 * m.b0 + 2 ^ 48 * m.cls
def KMap.kcfg (m : KMap) : Nat := m.t + 2 ^ 8 * m.cls

/-- A free map id, whichever it is; none where all are taken (R226). -/
def State.freeMapId (s : State) : Option Nat :=
  let c := s.freeN 0 % 65535 + 1
  if (s.map c).isNone then some c else firstOf (fun i => (s.map i).isNone) ((List.range 65535).map (· + 1))

/-- R226: knew: the map, its slices with their primary buckets at home, and a facet request each; the handle or 0. -/
def State.newMap (s : State) (r : KReq) (m : KMap) : State × Word :=
  let ch := (s.gang r.gang).chain
  let per := (m.b0 + 1023) / 1024
  let n := 2 ^ m.lgs
  match s.freeMapId with
  | none => (s, 0)
  | some id =>
    if !s.fits ch.links 2 (n * per) then (s, 0)
    else
      let s := s.charge ch.links 2 (n * per)
      let home (b : Nat) : Nat × KChain := (b, ⟨b, [], [(none, b)], 0⟩)
      let x : KSlice := { exts := per, chains := (List.range m.b0).map home }
      let m := { m with part := ch.part, links := ch.links, gang := some r.gang, pri := ch.pri,
                        slices := (List.range n).map fun i => (i, x) }
      let s := (s.putMap id m).renew
      ((List.range n).foldl (fun s i => s.askFacet id i) s, word (id * 2 ^ 32 + s.version id * 2 ^ 52))

/-- R226: kdel: the map's facets and extents go back, the version of the id moves on, the refusals it met are forgotten, and what
waits at its slices comes up again: it has not been accepted, and ends with late cause 30.  DEDUCED (log 179). -/
def State.deleteMap (s : State) (id : Nat) (m : KMap) : State :=
  let s := { s with unitReqs := s.unitReqs.filter fun e => !(e.2.src == 1 && e.2.who == (1, id)) }
  let s := m.slices.foldl (fun s x => x.2.facets.foldl State.freeUnit s) s
  let s := s.refund m.links 2 (m.slices.foldl (fun n x => n + x.2.exts) 0)
  let v := (s.version id + 1) % 4096
  let s := { s with maps := SMap.del s.maps id, versions := SMap.put s.versions id (if v = 0 then 1 else v),
                    combs := s.combs.map fun e => (e.1, e.2.filter fun c => c.map != id)
                    refusals := s.refusals.filter fun e => e.1 % 2 ^ 20 != 2 ^ 17 + id }
  (List.range (2 ^ m.lgs)).foldl (fun s i => s.knext (m.slb + i)) s

/-- R219: kpub: a publication is scheduled, or 1. -/
def State.schedulePub (s : State) (r : KReq) (a b : Nat) (m n : KMap) : State × Word :=
  if a = b ∨ m.pub.isSome ∨ n.pub.isSome then (s, 1)
  else
    let p (x : Nat) : Option (Nat × Nat × Nat) := some (x, r.gang, r.group)
    ((s.putMap a { m with pub := p b, lead := true }).putMap b { n with pub := p a, lead := false }, 0)

/-- Every use of a map's id as storage follows an exchange of two maps. -/
def swapId (a b x : Nat) : Nat := if x = a then b else if x = b then a else x

/-- R219, R220: two maps exchange their storage; the first one's VER rises. -/
def State.exchange (s : State) (a b : Nat) : State :=
  match s.map a, s.map b with
  | some m, some n =>
    let s := (s.putMap a { n with part := m.part, ver := m.ver + 1, pub := none, lead := false }).putMap b
      { m with part := n.part, ver := n.ver, pub := none, lead := false }
    let who (w : Nat × Nat) : Nat × Nat := if w.1 = 1 then (1, swapId a b w.2) else w
    let unit (h : UnitHold) : UnitHold := { h with agent := h.agent.map who }
    let req (q : UnitReq) : UnitReq := if q.src = 1 then { q with who := who q.who } else q
    let comb (c : CombEntry) : CombEntry := { c with map := swapId a b c.map }
    let step (p : Post) : Post :=
      if p.ev = .splitStep ∨ p.ev = .facetMigration then { p with args := { p.args with a := swapId a b p.args.a } } else p
    let s := { s with units := s.units.map fun e => (e.1, unit e.2), unitReqs := s.unitReqs.map fun e => (e.1, req e.2),
                      combs := s.combs.map fun e => (e.1, e.2.map comb), cal := s.cal.map step }
    (((List.range (2 ^ m.lgs)).map (m.slb + ·)) ++ ((List.range (2 ^ n.lgs)).map (n.slb + ·))).foldl State.knext s
  | _, _ => s

/-- The publications of a group take effect at its sync.x (R219). -/
def State.publish (s : State) (g i : Nat) : State :=
  s.maps.foldl (fun s e => match e.2.pub with
    | some (n, g', i') => if e.2.lead && g' == g && i' == i then s.exchange e.1 n else s
    | none => s) s

/-- A gang's pending publications are discarded (R222). -/
def State.dropPubs (s : State) (g : Nat) : State :=
  { s with maps := s.maps.map fun e => (e.1, match e.2.pub with
      | some (_, g', _) => if g' = g then { e.2 with pub := none, lead := false } else e.2
      | none => e.2) }

/-- A key goes back to its recorded value or absence (R222). -/
def State.restoreKey (s : State) (id key : Nat) (old : Option Nat) : State :=
  match s.map id with
  | none => s
  | some m =>
    let i := m.index key
    let x := m.slice i
    match old, x.find m.b0 key with
    | none, some _ => s.putSlice id i (x.remove m.room m.b0 key)
    | none, none => s
    | some v, some _ => s.putSlice id i (x.replace m.b0 key v)
    | some v, none => match s.insert m x key v with | some (s, x) => s.putSlice id i x | none => s

/-! ### Iteration and statistics (R227, R228) -/

/-- One chain of a kiter: the cursor after it, and the records; none where the iteration has ended.  Behind slice 127 the
iteration is complete, since SLI cannot name a slice after it. -/
def KMap.iterate (m : KMap) (cur : Word) (n : Nat) : Option (Word × List (Nat × Nat)) :=
  let sli := fld cur 48 7
  if 32 ≤ n ∨ bit cur 63 ∨ 2 ^ m.lgs ≤ sli then none
  else
    let x := m.slice sli
    let bkt := fld cur 16 32
    let pos := fld cur 0 16
    let ents := (x.chain bkt).ents.drop pos
    let out := ents.take (32 - n)
    if out.length < ents.length then some (putFld cur 0 16 (pos + out.length), out)
    else if bkt + 1 < x.buckets m.b0 then some (putFld (putFld cur 0 16 0) 16 32 (bkt + 1), out)
    else
      let next := putFld (putFld (putFld cur 0 16 0) 16 32 0) 48 7 (sli + 1)
      some (if sli = 127 then putFld next 63 1 1 else next, out)

/-- The item of kstat that one slice adds (R228). -/
def KSlice.stat (x : KSlice) (sel : Nat) : Nat :=
  match sel with
  | 0 => x.count
  | 3 => x.chains.foldl (fun n c => n + (c.2.places.filter fun p => p.1.isNone).length) 0
  | 4 => x.pending
  | 5 => x.facets.length + 2 ^ 32 * b2n x.asked
  | 7 => x.lost
  | _ => 0

/-! ### Acceptance (R213) -/

/-- The late fault of an operation: by the handle for causes 30 and 32, by the address of the descriptor for the others (R224,
R354). -/
def KReq.lateFault (r : KReq) (cause : Nat) : LateFault :=
  { kind := 2, cause := cause, pc := r.pc, access := 5
    det := if cause = 30 ∨ cause = 32 then handleId r.handle
      else if cause = 61 then ((r.dpa.headD facetBase) - facetBase) / 65536 else 0
    addr := if cause = 30 ∨ cause = 32 then 0 else r.va }

/-- An operation is answered on the response channel of its slice: its value, its status where it has one, the fault it carries, or
else the records of a kiter; its record goes (R8, R223, R224, R227). -/
def State.kanswer (s : State) (r : KReq) (v st : Word) (fault : Option Nat) : State :=
  let bytes := (r.recs.map fun e => toBytes 8 e.1 ++ toBytes 8 e.2).flatten
  { s with kreqs := SMap.del s.kreqs r.id }.respondOn (lsBack r.sl r.core) .resultArrival r.core r.ctx r.id
    { v := v, also := r.also.map fun i => (i, st), fault := fault.map r.lateFault,
      store := if fault.isSome || bytes.isEmpty then none else some (r.buf / 2 ^ 32, r.buf % 2 ^ 32, bytes) }

/-- An operation goes on at another slice. -/
def State.kagain (s : State) (r : KReq) : State :=
  { s with kreqs := SMap.put s.kreqs r.id { r with sl := s.kslice r } }.post (lsAcross r.sl (s.kslice r)) .keyedOperationAccept ⟨r.id, 0, 0, 0, []⟩

/-- What a kiter reads at one slice, chain by chain at one instant: the cursor and the records (R213, R227). -/
def KMap.sweep (m : KMap) : Nat → Word → List (Nat × Nat) → Word × List (Nat × Nat)
  | 0, cur, recs => (cur, recs)
  | fuel + 1, cur, recs =>
    match m.iterate cur recs.length with
    | none => (cur, recs)
    | some (next, out) =>
      if fld next 48 7 = fld cur 48 7 then m.sweep fuel next (recs ++ out) else (next, recs ++ out)

/-- A kiter at a slice: it goes on to the next one, or is answered (R227). -/
def State.kiterStep (s : State) (r : KReq) (m : KMap) : State :=
  let (cur, recs) := m.sweep ((m.slice (fld r.cur 48 7)).buckets m.b0 + 2) r.cur r.recs
  let r := { r with cur := cur, recs := recs }
  if (m.iterate cur recs.length).isSome then s.kagain r
  else
    let ended := bit cur 63 || 2 ^ m.lgs ≤ fld cur 48 7
    let w := putFld (putFld cur 56 6 recs.length) 63 1 (b2n (ended && (bit cur 63 || recs.length < 32)))
    s.kanswer r w 0 none

/-- One more slice of a kstat, or its answer (R228). -/
def State.kstatStep (s : State) (r : KReq) (m : KMap) : State :=
  let sel := fld r.v 0 4
  let i := fld r.v 7 7
  match sel with
  | 1 => s.kanswer r (word m.ver) 0 none
  | 2 => s.kanswer r (if i < 2 ^ m.lgs then word ((m.slice i).l % 256 + 2 ^ 8 * (m.slice i).p) else 0) 0 none
  | 6 => s.kanswer r (word m.config) 0 none
  | _ =>
    if 7 < sel then s.kanswer r 0 0 none
    else
      let sum := r.sum + (m.slice r.at_).stat sel
      if r.at_ + 1 < 2 ^ m.lgs then s.kagain { r with at_ := r.at_ + 1, sum := sum }
      else s.kanswer r (word (if sel = 7 then Nat.min sum 0xFFFFFFFF else sum)) 0 none

/-- The two words of a descriptor of knew, read as an ldg reads: one in a facet window needs the facet held (R300); one that the
domain window names is read through a port, here where it names this device, and with free words or a free fault elsewhere
(R117, R226). -/
def State.knewWords (s : State) (r : KReq) : Except Nat (Nat × Nat × State) :=
  match r.dpa with
  | [x, y] =>
    if [x, y].any fun pa => facetBase ≤ pa && !s.gangHolds (some r.gang) pa then .error 61
    else .ok (s.gread x 8, s.gread y 8, s)
  | _ =>
    let d := bitsOf r.va 42 9
    if (s.port (portTo d)).down then .error 18
    else
      let s := s.sendLater (portTo d) { dst := d, pay := .request [r.id, r.va, 16, r.gen] }
      if d = s.did then
        match s.ownPage r.core r.gen r.va 1 with
        | .error k => .error k
        | .ok (x, _, s) => match s.ownPage r.core r.gen (r.va + 8) 1 with
          | .error k => .error k
          | .ok (y, _, s) => .ok (s.gread x 8, s.gread y 8, s)
      else if s.freeB 1 then .error (if s.freeB 2 then 17 else 18)
      else .ok ((s.freeW 3).toNat, (s.freeW 4).toNat, s)

/-- R226: knew at its directory record. -/
def State.knewPerforms (s : State) (r : KReq) : State :=
  match s.knewWords r with
  | .error k => s.renew.kanswer r 0 0 (some k)
  | .ok (w0, w1, s) =>
    match mapOf w0 w1 (r.v.toNat % 128) with
    | none => s.renew.kanswer r 0 0 (some 32)
    | some m =>
      let (s, h) := s.newMap r m
      s.kanswer r h 0 none

/-- An operation performs at the instant of its acceptance (R212, R213, R226).  DEDUCED (log 178): late cause 16 comes before 30 and 32,
and an operation with late cause 32 delivers 0 (R224). -/
def State.kperform (s : State) (r : KReq) : State :=
  let id := handleId r.handle
  if r.gen ≠ (s.space r.asid).gen then s.kanswer r 0 0 (some 16)
  else if r.op = 4 then s.knewPerforms r
  else match s.liveMap (s.kpart r) r.handle with
  | none => s.kanswer r (if r.op = 6 then 1 else 0) 0 (some 30)
  | some m =>
    match r.op with
    | 5 => if m.pub.isSome then s.kanswer r 1 0 none else (s.deleteMap id m).kanswer r 0 0 none
    | 6 =>
      match s.liveMap (s.kpart r) r.v with
      | none => s.kanswer { r with handle := r.v } 1 0 (some 30)
      | some n =>
        let (s, w) := s.schedulePub r id (handleId r.v) m n
        s.kanswer r w 0 none
    | 7 =>
      if bit r.v 15 then s.kanswer r (word m.kcfg) 0 none
      else if bit r.v 8 then s.kanswer r 0 0 (some 32)
      else (s.putMap id { m with t := fld r.v 0 8, cls := fld r.v 8 2 }).kanswer r (word m.kcfg) 0 none
    | 8 => s.kiterStep r m
    | 9 => s.kstatStep r m
    | _ =>
      let (s, v, st) := s.entryOp r id m
      s.kanswer r (m.extend v) (word st) none

/-- R213: an operation reaches its slice, or comes up again there: it is accepted, or waits; one whose map has its storage
elsewhere by then goes on to it; one has not arrived before the earlier ones of its context (R214, R216, R219). -/
def State.kaccept (s : State) (id again : Nat) : State :=
  match SMap.find s.kreqs id with
  | none => s
  | some r =>
    let q := SMap.get [] s.kwait r.sl
    if again = 1 ∧ !q.contains id then s
    else if s.kslice r ≠ r.sl then ({ s with kwait := SMap.set [] s.kwait r.sl (q.filter (· != id)) }.kagain r).knext r.sl
    else if s.kbehind r r.sl then s.postAt (s.now + 1) 0 .keyedOperationAccept ⟨id, again, 0, 0, []⟩
    else if !s.kgoes r.sl r then
      if q.contains id then s else { s with kwait := SMap.put s.kwait r.sl (q ++ [id]) }
    else
      let s := { s with kwait := SMap.set [] s.kwait r.sl (q.filter (· != id)) }
      (s.kperform r).knext r.sl

/-- R213: KEYED_OPERATION_ACCEPT, for an operation. -/
def execKeyedOperationAccept (s : State) : Res := .next (s.kaccept s.ev.a s.ev.b)

/-- The bucket that an entry of the combining buffer of a slice is written to is held (R216). -/
def State.combHeld (s : State) (slice n : Nat) : Bool :=
  (SMap.get [] s.combs slice).any fun e => e.num == n && (match s.map e.map with
    | some m => let x := m.slice (slice - m.slb); (x.chain (x.bucket m.b0 e.key)).state != 0
    | none => false)

/-- R214: COMBINING_BUFFER_WRITE, for a slice and an entry: the bucket holds the merged value, and the entry retires; a write to a
held bucket waits (R216). -/
def State.combWrite (s : State) (slice n : Nat) : State :=
  if s.combHeld slice n then s.postAt (s.now + 1) 0 .combiningBufferWrite ⟨slice, 0, n, 0, []⟩
  else
    let cs := (SMap.get [] s.combs slice).filter fun e => e.num != n
    { s with combs := SMap.set [] s.combs slice cs }.knext slice

def execCombiningBufferWrite (s : State) : Res := .next (s.combWrite s.ev.a s.ev.c)

/-! ### The instructions (R225, R226) -/

/-- A keyed operation leaves for its slice, on the request channel of its core to it (R8, R213). -/
def State.ksend (s : State) (r : KReq) : State :=
  { s with kreqs := SMap.put s.kreqs r.id { r with sl := s.kslice r } }.post (lsChan r.core (s.kslice r)) .keyedOperationAccept ⟨r.id, 0, 0, 0, []⟩

/-- The record of an operation of the current context. -/
def State.kreq (s : State) (op : Nat) (handle : Word) : KReq :=
  let asid := s.asidOf s.cc
  { id := s.newId, core := s.cc, ctx := s.cx, op := op, handle := handle, asid := asid, gen := (s.space asid).gen,
    gang := s.curCore.gang.getD 0, group := (s.groupKey s.cc).elim 0 (·.2), pc := s.cur.wordPc.toNat }

/-- kprobe, kins, kups and krem: two pushes, the status slot first (R225). -/
def entryWord (op : Nat) (S : Stall) (d a e : Opnd) (s : State) : Res :=
  let reads := if op = 1 ∨ op = 2 then [a, q1, q2] else [a, q1]
  s.issue { reads := reads, ready := s.ldRoom } fun s =>
    let h := s.opnd a
    let k := s.opnd q1
    let v := s.opnd q2
    if badHandle h then s.exactHandle 31 h
    else
      let sid := s.newId
      let s := s.longResult e
      let r := { s.kreq op h with also := some sid, key := k, v := v }
      (((s.countOp r.id).longResult d).finish S).ksend r

/-- R225: kprobe. -/
def execKprobe (S : Stall) (d a e : Opnd) (s : State) : Res := entryWord 0 S d a e s
/-- R225: kins. -/
def execKins (S : Stall) (d a e : Opnd) (s : State) : Res := entryWord 1 S d a e s
/-- R225: kups. -/
def execKups (S : Stall) (d a e : Opnd) (s : State) : Res := entryWord 2 S d a e s
/-- R225: krem. -/
def execKrem (S : Stall) (d a e : Opnd) (s : State) : Res := entryWord 3 S d a e s

/-- R226: knew: the descriptor's address is checked and translated at issue; the superstep becomes unrepeatable. -/
def execKnew (S : Stall) (d a b : Opnd) (s : State) : Res :=
  s.issue { reads := [a, b], ready := s.ldRoom } fun s =>
    let addr := s.opn a
    let v := s.opnd b
    s.globalIssue addr 8 1 fun d0 s => s.globalIssue (addr + 8) 8 1 fun d1 s =>
      let dpa := match d0, d1 with | .here x, .here y => [x, y] | _, _ => []
      let r := { s.kreq 4 0 with v := v, dpa := dpa, va := addr }
      ((((s.countOp r.id).longResult d).setUnr s.cc).finish S).ksend r

/-- R226: kdel, kcfg: by handle; the superstep becomes unrepeatable. -/
def handleWord (op : Nat) (S : Stall) (d a : Opnd) (b : Option Opnd) (unr : Bool) (s : State) : Res :=
  s.issue { reads := a :: b.toList, ready := s.ldRoom } fun s =>
    let h := s.opnd a
    let v := match b with | some b => s.opnd b | none => 0
    if badHandle h then s.exactHandle 31 h
    else if op == 6 && badHandle v then s.exactHandle 31 v
    else
      let r := { s.kreq op h with v := v }
      let s := (s.countOp r.id).longResult d
      ((if unr then s.setUnr s.cc else s).finish S).ksend r

/-- R226: kdel. -/
def execKdel (S : Stall) (d a : Opnd) (s : State) : Res := handleWord 5 S d a none true s
/-- R219, R226: kpub. -/
def execKpub (S : Stall) (d a b : Opnd) (s : State) : Res := handleWord 6 S d a (some b) false s
/-- R226: kcfg. -/
def execKcfg (S : Stall) (d a b : Opnd) (s : State) : Res := handleWord 7 S d a (some b) true s
/-- R228: kstat. -/
def execKstat (S : Stall) (d a b : Opnd) (s : State) : Res := handleWord 9 S d a (some b) false s

/-- R227: kiter: the buffer is checked at issue, the cursor is q1.  DEDUCED (log 178): the buffer's causes 1 to 3 come before cause 31. -/
def execKiter (S : Stall) (d a b : Opnd) (s : State) : Res :=
  s.issue { reads := [a, b, q1], ready := s.ldRoom && !s.localWaits (s.opn b) } fun s =>
    let h := s.opnd a
    let buf := s.opn b
    let cur := s.opnd q1
    match s.target s.cc buf 16 512 with
    | .error c => s.exact c buf
    | .ok (tc, o) =>
      if badHandle h then s.exactHandle 31 h
      else
        let r := { s.kreq 8 h with buf := tc * 2 ^ 32 + o, cur := cur }
        (((s.countOp r.id).longResult d).finish S).ksend r

end Sys2Proof.Machine
end

