-- ==== Sys2Proof/Machine/Clause.lean ====
section
/-! DEFINITION. Clause arrays: columns, propagation, the trail, and the nine clause instructions (R315 to R330). -/
namespace Sys2Proof.Machine

/-- A cleared array (R299, R315). -/
def ClauseArr.init : ClauseArr := {}

/-! ### Columns and rounds (R316 to R318) -/

/-- The value of a literal: none while its variable is unassigned (R316). -/
def ClauseArr.lit (a : ClauseArr) (l : Nat × Bool) : Option Bool := (SMap.find a.vals l.1).map fun x => x.1 == l.2

/-- The counts of a column: false literals, unassigned literals, and whether one is true (R316). -/
def ClauseArr.counts (a : ClauseArr) (ls : List (Nat × Bool)) : Nat × Nat × Bool :=
  ((ls.filter fun l => a.lit l == some false).length, (ls.filter fun l => (a.lit l).isNone).length,
    ls.any fun l => a.lit l == some true)

/-- The status of an enabled column: 0 OPEN, 1 SAT, 2 UNIT, 3 CONF (R316, R329). -/
def ClauseArr.status (a : ClauseArr) (ls : List (Nat × Bool)) : Nat :=
  match a.counts ls with
  | (_, _, true) => 1
  | (_, 0, false) => 3
  | (_, 1, false) => 2
  | _ => 0

/-- A variable is assigned at the current level, behind the trail (R317, R327). -/
def ClauseArr.assign (a : ClauseArr) (v : Nat) (x : Bool) (reason : Nat) : ClauseArr :=
  { a with vals := SMap.put a.vals v (x, a.cl, a.trail.length), trail := a.trail ++ [⟨v, x, a.cl, reason⟩] }

/-- The forced values of a round, by ascending column; a column that loses a tie is in conflict (R317). -/
def ClauseArr.force (a : ClauseArr) : List (Nat × Nat × Bool) → List Nat → ClauseArr × List Nat
  | [], conf => (a, conf)
  | (c, v, x) :: us, conf =>
    match SMap.find a.vals v with
    | some y => a.force us (if y.1 = x then conf else conf ++ [c])
    | none => (a.assign v x c).force us conf

/-- What a round returns: 0 quiescent, 1 conflict, 2 all satisfied, 3 continue; the lowest conflicting column and their
count (R317). -/
structure Round where
  out : Nat
  col : Nat := 0
  count : Nat := 0
  deriving DecidableEq, Repr

def conflict (cs : List Nat) : Round := ⟨1, (minOf cs).getD 0, cs.length⟩

/-- R317: one round. -/
def ClauseArr.round (a : ClauseArr) : ClauseArr × Round :=
  let conf := (a.cols.filter fun c => a.status c.2 == 3).map (·.1)
  if !conf.isEmpty then (a, conflict conf)
  else
    let units := (a.cols.filter fun c => a.status c.2 == 2).filterMap fun c =>
      (c.2.find? fun l => (a.lit l).isNone).map fun l => (c.1, l.1, l.2)
    let (b, conf) := a.force units []
    if !conf.isEmpty then (b, conflict conf)
    else if units.isEmpty then (b, ⟨if b.cols.all fun c => b.status c.2 == 1 then 2 else 0, 0, 0⟩)
    else (b, ⟨3, 0, 0⟩)

/-- R318: rounds until one returns something other than continue, or the limit; and how many have run. -/
def ClauseArr.rounds : Nat → Nat → ClauseArr → ClauseArr × Round × Nat
  | 0, k, a => (a, ⟨3, 0, 0⟩, k)
  | n + 1, k, a =>
    let (b, r) := a.round
    if r.out = 3 then ClauseArr.rounds n (k + 1) b else (b, r, k + 1)

/-! ### Operations (R325 to R329) -/

/-- A result with a status (R325). -/
def clauseWord (sts low : Nat) : Word := word (2 ^ 63 + sts * 2 ^ 16 + low)

/-- A literal of a list, by its 16 bits: the variable and the sign; none where it is 0 or too large (R326). -/
def literal (n : Nat) : Option (Nat × Bool) :=
  let z := sgn 16 n
  if z = 0 ∨ 1024 < z.natAbs then none else some (z.natAbs - 1, decide (0 < z))

/-- A column from its literals; none on a tautology (R326). -/
def columnOf : List (Nat × Bool) → Option (SMap Bool)
  | [] => some []
  | (v, x) :: ls =>
    match columnOf ls with
    | none => none
    | some m =>
      match SMap.find m v with
      | some y => if x = y then some m else none
      | none => some (SMap.put m v x)

/-- cwr and clrn at the array; `free` stands for the low bits of a result that places nothing there (R325, R326). -/
def ClauseArr.write (a : ClauseArr) (lits : List Nat) (base : Nat) (learn : Bool) (free : Nat) : ClauseArr × Word :=
  if lits.any fun n => (literal n).isNone then (a, clauseWord 1 free)
  else match columnOf (lits.filterMap literal) with
  | none => (a, clauseWord 2 free)
  | some m =>
    let c := if learn then firstOf (fun c => (SMap.find a.cols c).isNone) ((List.range (4095 - base)).map (base + ·)) else some base
    match c with
    | none => (a, clauseWord 3 free)
    | some c => ({ a with cols := SMap.put a.cols c m }, clauseWord 0 c)

/-- cclr at the array (R326). -/
def ClauseArr.clear (a : ClauseArr) (b : Word) (free : Nat) : ClauseArr × Word :=
  let f := fld b 0 12
  let n := fld b 12 13
  if fld b 25 39 ≠ 0 ∨ n = 0 ∨ 4096 < f + n then (a, clauseWord 1 free)
  else ({ a with cols := a.cols.filter fun c => c.1 < f || f + n ≤ c.1 || c.1 == 4095 }, clauseWord 0 n)

/-- cdec at the array (R327). -/
def ClauseArr.decide (a : ClauseArr) (b : Word) : ClauseArr × Word :=
  let v := fld b 0 10
  if fld b 11 53 ≠ 0 then (a, clauseWord 1 a.cl)
  else if (SMap.find a.vals v).isSome then (a, clauseWord 4 a.cl)
  else if a.cl = 1023 then (a, clauseWord 5 a.cl)
  else ({ a with cl := a.cl + 1 }.assign v (bit b 10) 0xFFF, clauseWord 0 (a.cl + 1))

/-- cback at the array (R327): TL and CL stand in every result, as CL does in cdec's. -/
def ClauseArr.back (a : ClauseArr) (b : Word) : ClauseArr × Word :=
  if fld b 11 53 ≠ 0 then (a, clauseWord 1 (a.trail.length + a.cl * 2 ^ 22))
  else
    let keep := if bit b 10 then [] else (a.trail.reverse.dropWhile fun e => fld b 0 10 < e.level).reverse
    let cl := if bit b 10 then 0 else Nat.min a.cl (fld b 0 10)
    let gone := (a.trail.drop keep.length).map (·.var)
    ({ a with trail := keep, vals := a.vals.filter fun e => !gone.contains e.1, cl := cl },
      clauseWord 0 (keep.length + cl * 2 ^ 22))

/-- cprop at the array (R318, R328). -/
def ClauseArr.prop (a : ClauseArr) (b : Word) : ClauseArr × Word :=
  let n := fld b 0 11
  let (a, r, k) := a.rounds (if n = 0 then 1024 else Nat.min n 1024) 0
  let w := word (r.out + r.col * 2 ^ 16 + r.count * 2 ^ 32 + k * 2 ^ 48 + 2 ^ 63)
  ({ a with last := w }, w)

/-- A trail entry as ctrail returns it (R319). -/
def TrailEntry.word (e : TrailEntry) : Word :=
  Machine.word (e.var + 2 ^ 10 * b2n e.val + 2 ^ 16 * e.level + 2 ^ 32 * e.reason + 2 ^ 63)

/-- ctrail, cval and cconf at the array (R329). -/
def ClauseArr.trailWord (a : ClauseArr) (b : Word) : Word :=
  match a.trail[fld b 0 10]? with | some e => e.word | none => 0

def ClauseArr.valWord (a : ClauseArr) (b : Word) : Word :=
  if bit b 12 then
    match SMap.find a.cols (fld b 0 12) with
    | none => word (2 ^ 63)
    | some ls =>
      let (fc, uc, tr) := a.counts ls
      word (fc + uc * 2 ^ 16 + 2 ^ 27 * b2n tr + 2 ^ 28 + a.status ls * 2 ^ 29 + 2 ^ 63)
  else
    match SMap.find a.vals (fld b 0 10) with
    | none => word (2 ^ 63)
    | some (x, lev, pos) => word ((if x then 1 else 2) + lev * 2 ^ 16 + pos * 2 ^ 32 + 2 ^ 63)

def ClauseArr.confWord (a : ClauseArr) (b : Word) (m : Nat) (h : UnitHold) : Word :=
  match fld b 0 2 with
  | 0 => word (a.trail.length + a.cl * 2 ^ 16 + a.cols.length * 2 ^ 26 + 2 ^ 63)
  | 1 => a.last
  | 2 => word (m + h.cls * 2 ^ 8 + h.pri * 2 ^ 12 + 2 ^ 63)
  | _ => 0

/-- What an operation does to its array and returns: by number cwr, cclr, clrn, cdec, cback, cprop, ctrail, cval,
cconf. -/
def ClauseArr.run (a : ClauseArr) (r : ClauseReq) (h : UnitHold) (free : Nat) : ClauseArr × Word :=
  match r.op with
  | 0 => a.write r.lits (fld r.b 24 12) false free
  | 1 => a.clear r.b free
  | 2 => a.write r.lits (fld r.b 24 12) true free
  | 3 => a.decide r.b
  | 4 => a.back r.b
  | 5 => a.prop r.b
  | 6 => (a, a.trailWord r.b)
  | 7 => (a, a.valWord r.b)
  | _ => (a, a.confWord r.b r.m h)

/-- R321, R322: an operation performs at its array, or is rejected with cause 70; its result leaves on the LS response channel of the
array's node (R8). -/
def State.clausePerforms (s : State) (id : Nat) : State :=
  match SMap.find s.clauseReqs id with
  | none => s
  | some r =>
    let s := { s with clauseReqs := SMap.del s.clauseReqs id }
    let held := match SMap.find s.units (4096 + r.m) with
      | some h => if h.gang = some r.gang then some h else none
      | none => none
    match held with
    | none => s.respondOn (lsBack (2 * r.m) r.core) .resultArrival r.core r.ctx id { fault := some { kind := 2, cause := 70, det := r.m, pc := r.pc } }
    | some h =>
      let a : ClauseArr := SMap.get ClauseArr.init s.arrays r.m
      let (a, w) := a.run r h (s.freeN 0 % 4096)
      { s with arrays := SMap.set ClauseArr.init s.arrays r.m a }.renew.respondOn (lsBack (2 * r.m) r.core) .resultArrival r.core r.ctx id { v := w }

/-- The reading of a list is held back: an earlier access of its context to a sibling store has not performed (R131, R192). -/
def State.listHeld (s : State) (r : ClauseReq) : Bool := (s.core r.core).sibBefore r.ctx r.at_

/-- The next four literals of the list of an operation are read; after the last it leaves for its array.  Where they are held back
the context issues nothing behind them (R326). -/
def State.clauseRead (s : State) (id : Nat) : State :=
  match SMap.find s.clauseReqs id with
  | none => s
  | some r =>
    match r.list with
    | none => s
    | some (tc, o, n) =>
      let again (s : State) : State := s.postAt (s.now + 1) 0 .clauseOperationAtArray ⟨id, 1, 0, 0, []⟩
      if s.listHeld r then
        again (s.modCtx r.core r.ctx fun t => { t with readyAt := Nat.max t.readyAt (s.now + (n + 3) / 4) })
      else
        let lits := r.lits ++ (List.range (Nat.min 4 n)).map fun i => s.lread tc (o + 2 * i) 2
        let keep (l : Option (Nat × Nat × Nat)) : State := { s with clauseReqs := SMap.put s.clauseReqs id { r with lits := lits, list := l } }
        if n ≤ 4 then (keep none).post (lsChan r.core (2 * r.m)) .clauseOperationAtArray ⟨id, 0, 0, 0, []⟩
        else again (keep (some (tc, o + 8, n - 4)))

/-- R322: CLAUSE_OPERATION_AT_ARRAY, for an operation, or for one whose list is still being read at its core (R326). -/
def execClauseOperationAtArray (s : State) : Res :=
  .next (if s.ev.b = 1 then s.clauseRead s.ev.a else s.clausePerforms s.ev.a)

/-! ### The instructions (R324 to R329) -/

/-- An operation of the current context: counted in ldc, its result pending; the writing ones make the superstep unrepeatable
(R294, R322). -/
def State.clauseCount (s : State) (op : Nat) (S : Stall) (d : Opnd) (a b : Word) (list : Option (Nat × Nat × Nat)) (n : Nat) : State :=
  let i := s.newId
  let r : ClauseReq := { id := i, core := s.cc, ctx := s.cx, m := fld a 0 6, op := op, b := b, gang := s.curCore.gang.getD 0,
                         list := list, pc := s.cur.wordPc.toNat, at_ := s.now }
  let s := ((s.countOp i).longResult d).finishIn S n
  let s := if op < 6 then s.setUnr s.cc else s
  { s with clauseReqs := SMap.put s.clauseReqs i r }

/-- An operation without a list leaves for its array, at the router of node 2m (R8, R321, R322). -/
def State.clauseSend (s : State) (op : Nat) (S : Stall) (d : Opnd) (a b : Word) : State :=
  (s.clauseCount op S d a b none 1).post (lsChan s.cc (2 * fld a 0 6)) .clauseOperationAtArray ⟨s.newId, 0, 0, 0, []⟩

/-- cclr, cdec, cback, cprop, ctrail, cval and cconf. -/
def clauseWordOp (op : Nat) (S : Stall) (d a b : Opnd) (s : State) : Res :=
  s.issue { reads := [a, b], ready := s.ldRoom } fun s => s.clauseSend op S d (s.opnd a) (s.opnd b)

/-- cwr and clrn: a malformed operand is answered at the core; else the list is read, four literals a cycle: from the own store
from the issue on, from a sibling's from the cycle on in which a sibling access performs (R116, R326). -/
def clauseWrite (op : Nat) (S : Stall) (d a b : Opnd) (s : State) : Res :=
  s.issue { reads := [a, b], ready := s.ldRoom && !s.localWaits (fld (s.opnd b) 0 24) } fun s =>
    let v := s.opnd b
    let la := fld v 0 24
    let n := fld v 36 11
    if fld v 24 12 = 4095 ∨ n = 0 ∨ 1024 < n ∨ fld v 47 17 ≠ 0 then
      let i := s.newId
      let r : Resp := { v := clauseWord 1 (s.freeN 0 % 4096) }
      (((s.renew.countOp i).longResult d).setUnr s.cc).finish S |>.respond s.cc s.cx i r
    else match s.target s.cc la 2 (2 * n) with
      | .error c => s.exact c la
      | .ok (tc, o) =>
        let i := s.newId
        let s' := (s.clauseCount op S d (s.opnd a) v (some (tc, o, n)) (2 + (n + 3) / 4)).madeLocal tc
        if tc = s.cc then s'.clauseRead i else s'.postAt (s.now + 3) 0 .clauseOperationAtArray ⟨i, 1, 0, 0, []⟩

/-- R326: cwr. -/
def execCwr (S : Stall) (d a b : Opnd) (s : State) : Res := clauseWrite 0 S d a b s
/-- R326: cclr. -/
def execCclr (S : Stall) (d a b : Opnd) (s : State) : Res := clauseWordOp 1 S d a b s
/-- R326: clrn. -/
def execClrn (S : Stall) (d a b : Opnd) (s : State) : Res := clauseWrite 2 S d a b s
/-- R327: cdec. -/
def execCdec (S : Stall) (d a b : Opnd) (s : State) : Res := clauseWordOp 3 S d a b s
/-- R327: cback. -/
def execCback (S : Stall) (d a b : Opnd) (s : State) : Res := clauseWordOp 4 S d a b s
/-- R328: cprop. -/
def execCprop (S : Stall) (d a b : Opnd) (s : State) : Res := clauseWordOp 5 S d a b s
/-- R329: ctrail. -/
def execCtrail (S : Stall) (d a b : Opnd) (s : State) : Res := clauseWordOp 6 S d a b s
/-- R329: cval. -/
def execCval (S : Stall) (d a b : Opnd) (s : State) : Res := clauseWordOp 7 S d a b s
/-- R329: cconf. -/
def execCconf (S : Stall) (d a b : Opnd) (s : State) : Res := clauseWordOp 8 S d a b s

end Sys2Proof.Machine
end

