-- ==== Sys2Proof/Machine/Codec.lean ====
section
/-! DEFINITION. The codec unit: stored blocks of compressed pages (R125 to R128), and the encoding of f32 rows into tiles
and back (R97 to R102, R185, R244). -/
namespace Sys2Proof.Machine

/-! ### The code table of kind 3 (R127) -/

/-- The counts of codes of lengths 1 to 15, and the symbols in canonical order. -/
structure CodeTable where
  counts : List Nat
  symbols : Array Byte

/-- The table in 288 bytes at CTB. -/
def codeTable (bs : List Byte) : CodeTable :=
  { counts := (List.range 15).map fun i => ofBytes ((bs.drop (2 * i)).take 2), symbols := ((bs.drop 32).take 256).toArray }

/-- The codes of a list of counts, the first of a length given, fill more than the code space of that length on. -/
def overFullFrom : List Nat → Nat → Nat → Bool
  | [], _, _ => false
  | n :: ns, first, space => decide (space < first + n) || overFullFrom ns (2 * (first + n)) (2 * space)

/-- The code space is over-full. -/
def CodeTable.overFull (t : CodeTable) : Bool := overFullFrom t.counts 0 2

/-- The bit of a stream, read from bit 7 down to bit 0 of each byte. -/
def streamBit (bs : Array Byte) (i : Nat) : Nat := bitsOf (bs.getD (i / 8) 0).toNat (7 - i % 8) 1

/-- The code that begins at a bit: the number of its symbol and its length. -/
def codeAt (bs : Array Byte) : List Nat → Nat → Nat → Nat → Nat → Nat → Option (Nat × Nat)
  | [], _, _, _, _, _ => none
  | n :: ns, code, first, index, len, pos =>
    let c := 2 * code + streamBit bs (pos + len)
    if first ≤ c ∧ c < first + n then some (index + (c - first), len + 1)
    else codeAt bs ns c (2 * (first + n)) (index + n) (len + 1) pos

/-- The symbol that begins at a bit, and the bit after its code. -/
def CodeTable.next (t : CodeTable) (bs : Array Byte) (pos : Nat) : Option (Byte × Nat) :=
  match codeAt bs t.counts 0 0 0 0 pos with
  | none => none
  | some (i, len) => match t.symbols[i]? with
    | some b => some (b, pos + len)
    | none => none

/-- How the expansion of a stored block ends: whole, malformed (R128), or at a stored byte that cannot be read (R237). -/
inductive BlockEnd where
  | whole | malformed | short
  deriving DecidableEq, Repr

/-- One decoder: symbols from a bit on, to a stop or, for the last one, to 1,024 symbols, none past the last of `n` bits, of
which `can` can be read; the output (newest first) with its length, and how it ended (R127, R128, R237). -/
def CodeTable.segment (t : CodeTable) (bs : Array Byte) (stop n can : Nat) (final : Bool) :
    Nat → Nat → List Byte → Nat → List Byte × Nat × BlockEnd
  | 0, _, out, m => (out, m, .malformed)
  | fuel + 1, pos, out, m =>
    if final && m == 1024 then (out, m, .whole)
    else if !final && pos == stop then (out, m, .whole)
    else if m = 1024 ∨ stop < pos then (out, m, .malformed)
    else match t.next bs pos with
      | none => (out, m, if can < n ∧ can < pos + 15 then .short else .malformed)
      | some (b, p) =>
        if can < n ∧ can < p then (out, m, .short)
        else if stop < p ∨ n < p then (out, m, .malformed)
        else t.segment bs stop n can final fuel p (b :: out) (m + 1)

/-- The eight decoders in order; the output, newest first. -/
def CodeTable.segments (t : CodeTable) (bs : Array Byte) (start : Nat → Nat) (n can : Nat) :
    List Nat → List Byte → Nat → List Byte × Nat × BlockEnd
  | [], out, m => (out, m, .whole)
  | k :: ks, out, m =>
    match t.segment bs (if k = 7 then n else start (k + 1)) n can (k == 7) 8193 (start k) out m with
    | (out, m, .whole) => t.segments bs start n can ks out m
    | r => r

/-- A coded block of a size expanded from those of its bytes that can be read: the bytes before its first fault, and how it ends. -/
def CodeTable.expand (t : CodeTable) (size : Nat) (stored : List Byte) : List Byte × BlockEnd :=
  if stored.length < 4 then ([], .short)
  else
    let gaps := ofBytes (stored.take 4)
    let bs := (stored.drop 4).toArray
    let n := 8 * (size - 4)
    let start (k : Nat) : Nat := k * n / 8 + bitsOf gaps (4 * k) 4
    let (out, _, e) := t.segments bs start n (8 * bs.size) (List.range 8) [] 0
    (out.reverse, e)

/-- The codes assigned: symbol, code and length, in canonical order. -/
def assignCodes (syms : Array Byte) : List Nat → Nat → Nat → Nat → List (Byte × Nat × Nat)
  | [], _, _, _ => []
  | n :: ns, code, k, len =>
    ((List.range n).filterMap fun j => (syms[k + j]?).map fun b => (b, code + j, len)) ++ assignCodes syms ns (2 * (code + n)) (k + n) (len + 1)

/-- The bits of a code, first bit first. -/
def codeBits (code : Nat) : Nat → List Bool
  | 0 => []
  | len + 1 => (code / 2 ^ len % 2 == 1) :: codeBits code len

/-- The bytes of a list of bits, the first bit in bit 7. -/
def packBits : Nat → List Bool → List Byte
  | 0, _ => []
  | k + 1, bits => BitVec.ofNat 8 ((List.range 8).foldl (fun n i => 2 * n + b2n (bits.getD i false)) 0) :: packBits k (bits.drop 8)

/-- The boundaries of the codes in a stream. -/
def boundaries : List Nat → Nat → List Nat
  | [], p => [p]
  | l :: ls, p => p :: boundaries ls (p + l)

/-- The coded form of a block; none where a byte has no code (R126, R127).  The bits after the last code are not stated:
they are taken from `pad`. -/
def CodeTable.compress (t : CodeTable) (block : List Byte) (pad : Nat) : Option (List Byte) :=
  let codes := assignCodes t.symbols t.counts 0 0 1
  let cs := block.map fun b => codes.find? fun c => c.1 == b
  if cs.any Option.isNone then none
  else
    let cs := cs.filterMap fun c => c.map fun x => x.2
    let lens := cs.map (·.2)
    let total := lens.foldl (· + ·) 0
    let size := (total + 7) / 8
    let n := 8 * size
    let bits := (cs.map fun c => codeBits c.1 c.2).flatten ++ (List.range (n - total)).map fun i => pad / 2 ^ i % 2 == 1
    let bs := boundaries lens 0
    let gap (k : Nat) : Nat := match bs.find? fun p => k * n / 8 ≤ p with | some p => p - k * n / 8 | none => 0
    let gaps := (List.range 8).foldl (fun m k => m + gap k % 16 * 16 ^ k) 0
    some (toBytes 4 gaps ++ packBits size bits)

/-! ### Stored blocks (R125, R126, R128) -/

/-- The bytes of a block up to its last nonzero byte. -/
def usedLen (block : List Byte) : Nat := (block.reverse.dropWhile fun b => b == 0).length

/-- A block in its stored form for a kind: its SIZE and the bytes stored (R126). -/
def compressBlock (kind : Nat) (table : List Byte) (block : List Byte) (pad : Nat) : Nat × List Byte :=
  let used := usedLen block
  if used = 0 then (0, [])
  else match kind with
    | 1 => (1024, block)
    | 2 => let n := (used + 63) / 64 * 64; (n, block.take n)
    | _ =>
      let t := codeTable table
      if t.overFull then (1024, block)
      else match t.compress block pad with
        | some bs => if bs.length < 1024 then (bs.length, bs) else (1024, block)
        | none => (1024, block)

/-- The bytes stored for a block of a legal SIZE, 0 for any other block (R125, R128). -/
def storedLen (kind : Nat) (table : List Byte) (size : Nat) : Nat :=
  if kind = 3 ∧ (codeTable table).overFull then 0
  else if size = 1024 then 1024
  else match kind with
    | 2 => if size % 64 = 0 ∧ size < 1024 then size else 0
    | 3 => if 5 ≤ size ∧ size ≤ 1023 then size else 0
    | _ => 0

/-- A stored block expanded from those of its bytes that can be read: the bytes before its first faulting output position, and how
it ends (R125, R128, R237). -/
def expandPart (kind : Nat) (table : List Byte) (size : Nat) (stored : List Byte) : List Byte × BlockEnd :=
  let t := codeTable table
  let len := storedLen kind table size
  let got := stored.take len
  if kind = 3 ∧ t.overFull then ([], .malformed)
  else if size = 0 then (List.replicate 1024 0, .whole)
  else if len = 0 then ([], .malformed)
  else
    let (out, e) := if kind = 3 ∧ size ≠ 1024 then t.expand size got else (got, .whole)
    if e = .whole then (if got.length < len then (out, .short) else (out ++ List.replicate (1024 - out.length) 0, .whole))
    else (out, e)

/-- A stored block expanded: the bytes before its first faulting output position, and whether there is none (R125,
R128). -/
def expandBlock (kind : Nat) (table : List Byte) (size : Nat) (stored : List Byte) : List Byte × Bool :=
  let (out, e) := expandPart kind table size stored
  (out, e == .whole)

/-! ### Tiles (R185, R244) -/

/-- A layout with its exponents by row or by block matches a block format (R185, R244). -/
def encodable (tag f : Nat) : Bool := tag != 1 && blockWidth f != 0 && layoutFits tag f

/-- The exponents and the mantissas of a row of f32 values, and the flags: per block for BB, else per row (R100, R101). -/
def encodeRow (tag w rm : Nat) (vals : List Nat) : List Nat × List Nat × Nat :=
  let xs := vals.map f32.read
  let groups := if tag = 2 then (List.range (xs.length / 16)).map fun i => (xs.drop (16 * i)).take 16 else [xs]
  let es := groups.map blockExp
  let ms := (groups.zip es).flatMap fun g => g.1.map fun x => encElem x g.2 w rm
  (es, ms.map fun m => wrapNat w m.1, ms.foldl (fun f m => f ||| m.2) 0)

/-- Mantissas packed as one little-endian field (R98). -/
def packField (w : Nat) (ms : List Nat) : List Byte :=
  toBytes (w * ms.length / 8) (ms.foldr (fun m n => m % 2 ^ w + 2 ^ w * n) 0)

/-- The pieces that a row adds to a tile of depth K, each at its offset from the header (R185). -/
def rowPieces (tag w K r : Nat) (es ms : List Nat) : List (Nat × List Byte) :=
  let e := es.map (BitVec.ofNat 8)
  match tag with
  | 2 => [(64 + r * (K / 16), e), (64 + 2 * K + r * (2 * w * (K / 16)), packField w ms)]
  | 3 => [(64 + r, e), (128 + r * (w * K / 8), packField w ms)]
  | _ => (64 + r, e) :: (List.range w).map fun j =>
      (128 + j * 4 * K + r * (K / 8), packField 1 (ms.map fun m => bitsOf m (w - 1 - j) 1))

/-- A row of a tile decoded to f32 (R102). -/
def decodeRow (tag f K : Nat) (bs : Array Byte) (r : Nat) : List Nat :=
  let w := blockWidth f
  (List.range K).map fun k =>
    let m := sgn w (tileElem tag f K w bs r k)
    (f32.write 0 (decElem m (tileExp tag K bs r (k / 16)) w)).1

end Sys2Proof.Machine
end

