-- ==== Sys2Proof/Machine/Engines.lean ====
section
/-! DEFINITION. The engine FIFOs: the four FIFO instructions, command release and completion, and the copy, gather, hot-row
and codec commands (R229 to R250). -/
namespace Sys2Proof.Machine

/-! ### Commands (R229, R231) -/

/-- The number in `w` bytes of a command from byte `off` on. -/
def Cmd.n (c : Cmd) (off w : Nat) : Nat := ofBytes ((c.bytes.drop off).take w)
def Cmd.code (c : Cmd) : Nat := c.n 0 1
def Cmd.flg (c : Cmd) : Nat := c.n 1 1

/-- The FID accepts the command code (R229). -/
def Cmd.known (c : Cmd) : Bool :=
  match c.fid with
  | 0 => c.code == 1 || c.code == 2
  | 1 => c.code == 3 || c.code == 4
  | 2 => c.code == 5
  | 3 => c.code == 6
  | _ => 0x10 ≤ c.code && c.code ≤ 0x13

/-- The event that carries a command on. -/
def Cmd.event (c : Cmd) : Instr :=
  match c.fid with
  | 0 => if c.code = 2 then .copyl else .copy
  | 1 => if c.code = 4 then .gpre else .gather
  | 2 => .hotset
  | 3 => match c.flg % 4 with | 0 => .codecCompress | 1 => .codecExpand | 2 => .codecBlockEncode | _ => .codecBlockDecode
  | _ => match c.code with | 0x11 => .pgather | 0x12 => .prscat | 0x13 => .prelay | _ => .pbcast

def State.findCmd (s : State) (core id : Nat) : Option Cmd := (s.core core).cmds.find? fun c => c.id == id
def State.putCmd (s : State) (core : Nat) (c : Cmd) : State :=
  let g (x : Cmd) : Cmd := if x.id = c.id then c else x
  s.modCore core fun k => { k with cmds := k.cmds.map g }

/-- CODEC commands of an octant in flight (R244). -/
def State.codecs (s : State) (core : Nat) : Nat :=
  (coresOf [octOf core]).foldl (fun n c => n + ((s.core c).cmds.filter fun x => x.fid == 3).length) 0

/-- Result entries that are not reserved (R230). -/
def CoreState.freeResults (k : CoreState) : Nat := 32 - (k.cmds.length + k.results.length)

/-- The earlier accesses of a context that fpush waits for: stores, atomics and reductions (R234). -/
def Ctx.engineWaits (t : Ctx) : List Nat :=
  ((t.ld ++ t.stq).filter fun o => !o.load && (o.home.isSome || o.dom)).map (·.id)

/-- The vector stores of a context that are still queued, by sequence number (R234). -/
def VecState.stores (v : VecState) (ctx : Nat) : List Nat :=
  (v.q.filter fun e => e.ctx == ctx && (match e.ins with | .vst _ _ _ _ _ _ => true | .vstx _ _ _ _ => true | _ => false)).map (·.seq)

/-- A command may begin: the release of R234 holds. -/
def State.cmdReady (s : State) (core : Nat) (c : Cmd) : Bool :=
  let t := s.ctxAt core c.ctx
  c.capAt ≤ s.now && c.after ≤ s.now && !(s.core core).sibBefore c.ctx (c.capAt - 2) && (c.waits.all fun i => !((t.ld ++ t.stq).any fun o => o.id == i))
    && c.vwaits.all fun i => !((s.core core).vec.q.any fun e => e.ctx == c.ctx && e.seq == i)

/-- The engines work for a core: its gang is resident, it is not halted for debug, the device is not viral (R245, R369). -/
def State.enginesRun (s : State) (core : Nat) : Bool :=
  let k := s.core core
  !s.viral && (match k.gang with | some g => s.residentGang g | none => true) && !s.stopped core
    && !(k.quiet && k.ctxs.any fun x => x.2.status == .halted && x.2.hk == 2)

/-- The next thing each engine does for a core (R234). -/
def State.engineCycle (s : State) (core : Nat) : State :=
  if s.enginesRun core then
    [0, 1, 2, 3, 5].foldl (fun s fid =>
      match (s.core core).cmds.find? fun c => c.fid == fid with
      | none => s
      | some c =>
        if c.ended || s.now < c.nextAt || (!c.begun && !s.cmdReady core c) then s
        else (s.putCmd core { c with nextAt := s.now + 1 }).postAt s.now 0 c.event ⟨core, c.id, 0, 0, []⟩) s
  else s

/-! ### Progress and completion (R233, R235, R237) -/

/-- The sidecar line of a page, and a block's place in it (R125). -/
def State.sidecar (s : State) (asid pa : Nat) : Nat :=
  let sp := s.space asid
  (s.either 63 sp.scb sp.oldScb).toNat + 128 * (pa / 65536)
def sidePlace (pa : Nat) : Nat := 2 * (pa % 65536 / 1024)

/-- The sidecar line at an address as the codec holds it; it is fetched with the first engine access to its page (R125). -/
def State.sideLine (s : State) (a : Nat) : SideLine :=
  match SMap.find s.sides a with
  | some l => l
  | none => { bytes := s.gbytes a 128 }

/-- A command uses the sidecar line at an address. -/
def State.useSide (s : State) (id a : Nat) : State :=
  let l := s.sideLine a
  { s with sides := SMap.put s.sides a (if l.users.contains id then l else { l with users := l.users ++ [id] }) }

/-- Commands have ended, or are dropped: the sidecar lines they used and wrote are written back, and those that no command uses
any more are held no longer (R125, R126). -/
def State.sideBack (s : State) (src : Option (Nat × Nat)) (ids : List Nat) : State :=
  s.sides.foldl (fun s e =>
    let (a, l) := e
    if !l.users.any ids.contains then s
    else
      let s := if l.dirty then s.gputBytes src a l.bytes else s
      let users := l.users.filter fun i => !ids.contains i
      { s with sides := if users.isEmpty then SMap.del s.sides a else SMap.put s.sides a { l with users := users, dirty := false } }) s

/-- A command ends with a status and a detail; COMMAND_COMPLETION follows. -/
def State.endCmd (s : State) (core : Nat) (c : Cmd) (sts det : Nat) : State :=
  ((s.sideBack (s.writer core) [c.id]).putCmd core { c with ended := true, sts := sts, det := det }).post (unitChan 4 (core * 16 + c.fid)) .commandCompletion
    ⟨core, c.id, 0, 0, []⟩

/-- The status and detail of a memory cause after some progress (R233). -/
def causeSts (cause : Nat) : Nat := if cause = 16 ∨ cause = 17 then 4 else 2
def causeDet (cause progress : Nat) : Nat :=
  progress % 2 ^ 24 + (if cause = 16 then 0 else if cause = 17 then 1 else cause) * 2 ^ 24
def State.failCmd (s : State) (core : Nat) (c : Cmd) (cause progress : Nat) : State :=
  s.endCmd core c (causeSts cause) (causeDet cause progress)

/-- A command reads no further: it ends once what it has read is written. -/
def Cmd.stopAt (c : Cmd) (cause progress : Nat) : Cmd :=
  { c with failed := true, sts := causeSts cause, det := causeDet cause progress }

/-- A command goes on after a free delay. -/
def State.goOn (s : State) (core : Nat) (c : Cmd) : State :=
  (s.putCmd core { c with nextAt := s.now + 1 + s.freeN 0 }).renew
/-- A command is held and tries again in the next cycle. -/
def State.retry (s : State) (core : Nat) (c : Cmd) : State := s.putCmd core { c with nextAt := s.now + 1 }

/-- A step of a command: it is taken at first, and completes at once where it is malformed (R233). -/
def State.cmdStep (s : State) (core id : Nat) (ok : State → Cmd → Bool) (begin_ : Cmd → State → State) (work : Cmd → State → State) : State :=
  match s.findCmd core id with
  | none => s
  | some c =>
    if c.ended then s
    else if c.begun then work c s
    else
      let asid := s.asidOf core
      let c := { c with begun := true, asid := asid, gen := (s.space asid).gen }
      if c.known && ok s c then begin_ c (s.putCmd core c) else s.endCmd core c 1 0

/-- The result element of a command (R232). -/
def Cmd.element (c : Cmd) : Word :=
  word (c.n 2 2 + 2 ^ 16 * c.code + 2 ^ 24 * c.sts + 2 ^ 28 * c.fl + 2 ^ 32 * c.det + 2 ^ 63)

/-- R235: COMMAND_COMPLETION, for a core and a command: the element, the entry, enc. -/
def State.completeCmd (s : State) (core id : Nat) : State :=
  match s.findCmd core id with
  | none => s
  | some c =>
    let s := s.modCore core fun k =>
      { k with cmds := k.cmds.filter fun x => x.id != id, results := k.results ++ [⟨id, c.ctx, c.fid, c.element⟩] }
    s.modCtx core c.ctx fun t => { t with enc := t.enc - 1 }

def execCommandCompletion (s : State) : Res := .next (s.completeCmd s.ev.a s.ev.b)

/-! ### Accesses of an engine (R236) -/

/-- A global address of a command: the physical address (none at another device) and the kind of its page; the access counts in
the translation cache of the pushing core; one through the domain window leaves through a port, and comes back where it names
this device (R117 to R124, R236). -/
def State.egAddr (s : State) (core : Nat) (c : Cmd) (va need : Nat) : Except Nat (Option Nat × Nat × State) :=
  if 2 ^ 52 ≤ va then .error 4
  else if 2 ^ 51 ≤ va then
    let d := bitsOf va 42 9
    if 320 ≤ d then .error 9
    else if (s.port (portTo d)).down then .error 18
    else
      let s := s.sendLater (portTo d) { dst := d, pay := .request [c.id, va, 8, c.gen, need] }
      let s := if need / 2 % 2 = 1 then s.setUnr core else s
      if d = s.did then
        match s.ownPage core c.gen va need with
        | .error k => .error k
        | .ok (pa, _, s) => .ok (some pa, 0, s)
      else if s.freeB 2 then .error (if s.freeB 3 then 17 else 18)
      else .ok (none, 0, s.renew)
  else if c.gen ≠ (s.space c.asid).gen then .error 16
  else match s.window c.asid va with
  | some pa => if s.holdsFacet core pa then .ok (some pa, 0, s) else .error 61
  | none =>
    match s.xlate core c.asid va (need + 8) with
    | .bad k => .error k
    | .hit pa leaf => .ok (some pa, pteCk leaf, s.countAccess core c.asid va pa (need / 2 % 2 == 1))
    | .miss =>
      match s.walk c.asid va with
      | .bad k => .error k
      | .leaf e at' level used =>
        match permit (need + 8) e with
        | some k => .error k
        | none =>
          let w := need / 2 % 2 == 1
          let size := leafSize level e
          let pa := ptePfn e + va % size
          let s := (s.markUsed w used).tlbFill core
            { asid := c.asid, gen := c.gen, vpage := va / size * size, size := size, leaf := e ||| (if w then 0x300 else 0x100), leafAt := at' }
          .ok (some pa, pteCk e, s.countAccess core c.asid va pa w)

/-- A block of a compressed page, expanded (R125, R128). -/
def State.readBlock (s : State) (asid kind pa : Nat) : List Byte × Bool :=
  let b := pa / 1024 * 1024
  let size := ofBytes (((s.sideLine (s.sidecar asid pa)).bytes.drop (sidePlace pa)).take 2)
  expandBlock kind (s.space asid).code size (s.gbytes b 1024)

/-- A block of a compressed page written whole, its data together with its size in the sidecar that the codec holds (R125, R126). -/
def State.writeBlock (s : State) (core id asid kind pa : Nat) (block : List Byte) : State :=
  let (size, stored) := compressBlock kind (s.space asid).code block (s.freeN 4)
  let a := s.sidecar asid pa
  let s := (s.gputBytes (s.writer core) (pa / 1024 * 1024) stored).useSide id a
  let l := s.sideLine a
  let bytes := l.bytes.take (sidePlace pa) ++ toBytes 2 size ++ l.bytes.drop (sidePlace pa + 2)
  { s with sides := SMap.put s.sides a { l with bytes := bytes, dirty := true } }

/-- A local word of a command: the store and the address (R113, R237). -/
def State.elAddr (s : State) (core a align len : Nat) : Except Nat (Nat × Nat) :=
  if a < 2 ^ 24 then s.target core a align len else .error 2

/-- The header that an engine writes at a place of a store (R240). -/
def State.writeHeader (s : State) (core a hdrw : Nat) : State :=
  let span := spanOf (s.core core).regions a
  s.lputBytes core a (toBytes 3 (putBits hdrw 4 3 span) ++ List.replicate 61 0)

/-! ### COPY and COPYL (R238, R239) -/

def Cmd.hdr (c : Cmd) : Bool := c.flg / 2 % 2 == 1
/-- Bytes of a row and of the whole command, and whether the command copies to global memory. -/
def Cmd.rowLen (c : Cmd) : Nat := c.n 16 4
def Cmd.rows' (c : Cmd) : Nat := if c.code = 1 then c.n 20 2 + 1 else 1
def Cmd.total (c : Cmd) : Nat := c.rows' * c.rowLen
def Cmd.out (c : Cmd) : Bool := c.flg % 2 == 1

/-- The global and the local address of a byte of a COPY. -/
def Cmd.rowVa (c : Cmd) (r : Nat) : Nat := (c.n 8 8 + r * c.n 24 4) % 2 ^ 64
def Cmd.copyVa (c : Cmd) (p : Nat) : Nat := (c.rowVa (p / c.rowLen) + p % c.rowLen) % 2 ^ 64
def Cmd.copyLa (c : Cmd) (p : Nat) : Nat := c.n 4 4 + (if c.hdr then 64 else 0) + p

/-- A row of a COPY covers an 8-byte word, or meets a block, of global memory. -/
def Cmd.rowMeets (c : Cmd) (r a n : Nat) : Bool := c.rowVa r < a + n && a < c.rowVa r + c.rowLen
def Cmd.coversWord (c : Cmd) (a : Nat) : Bool := (List.range c.rows').any fun r => c.rowVa r ≤ a && a + 8 ≤ c.rowVa r + c.rowLen

/-- A byte's page is compressed, as far as its translation can be told now. -/
def State.isCompressed (s : State) (asid va : Nat) : Bool :=
  if 2 ^ 51 ≤ va ∨ (s.window asid va).isSome then false
  else match s.walk asid va with | .leaf e _ _ _ => pteCk e != 0 | .bad _ => false

/-- Every block of a compressed page that a COPY to global memory touches is written whole (R126, R238). -/
def State.wholeBlocks (s : State) (c : Cmd) : Bool :=
  (List.range c.rows').all fun r =>
    let a := c.rowVa r / 1024
    let b := (c.rowVa r + c.rowLen - 1) / 1024
    (List.range (b - a + 1)).all fun i =>
      !s.isCompressed c.asid (1024 * (a + i)) || (List.range 128).all fun j => c.coversWord (1024 * (a + i) + 8 * j)

/-- COPY is well formed (R238). -/
def copyOk (s : State) (c : Cmd) : Bool :=
  let hdrw := c.n 28 4
  c.flg < 4 && c.n 4 4 < 2 ^ 24 && c.n 4 4 % (if c.hdr then 64 else 8) == 0 && c.n 8 8 % 8 == 0 && c.rowLen % 8 == 0
    && c.rowLen ≤ 393216 && c.total ≤ 393216 && c.n 22 2 < 32 && c.n 24 4 % 8 == 0 && hdrw < 2 ^ 24
    && !(c.out && c.hdr && hdrw != 0) && (!c.out || c.rowLen == 0 || s.wholeBlocks c)

/-- COPYL is well formed (R239). -/
def copylOk (core : Nat) (s : State) (c : Cmd) : Bool :=
  (c.flg == 0 || c.flg == 2) && c.n 4 4 < 2 ^ 24 && c.n 4 4 % 8 == 0 && c.n 8 2 < 2048 && c.n 10 2 == 0 && c.n 12 4 < 0x60000
    && c.n 12 4 % (if c.hdr then 64 else 8) == 0 && c.rowLen % 8 == 0 && 8 ≤ c.rowLen && c.rowLen ≤ 393216 && c.n 20 8 == 0
    && c.n 28 4 < 2 ^ 24 && (s.core core).gang.isSome && (s.core (c.n 8 2)).gang == (s.core core).gang

/-- Blocks of global memory that a COPY has met before a byte, for the report of a malformed one (R128, R233). -/
def Cmd.blockNo (c : Cmd) (p : Nat) : Nat :=
  let blocks (a n : Nat) : Nat := (a + n - 1) / 1024 - a / 1024 + 1
  (List.range (p / c.rowLen)).foldl (fun n r => n + blocks (c.rowVa r) c.rowLen) 0
    + (c.copyVa p / 1024 - c.rowVa (p / c.rowLen) / 1024)

/-- The next piece of a COPY from global memory: a word, or what the row has of a compressed block. -/
def State.copyIn (s : State) (core : Nat) (c : Cmd) : State × Cmd :=
  let va := c.copyVa c.rd
  match s.egAddr core c va 1 with
  | .error k => (s, c.stopAt k c.rd)
  | .ok (none, _, s) => ({ s with fresh := s.fresh + 1 }, { c with buf := c.buf ++ toBytes 8 (s.freeW 5).toNat, rd := c.rd + 8 })
  | .ok (some pa, kind, s) =>
    if kind = 0 then (s, { c with buf := c.buf ++ s.gbytes pa 8, rd := c.rd + 8 })
    else
      let off := va % 1024
      let n := Nat.min (1024 - off) (c.rowLen - c.rd % c.rowLen)
      let s := s.useSide c.id (s.sidecar c.asid pa)
      let (bs, ok) := s.readBlock c.asid kind pa
      let c' := { c with buf := c.buf ++ (bs.drop off).take n, rd := c.rd + n }
      if ok then (s, c')
      else
        let at' := if bs.length < 1024 then bs.length else s.freeN 6 % 1024
        (s, { c' with failed := true, sts := 3, det := c.blockNo c.rd % 65536 + at' * 65536 })

/-- The next word of a COPY or COPYL from a local store. -/
def State.localIn (s : State) (core : Nat) (c : Cmd) (a : Nat) : State × Cmd :=
  match s.elAddr core a 8 8 with
  | .error k => (s, c.stopAt k c.rd)
  | .ok (tc, o) => (s, { c with buf := c.buf ++ (s.core tc).lbytes o 8, rd := c.rd + 8 })

/-- Reading up to `n` pieces. -/
def State.copyRead (s : State) (core : Nat) (c : Cmd) : Nat → State × Cmd
  | 0 => (s, c)
  | n + 1 =>
    if c.failed || c.total ≤ c.rd then (s, c)
    else
      let (s, c) := if c.code = 1 && !c.out then s.copyIn core c
        else s.localIn core c (if c.code = 1 then c.copyLa c.rd else c.n 4 4 + c.rd)
      s.copyRead core c n

/-- Bytes of a COPY to global memory that it has taken for blocks it has not written (R126, R237). -/
def Cmd.unwritten (c : Cmd) : Nat :=
  if c.rows.isEmpty then 0
  else 8 * ((List.range (c.wr / 8)).filter fun i => c.rows.any fun e => e.1 == c.copyVa (8 * i) / 1024).length

/-- The word at a place of a COPY is the last one that touches its block. -/
def Cmd.lastTouch (c : Cmd) (p : Nat) : Bool :=
  let b := c.copyVa p / 1024
  let r := p / c.rowLen
  !(p % c.rowLen + 8 < c.rowLen && c.copyVa (p + 8) / 1024 == b)
    && !(List.range c.rows').any fun x => r < x && c.rowMeets x (1024 * b) 1024

/-- The block of a kind-2 page without the units that KEEP drops (R238). -/
def Cmd.kept (c : Cmd) (kind : Nat) (block : List Byte) : List Byte :=
  let k := c.n 22 2
  if kind = 2 ∧ k ≠ 0 then block.take (64 * k) ++ List.replicate (1024 - 64 * k) 0 else block

/-- The next word of a COPY to global memory. -/
def State.copyOut (s : State) (core : Nat) (c : Cmd) (bs : List Byte) : Except Nat (State × Cmd) :=
  let va := c.copyVa c.wr
  match s.egAddr core c va 2 with
  | .error k => .error k
  | .ok (none, _, s) => .ok (s, c)
  | .ok (some pa, 0, s) => .ok (s.gputBytes (s.writer core) pa bs, c)
  | .ok (some pa, kind, s) =>
    let b := va / 1024
    let old := match c.rows.find? fun e => e.1 == b with | some e => e.2 | none => List.replicate 1024 0
    let new := old.take (va % 1024) ++ bs ++ old.drop (va % 1024 + 8)
    let rest := c.rows.filter fun e => e.1 != b
    if c.lastTouch c.wr then .ok (s.writeBlock core c.id c.asid kind pa (c.kept kind new), { c with rows := rest })
    else .ok (s, { c with rows := (b, new) :: rest })

/-! ### The order of writes from one engine block to one core (R8, R289) -/

def State.xfer (s : State) (id : Nat) : Option Xfer := SMap.find s.xfers id

/-- A turn that is still to be taken: its branch is live, or its command is not done, and its gang is on the core. -/
def State.turnLive (s : State) (q : LandTurn) : Bool :=
  q.gang == (s.core q.core).gang &&
    (if q.copyl then (s.core q.branch).cmds.any fun c => c.id == q.id && !c.ended
     else match (s.xfer q.id).bind fun x => x.branches[q.branch]? with
      | some v => v.ended == 0
      | none => false)

/-- An engine's writes to a core wait behind the earlier ones of its block to that core (R8, R289): the machine with the turn
kept, and whether it has come. -/
def State.myTurn (s : State) (q : LandTurn) : State × Bool :=
  let qs := s.landq.filter s.turnLive
  let qs := if qs.contains q then qs else qs ++ [q]
  ({ s with landq := qs }, (qs.find? fun r => r.src == q.src && r.core == q.core) == some q)

/-- The turn of a write has been taken. -/
def State.turnTaken (s : State) (q : LandTurn) : State := { s with landq := s.landq.filter (· != q) }

/-- The turn of a COPYL at its destination core. -/
def State.copylTurn (s : State) (core : Nat) (c : Cmd) : LandTurn :=
  { src := octOf core, core := c.n 8 2, gang := (s.core (c.n 8 2)).gang, copyl := true, id := c.id, branch := core }

/-- A COPYL takes its turn at its destination core; a COPY needs none (R239, R289). -/
def State.copyTurn (s : State) (core : Nat) (c : Cmd) : State × Bool :=
  if c.code = 2 then s.myTurn (s.copylTurn core c) else (s, true)

/-- A COPYL writes nothing at a core in an exchange phase, nor at one that a precise stop keeps quiescent (R289, R297). -/
def CoreState.copylHeld (k : CoreState) : Bool :=
  k.ex.phase || (k.still && (k.ctx 0).status == .halted && (k.ctx 0).hk == 2)

/-- The store and the address that a word of a COPY or COPYL goes to, and whether it has to wait (R192, R239). -/
def State.copyTo (s : State) (core : Nat) (c : Cmd) (p w : Nat) : Except Nat (Nat × Nat × Bool) :=
  let d := if c.code = 1 then core else c.n 8 2
  let a := if c.code = 1 then c.copyLa p else c.n 12 4 + (if c.hdr then 64 else 0) + p
  match s.elAddr d a 8 w with
  | .error k => .error k
  | .ok (tc, o) => .ok (tc, o, s.guarded tc o w || (c.code == 2 && (s.core d).copylHeld))

/-- Writing up to `n` words; whether a fault or a wait stopped it. -/
def State.copyWrite (s : State) (core : Nat) (c : Cmd) : Nat → State × Cmd × Option Nat
  | 0 => (s, c, none)
  | n + 1 =>
    match c.buf with
    | [] => (s, c, none)
    | _ =>
      let bs := c.buf.take 8
      let next (c : Cmd) : Cmd := { c with buf := c.buf.drop 8, wr := c.wr + bs.length }
      if c.code = 1 && c.out then
        match s.copyOut core c bs with
        | .error k => (s, c, some k)
        | .ok (s, c) => s.copyWrite core (next c) n
      else match s.copyTo core c c.wr bs.length with
        | .error k => (s, c, some k)
        | .ok (tc, o, wait) => if wait then (s, c, none) else (s.lputBytes tc o bs).copyWrite core (next c) n

/-- The end of a COPY or COPYL whose bytes are all written: the header, then the element (R240). -/
def State.copyEnd (s : State) (core : Nat) (c : Cmd) : State :=
  if c.failed then s.endCmd core c c.sts (c.det - c.unwritten)
  else if !c.hdr || c.total = 0 || (c.code == 1 && c.out) then s.endCmd core c 0 c.total
  else
    let d := if c.code = 1 then core else c.n 8 2
    match s.elAddr d (if c.code = 1 then c.n 4 4 else c.n 12 4) 64 64 with
    | .error k => s.failCmd core c k c.total
    | .ok (tc, o) =>
      let (s, mine) := s.copyTurn core c
      if !mine || s.guarded tc o 64 || (c.code == 2 && (s.core d).copylHeld) then s.retry core c
      else ((s.turnTaken (s.copylTurn core c)).writeHeader tc o (c.n 28 4)).endCmd core c 0 c.total

/-- A step of COPY or COPYL: reading, or writing what has been read. -/
def copyWork (core : Nat) (c : Cmd) (s : State) : State :=
  let ended := c.failed || c.total ≤ c.rd
  let n := 1 + s.freeN 1 % 512
  if c.buf.isEmpty && ended then s.copyEnd core c
  else if c.buf.isEmpty || (!ended && s.freeB 0) then
    let (s, c) := s.renew.copyRead core c n
    s.goOn core c
  else
    let (s, mine) := s.copyTurn core c
    if !mine then s.retry core c
    else match s.renew.copyWrite core c n with
    | (s, c', none) => (if c'.wr = c.wr then s else s.turnTaken (s.copylTurn core c)).goOn core c'
    | (s, c, some k) => s.failCmd core c k (c.wr - c.unwritten)

/-- R238: COPY, for a core and a command. -/
def execCopy (s : State) : Res :=
  .next (s.cmdStep s.ev.a s.ev.b copyOk (copyWork s.ev.a) (copyWork s.ev.a))

/-- R239: COPYL, for a core and a command. -/
def execCopyl (s : State) : Res :=
  .next (s.cmdStep s.ev.a s.ev.b (copylOk s.ev.a) (copyWork s.ev.a) (copyWork s.ev.a))

/-! ### GATHER and GPRE (R241, R242) -/

/-- Width of an index, bytes of a row, effective stride, and the address of a row. -/
def Cmd.iw (c : Cmd) : Nat := if c.code = 5 then 4 else 4 + 4 * (c.flg % 2)
def Cmd.rlen (c : Cmd) : Nat := c.n 20 4
def Cmd.rstr (c : Cmd) : Nat := if c.n 28 4 = 0 then c.rlen else c.n 28 4
def Cmd.rowAt (c : Cmd) (x : Nat) : Nat := (c.n 8 8 + x * c.rstr) % 2 ^ 64

/-- What GATHER, GPRE and HOTSET share (R241 to R243). -/
def Cmd.tableOk (c : Cmd) : Bool :=
  c.n 4 4 < 2 ^ 24 && c.n 4 4 % c.iw == 0 && c.n 8 8 % 8 == 0 && c.n 16 4 ≤ 65536 && c.rlen % 8 == 0 && 8 ≤ c.rlen
    && c.rlen ≤ 4096 && c.n 28 4 % 8 == 0

def gatherOk (_ : State) (c : Cmd) : Bool := c.tableOk && c.flg < 4 && c.n 24 4 < 2 ^ 24 && c.n 24 4 % 8 == 0

/-- The index at a position of a list in a local store. -/
def State.indexAt (s : State) (core : Nat) (c : Cmd) (i : Nat) : Except Nat Nat :=
  match s.elAddr core (c.n 4 4 + i * c.iw) c.iw c.iw with
  | .error k => .error k
  | .ok (tc, o) => .ok (ofBytes ((s.core tc).lbytes o c.iw))

/-- A word of a row; none where its device or page gives a cause; a compressed page is cause 8 (R237). -/
def State.rowWord (s : State) (core : Nat) (c : Cmd) (va : Nat) : Except Nat (List Byte × State) :=
  match s.egAddr core c va 1 with
  | .error k => .error k
  | .ok (none, _, s) => .ok (toBytes 8 (s.freeW 5).toNat, { s with fresh := s.fresh + 1 })
  | .ok (some pa, 0, s) => .ok (s.gbytes pa 8, s)
  | .ok (some _, _, _) => .error 8

/-- The words of a row from an offset on. -/
def State.rowWords (s : State) (core : Nat) (c : Cmd) (x off : Nat) : Nat → Except Nat (List Byte × State)
  | 0 => .ok ([], s)
  | n + 1 =>
    match s.rowWord core c ((c.rowAt x + off) % 2 ^ 64) with
    | .error k => .error k
    | .ok (bs, s) => match s.rowWords core c x (off + 8) n with
      | .error k => .error k
      | .ok (cs, s) => .ok (bs ++ cs, s)

/-- The hot copy of a row that serves a GATHER, where there is one (R243). -/
def State.hotRow (s : State) (core : Nat) (c : Cmd) (x : Nat) : Option (List Byte) :=
  match SMap.find s.hots (octOf core) with
  | none => none
  | some h =>
    if c.flg / 2 % 2 = 0 ∧ (s.core core).gang = some h.gang ∧ h.tbase = c.n 8 8 ∧ h.rstr = c.rstr ∧ h.rlen = c.rlen then
      (h.rows.find? fun e => e.1 == x).map fun e => s.gbytes e.2 c.rlen
    else none

/-- The key of a row read for a window (R241). -/
def Cmd.rowKey (c : Cmd) (x : Nat) : Nat := c.rd / 256 * 2 ^ 64 + x

/-- A position has its row. -/
def Cmd.gotRow (c : Cmd) (x : Nat) (row : Option (List Byte)) : Cmd :=
  { c with rows := match row with | some r => c.rows ++ [(c.rowKey x, r)] | none => c.rows
           idx := c.idx ++ [c.rowKey x], rd := c.rd + 1, cur := none, buf := [] }

/-- Reading up to `n` words or positions of a GATHER: each distinct index of a window once; a row of the hot set as it
stood at one instant, in the facet or in memory. -/
def State.gatherRead (s : State) (core : Nat) (c : Cmd) : Nat → State × Cmd
  | 0 => (s, c)
  | n + 1 =>
    if c.failed || c.n 16 4 ≤ c.rd then (s, c)
    else match c.cur with
    | none =>
      match s.indexAt core c c.rd with
      | .error k => (s, c.stopAt k c.rd)
      | .ok x =>
        if c.rows.any fun e => e.1 == c.rowKey x then s.gatherRead core (c.gotRow x none) n
        else match s.hotRow core c x with
          | some r =>
            let r := if s.freeB 4 then r else match s.rowWords core c x 0 (c.rlen / 8) with | .ok (m, _) => m | .error _ => r
            s.renew.gatherRead core (c.gotRow x (some r)) n
          | none => s.gatherRead core { c with cur := some x, buf := [] } n
    | some x =>
      if c.rlen ≤ c.buf.length then s.gatherRead core (c.gotRow x (some c.buf)) n
      else match s.rowWords core c x c.buf.length 1 with
        | .error k => (s, c.stopAt k c.rd)
        | .ok (bs, s) => s.gatherRead core { c with buf := c.buf ++ bs } n

/-- Writing up to `n` words of a GATHER, position by position. -/
def State.gatherWrite (s : State) (core : Nat) (c : Cmd) : Nat → State × Cmd × Option Nat
  | 0 => (s, c, none)
  | n + 1 =>
    match c.idx with
    | [] => (s, c, none)
    | key :: rest =>
      let i := c.wr / c.rlen
      let off := c.wr % c.rlen
      match s.elAddr core (c.n 24 4 + i * c.rlen) 8 c.rlen with
      | .error k => (s, c, some k)
      | .ok (tc, o) =>
        if s.guarded tc (o + off) 8 then (s, c, none)
        else
          let row := match c.rows.find? fun e => e.1 == key with | some e => e.2 | none => []
          let s := s.lputBytes tc (o + off) ((row.drop off).take 8)
          let c := { c with wr := c.wr + 8 }
          let c := if c.wr % c.rlen = 0 then
              { c with idx := rest, rows := c.rows.filter fun e => (c.wr / c.rlen) / 256 ≤ e.1 / 2 ^ 64 }
            else c
          s.gatherWrite core c n

/-- A step of GATHER. -/
def gatherWork (core : Nat) (c : Cmd) (s : State) : State :=
  let ended := c.failed || c.n 16 4 ≤ c.rd
  let n := 1 + s.freeN 1 % 512
  if c.idx.isEmpty && ended then
    if c.failed then s.endCmd core c c.sts c.det else s.endCmd core c 0 (c.n 16 4)
  else if c.idx.isEmpty || (!ended && s.freeB 0) then
    let (s, c) := s.renew.gatherRead core c n
    s.goOn core c
  else
    match s.renew.gatherWrite core c n with
    | (s, c, none) => s.goOn core c
    | (s, c, some k) => s.failCmd core c k (c.wr / c.rlen)

/-- R241: GATHER, for a core and a command. -/
def execGather (s : State) : Res :=
  .next (s.cmdStep s.ev.a s.ev.b gatherOk (gatherWork s.ev.a) (gatherWork s.ev.a))

/-- GPRE is well formed, its index list readable throughout (R242). -/
def gpreOk (core : Nat) (s : State) (c : Cmd) : Bool :=
  c.tableOk && c.flg < 2 && c.n 24 4 == 0 && (c.n 16 4 == 0 || (match s.elAddr core (c.n 4 4) c.iw (c.n 16 4 * c.iw) with
    | .ok _ => true
    | .error _ => false))

/-- The lines of a row all translate: the request of the row is sent (R141, R242). -/
def State.gpreRow (s : State) (core : Nat) (c : Cmd) (x : Nat) : Nat → State × Bool
  | 0 => (s, true)
  | n + 1 =>
    match s.egAddr core c ((c.rowAt x + 64 * n) % 2 ^ 64) 1 with
    | .error _ => (s, false)
    | .ok (_, _, s) => s.gpreRow core c x n

/-- Requests for up to `n` positions of a GPRE. -/
def State.gpreSend (s : State) (core : Nat) (c : Cmd) : Nat → State × Cmd
  | 0 => (s, c)
  | n + 1 =>
    if c.n 16 4 ≤ c.rd then (s, c)
    else match s.indexAt core c c.rd with
    | .error _ => s.gpreSend core { c with rd := c.rd + 1 } n
    | .ok x =>
      let (s, sent) := s.gpreRow core c x ((c.rowAt x + c.rlen - 1) / 64 - c.rowAt x / 64 + 1)
      s.gpreSend core { c with rd := c.rd + 1, wr := c.wr + b2n sent } n

def gpreWork (core : Nat) (c : Cmd) (s : State) : State :=
  if c.n 16 4 ≤ c.rd then s.endCmd core c 0 c.wr
  else
    let (s, c) := s.renew.gpreSend core c (1 + s.freeN 1 % 512)
    s.goOn core c

/-- R242: GPRE, for a core and a command. -/
def execGpre (s : State) : Res :=
  .next (s.cmdStep s.ev.a s.ev.b (gpreOk s.ev.a) (gpreWork s.ev.a) (gpreWork s.ev.a))

/-! ### HOTSET (R243) -/

def hotsetOk (_ : State) (c : Cmd) : Bool :=
  c.tableOk && c.flg == 0 && (c.n 16 4 == 0 || (1 ≤ c.n 24 1 && c.n 24 1 ≤ 32)) && c.n 25 3 == 0

/-- The hot-row set of an octant goes, with the requests for its facets. -/
def State.dropHot (s : State) (o : Nat) : State :=
  match SMap.find s.hots o with
  | none => s
  | some h =>
    let s := { s with hots := SMap.del s.hots o
                      unitReqs := s.unitReqs.filter fun e => !(e.2.src == 2 && e.2.who == (2, o)) }
    h.facets.foldl State.freeUnit s

/-- The requests of a HOTSET for its facets. -/
def State.askHot (s : State) (core : Nat) (links : List Link) (pri : Nat) : Nat → State
  | 0 => s
  | n + 1 =>
    let q : UnitReq := { id := s.newId, src := 2, core := 2048, who := (2, octOf core), unit := 32 * nodeOf core, any := true,
                         cls := 2, pri := pri, links := links }
    (s.useId.sendUnitReq q).askHot core links pri n

/-- A HOTSET begins: the old set goes, and facets are asked for. -/
def hotsetBegin (core : Nat) (c : Cmd) (s : State) : State :=
  let o := octOf core
  let s := s.dropHot o
  if c.n 16 4 = 0 then s.endCmd core c 0 0
  else
    let g := (s.core core).gang.getD 0
    let ch := (s.gang g).chain
    let h : HotSet := { gang := g, core := core, tbase := c.n 8 8, rstr := c.rstr, rlen := c.rlen, asked := c.n 24 1 }
    ({ s with hots := SMap.put s.hots o h }.askHot core ch.links ch.pri (c.n 24 1)).goOn core c

/-- A place for one more row in the facets of a set. -/
def HotSet.room (h : HotSet) : Option Nat :=
  h.facets.findSome? fun u =>
    let base := facetBase + 65536 * u
    (firstOf (fun k => !h.rows.any fun e => e.2 == base + k * h.rlen) (List.range (65536 / h.rlen))).map fun k => base + k * h.rlen

/-- A step of HOTSET: it waits for its facets, then reads row after row, each at one instant, and installs it. -/
def hotsetWork (core : Nat) (c : Cmd) (s : State) : State :=
  let o := octOf core
  match SMap.find s.hots o with
  | none => s.endCmd core c 5 c.wr
  | some h =>
    if h.core ≠ core ∨ h.gang ≠ (s.core core).gang.getD 0 then s.endCmd core c 5 c.wr
    else if h.asked ≠ 0 then s.retry core c
    else if c.n 16 4 ≤ c.rd then s.endCmd core c 0 c.wr
    else match h.room with
    | none => s.endCmd core c 5 c.wr
    | some pa =>
      match c.cur with
      | none =>
        match s.indexAt core c c.rd with
        | .error k => s.failCmd core c k c.rd
        | .ok x => s.goOn core { c with cur := some x, buf := [] }
      | some x =>
        if c.rlen ≤ c.buf.length then
          let s := { s with hots := SMap.put s.hots o { h with rows := h.rows ++ [(x, pa)] } }
          (s.gputBytes none pa c.buf).goOn core { c with rd := c.rd + 1, wr := c.wr + 1, cur := none, buf := [] }
        else
          match s.renew.rowWords core c x 0 (c.rlen / 8) with
          | .error k => s.failCmd core c k c.rd
          | .ok (bs, s) => s.goOn core { c with buf := bs }

/-- R243: HOTSET, for a core and a command. -/
def execHotset (s : State) : Res :=
  .next (s.cmdStep s.ev.a s.ev.b hotsetOk (hotsetBegin s.ev.a) (hotsetWork s.ev.a))

/-- R243: ENGINE_BLOCK_SURRENDER, for a facet and the request whose recall it answers: its rows leave the set, and the facet is
released. -/
def State.engineSurrender (s : State) (u req : Nat) : State :=
  match SMap.find s.units u with
  | none => s
  | some h =>
    if !h.underRecall req then s
    else match h.agent with
    | some (2, o) =>
      let base := facetBase + 65536 * u
      let s := match SMap.find s.hots o with
        | none => s
        | some t =>
          let rows := t.rows.filter fun (e : Nat × Nat) => e.2 < base || base + 65536 ≤ e.2
          { s with hots := SMap.put s.hots o { t with facets := t.facets.filter (· != u), rows := rows } }
      s.freeUnit u
    | _ => s

def execEngineBlockSurrender (s : State) : Res := .next (s.engineSurrender s.ev.a s.ev.c)

/-! ### CODEC (R244) -/

def Cmd.opr (c : Cmd) : Nat := c.flg % 8
def Cmd.kind (c : Cmd) : Nat := c.flg / 8 % 4
def Cmd.hTag (c : Cmd) : Nat := c.n 20 1 % 16
def Cmd.hFmt (c : Cmd) : Nat := c.n 21 1
def Cmd.hK (c : Cmd) : Nat := 16 * (c.n 22 1 % 16 + 1)

/-- CODEC is well formed; the tile that a block decode reads says what it is in its header (R244). -/
def codecOk (core : Nat) (s : State) (c : Cmd) : Bool :=
  let blocks := c.opr < 2
  c.opr < 4 && c.flg < 64 && (if blocks then c.kind != 0 else c.kind == 0) && !(c.flg / 32 == 1 && c.opr != 2)
    && c.n 4 4 < 2 ^ 24 && c.n 8 4 < 2 ^ 24 && (if blocks then c.n 12 4 < 2 ^ 24 && c.n 12 4 % 2 == 0 else c.n 12 4 == 0)
    && (if blocks then 1 ≤ c.n 16 1 && c.n 16 1 ≤ 64 else c.n 16 1 == 0) && c.n 17 3 == 0 && c.n 24 8 == 0
    && (if c.opr = 2 then c.n 20 4 < 2 ^ 24 && encodable c.hTag c.hFmt && c.n 8 4 % 64 == 0 else c.n 20 4 == 0)
    && (c.opr != 3 || (c.n 4 4 % 64 == 0 && (match s.elAddr core (c.n 4 4) 64 64 with
      | .ok (tc, o) => let t := s.tile tc o; encodable t.tag t.fmt
      | .error _ => true)))

/-- A command ends at a step it cannot make, with the bytes moved before it. -/
def State.localCmd (s : State) (core : Nat) (c : Cmd) (a len progress : Nat) (k : Nat → Nat → State) : State :=
  match s.elAddr core a 1 len with
  | .error x => s.failCmd core c x progress
  | .ok (tc, o) => k tc o

/-- The first byte of a range that has no target, with its cause. -/
def State.firstBad (s : State) (core a len : Nat) : Option (Nat × Nat) :=
  (List.range len).findSome? fun i => match s.elAddr core (a + i) 1 1 with
    | .error x => some (i, x)
    | .ok _ => none

/-- The same for bytes to be written; a guarded range holds the command (R192).  At a fault the bytes before the faulting one are
written, and count as moved where `counts` says so (R237). -/
def State.localPut (s : State) (core : Nat) (c : Cmd) (a : Nat) (bs : List Byte) (progress : Nat) (counts : Bool)
    (k : State → State) : State :=
  if bs.isEmpty then k s
  else match s.elAddr core a 1 bs.length with
  | .ok (tc, o) => if s.guarded tc o bs.length then s.retry core c else k (s.lputBytes tc o bs)
  | .error x =>
    let (n, x) := (s.firstBad core a bs.length).getD (0, x)
    match s.elAddr core a 1 n with
    | .error _ => s.failCmd core c x progress
    | .ok (tc, o) =>
      if n = 0 then s.failCmd core c x progress
      else if s.guarded tc o n then s.retry core c
      else (s.lputBytes tc o (bs.take n)).failCmd core c x (if counts then progress + n else progress)

/-- A step of a compress: a block is read, or written with its size. -/
def compressWork (core : Nat) (c : Cmd) (s : State) : State :=
  let b := c.wr
  if c.n 16 1 ≤ b then s.endCmd core c 0 (1024 * b)
  else if c.rd = b then
    s.localCmd core c (c.n 4 4 + 1024 * b) 1024 (1024 * b) fun tc o =>
      s.goOn core { c with rd := b + 1, buf := (s.core tc).lbytes o 1024 }
  else
    let (size, stored) := compressBlock c.kind (s.space c.asid).code c.buf (s.freeN 4)
    s.localPut core c (c.n 8 4 + 1024 * b) stored (1024 * b) false fun s =>
      s.localPut core c (c.n 12 4 + 2 * b) (toBytes 2 size) (1024 * b) false fun s => s.goOn core { c with wr := b + 1, buf := [] }

/-- The bytes of a range that come before its first byte without a target (R237). -/
def State.reach (s : State) (core a len : Nat) : Nat := match s.firstBad core a len with | some (n, _) => n | none => len

/-- A command ends where a byte of its source has no target, once what comes before it is written (R237). -/
def State.shortCmd (s : State) (core : Nat) (c : Cmd) (a len progress : Nat) : State :=
  s.failCmd core c (match s.firstBad core a len with | some (_, x) => x | none => 2) progress

/-- A step of an expand: a block and its size are read, or what comes before its first fault is expanded and written (R128, R237). -/
def expandWork (core : Nat) (c : Cmd) (s : State) : State :=
  let b := c.wr
  let src := c.n 4 4 + 1024 * b
  if c.n 16 1 ≤ b then s.endCmd core c 0 (1024 * b)
  else if c.rd = b then
    s.localCmd core c (c.n 12 4 + 2 * b) 2 (1024 * b) fun tc o =>
      let size := ofBytes ((s.core tc).lbytes o 2)
      let n := s.reach core src (storedLen c.kind (s.space c.asid).code size)
      match s.elAddr core src 1 n with
      | .ok (tc, o) => s.goOn core { c with rd := b + 1, cur := some size, buf := (s.core tc).lbytes o n }
      | .error _ => s.goOn core { c with rd := b + 1, cur := some size, buf := [] }
  else
    let size := c.cur.getD 0
    let (out, end_) := expandPart c.kind (s.space c.asid).code size c.buf
    s.localPut core c (c.n 8 4 + 1024 * b) out (1024 * b) true fun s =>
      match end_ with
      | .whole => s.goOn core { c with wr := b + 1, cur := none, buf := [] }
      | .malformed => s.endCmd core c 3 (b + (if out.length < 1024 then out.length else s.freeN 6 % 1024) * 65536)
      | .short => s.shortCmd core c src (storedLen c.kind (s.space c.asid).code size) (1024 * b + out.length)

/-- The pieces of a row of a tile are written one after the other. -/
def State.putPieces (s : State) (core : Nat) (c : Cmd) (base progress : Nat) (k : State → State) : List (Nat × List Byte) → State
  | [] => k s
  | (off, bs) :: ps => s.localPut core c (base + off) bs progress false fun s => s.putPieces core c base progress k ps

/-- A step of a block encode: a row of f32 values is read, as far as it can be, or its whole blocks are encoded and written; the
header comes last (R237, R240). -/
def encodeWork (core : Nat) (c : Cmd) (s : State) : State :=
  let r := c.wr
  let n := 4 * c.hK
  let src := c.n 4 4 + r * n
  if 32 ≤ r then
    s.localCmd core c (c.n 8 4) 64 (32 * n) fun tc o =>
      if s.guarded tc o 64 then s.retry core c
      else (s.writeHeader tc o (c.n 20 3)).endCmd core c 0 (32 * n)
  else if c.rd = r then
    let m := s.reach core src n
    let m := if m = n then n else if c.hTag = 2 then m / 64 * 64 else 0
    match s.elAddr core src 1 m with
    | .ok (tc, o) => s.goOn core { c with rd := r + 1, buf := (s.core tc).lbytes o m }
    | .error _ => s.goOn core { c with rd := r + 1, buf := [] }
  else
    let vals := (List.range (c.buf.length / 4)).map fun k => ofBytes ((c.buf.drop (4 * k)).take 4)
    let w := blockWidth c.hFmt
    let (es, ms, fl) := encodeRow c.hTag w (if c.flg / 32 % 2 = 1 then 1 else 0) vals
    let c' := { c with fl := c.fl ||| (fl % 8 + 8 * (fl / 16 % 2)) }
    let go (s : State) : State :=
      if c.buf.length = n then s.goOn core { c' with wr := r + 1, buf := [] }
      else s.shortCmd core c' src n (r * n + c.buf.length)
    if c.buf.isEmpty then go s
    else s.putPieces core c (c.n 8 4) (r * n) go (rowPieces c.hTag w c.hK r es ms)

/-- The elements of a row of a tile that the first bytes of one of its pieces give: the exponents, or the mantissas of one width. -/
def pieceElems (tag w j bytes : Nat) : Nat :=
  if j = 0 then (if tag = 2 then 16 * bytes else bytes * 2 ^ 16) else if tag = 4 then 8 * bytes else 8 * bytes / w

/-- The elements of a row of a tile that can be read, and the cause of the byte that stops it (R237). -/
def State.rowReach (s : State) (core a tag fmt K r : Nat) : Nat × Option Nat :=
  let w := blockWidth fmt
  let ps := rowPieces tag w K r (List.replicate (if tag = 2 then K / 16 else 1) 0) (List.replicate K 0)
  ((List.range ps.length).zip ps).foldl (fun m p =>
    match s.firstBad core (a + p.2.1) p.2.2.length with
    | none => m
    | some (i, x) => let n := pieceElems tag w p.1 i; if n < m.1 then (n, some x) else m) (K, none)

/-- A step of a block decode: the tile's row is read, as far as it can be, or decoded and written (R237). -/
def decodeWork (core : Nat) (c : Cmd) (s : State) : State :=
  let r := c.wr
  s.localCmd core c (c.n 4 4) 64 0 fun tc o =>
    let h := s.tile tc o
    let t := if c.cur.isNone then 0 else c.cur.getD 0
    let tag := if r = 0 ∧ c.rd = 0 then h.tag else t % 16
    let fmt := if r = 0 ∧ c.rd = 0 then h.fmt else t / 16 % 256
    let K := if r = 0 ∧ c.rd = 0 then h.depth else t / 4096
    let n := 4 * K
    let c := { c with cur := some (tag + 16 * fmt + 4096 * K) }
    if 32 ≤ r then s.endCmd core c 0 (32 * n)
    else if c.rd = r then
      let vals := decodeRow tag fmt K ((s.core tc).lbytes o (tileLen tag fmt K (blockWidth fmt))).toArray r
      let m := (s.rowReach core (c.n 4 4) tag fmt K r).1
      s.goOn core { c with rd := r + 1, buf := ((vals.take m).map fun v => toBytes 4 v).flatten }
    else s.localPut core c (c.n 8 4 + r * n) c.buf (r * n) true fun s =>
      if c.buf.length = n then s.goOn core { c with wr := r + 1, buf := [] }
      else s.failCmd core c ((s.rowReach core (c.n 4 4) tag fmt K r).2.getD 2) (r * n + c.buf.length)

/-- R244: CODEC, OPR 0, for a core and a command. -/
def execCodecCompress (s : State) : Res :=
  .next (s.cmdStep s.ev.a s.ev.b (codecOk s.ev.a) (compressWork s.ev.a) (compressWork s.ev.a))
/-- R244: CODEC, OPR 1. -/
def execCodecExpand (s : State) : Res :=
  .next (s.cmdStep s.ev.a s.ev.b (codecOk s.ev.a) (expandWork s.ev.a) (expandWork s.ev.a))
/-- R244: CODEC, OPR 2. -/
def execCodecBlockEncode (s : State) : Res :=
  .next (s.cmdStep s.ev.a s.ev.b (codecOk s.ev.a) (encodeWork s.ev.a) (encodeWork s.ev.a))
/-- R244: CODEC, OPR 3. -/
def execCodecBlockDecode (s : State) : Res :=
  .next (s.cmdStep s.ev.a s.ev.b (codecOk s.ev.a) (decodeWork s.ev.a) (decodeWork s.ev.a))

/-! ### The FIFO instructions (R246 to R250) -/

/-- R247: fpush. -/
def execFpush (S : Stall) (d a : Opnd) (f : BitVec 4) (s : State) : Res :=
  s.issue { reads := [a], ready := !s.localWaits (s.opn a) } fun s =>
    let addr := s.opn a
    match s.target s.cc addr 32 32 with
    | .error k => s.exact k addr
    | .ok (tc, o) =>
      let k := s.curCore
      if 16 ≤ k.cmds.length || k.freeResults = 0 then s.opOwn S d 1 1
      else if f = 3 && 4 ≤ s.codecs s.cc then s.opOwn S d 1 2
      else
        let s := s.catchUp tc
        let c : Cmd := { id := s.newId, ctx := s.cx, fid := f.toNat, bytes := (s.core tc).lbytes o 32, capAt := s.now + 2,
                         after := s.cur.localAt, waits := s.cur.engineWaits, vwaits := s.curCore.vec.stores s.cx }
        let s := (s.useId.modCurCore fun k => { k with cmds := k.cmds ++ [c] }).modCur fun t => { t with enc := t.enc + 1 }
        let s := if c.fid = 5 && c.code == 0x13 then s.setUnr s.cc else s
        (s.opOwn S d 1 0).madeLocal tc

/-- The oldest element of a context for a FID (R230). -/
def CoreState.element (k : CoreState) (ctx fid : Nat) : Option EResult :=
  k.results.find? fun r => r.ctx == ctx && r.fid == fid

/-- FID 15 outside a supervisor core (R250). -/
def State.fidRefused (s : State) (f : BitVec 4) : Bool := f == 15 && s.level s.cc == 0

/-- R248: fpop. -/
def execFpop (S : Stall) (d : Opnd) (f : BitVec 4) (s : State) : Res :=
  s.issue {} fun s =>
    if s.fidRefused f then s.exact 40 0
    else if f = 15 then
      let v := s.curCore.fifo15.headD 0
      (s.modCurCore fun k => { k with fifo15 := k.fifo15.drop 1 }).opOwn S d 2 v
    else match s.curCore.element s.cx f.toNat with
      | none => s.opOwn S d 2 0
      | some r => (s.modCurCore fun k => { k with results := k.results.filter fun x => x.id != r.id }).opOwn S d 2 r.v

/-- R248: fpeek. -/
def execFpeek (S : Stall) (d : Opnd) (f : BitVec 4) (s : State) : Res :=
  s.issue {} fun s =>
    if s.fidRefused f then s.exact 40 0
    else if f = 15 then s.opOwn S d 2 (s.curCore.fifo15.headD 0)
    else s.opOwn S d 2 (match s.curCore.element s.cx f.toNat with | none => 0 | some r => r.v)

/-- R249: fstat. -/
def execFstat (S : Stall) (d : Opnd) (f : BitVec 4) (s : State) : Res :=
  s.issue {} fun s =>
    if s.fidRefused f then s.exact 40 0
    else
      let k := s.curCore
      let n := if f = 15 then k.fifo15.length else (k.results.filter fun r => r.ctx == s.cx && r.fid == f.toNat).length
      s.opOwn S d 1 (word ((16 - k.cmds.length) + 2 ^ 5 * k.freeResults + 2 ^ 16 * Nat.min n 63
        + 2 ^ 22 * b2n (f == 3 && 4 ≤ s.codecs s.cc) + 2 ^ 32 * s.cur.enc))

end Sys2Proof.Machine
end

