-- ==== Sys2Proof/Machine/PlaneCast.lean ====
section
/-! DEFINITION. Plane-cast: landing slots and their instructions, the collective commands, sections on their way, the
reduce-scatter and cancellation (R251 to R272). -/
namespace Sys2Proof.Machine

/-! ### Landing slots (R253, R254) -/

def CoreState.slot (k : CoreState) (n : Nat) : Land := SMap.get {} k.land n
def State.putSlot (s : State) (core n : Nat) (l : Land) : State := s.modCore core fun k => { k with land := SMap.set {} k.land n l }

/-- The status word of a slot (R253). -/
def Land.word (l : Land) : Word :=
  Machine.word (l.cnt + 2 ^ 4 * l.st + 2 ^ 8 * l.w + 2 ^ 12 * l.ks + 2 ^ 16 * l.src + 2 ^ 27 * l.sdev + 2 ^ 36 * l.addr)

def State.putXfer (s : State) (id : Nat) (x : Xfer) : State := { s with xfers := SMap.put s.xfers id x }
def Xfer.modBranch (x : Xfer) (b : Nat) (f : Branch → Branch) : Xfer :=
  match x.branches[b]? with
  | some v => { x with branches := x.branches.set b (f v) }
  | none => x

/-- A branch ends by landing 1, refusal 2 or cancellation 3; the last two travel upstream, and another device is told of the end
of a branch that it feeds (R254, R261 to R263). -/
def State.endBranch (s : State) (id b how : Nat) : State :=
  match s.xfer id with
  | none => s
  | some x =>
    let s := match x.dev, x.branches[b]? with
      | some d, some v => s.tellBranch d v.core v.slot how
      | _, _ => s
    let x := x.modBranch b fun v => { v with ended := how, known := how == 1 }
    if x.cmd.isNone ∧ x.branches.all (fun v => v.ended != 0) then { s with xfers := SMap.del s.xfers id }
    else
    let s := s.putXfer id x
    if how = 1 then s else s.post 0 .cancelAtRouter ⟨id, b, 0, 0, []⟩

/-- R263: CANCEL_AT_ROUTER, for a transfer and a branch: the branch is pruned; once none is left, the port stops. -/
def State.prune (s : State) (id b : Nat) : State :=
  match s.xfer id with
  | none => s
  | some x =>
    let x := x.modBranch b fun v => { v with known := true }
    s.putXfer id { x with stopped := x.branches.all fun v => v.known && v.ended != 1 }

def execCancelAtRouter (s : State) : Res := .next (s.prune s.ev.a s.ev.b)

/-! ### Sections on their way (R251, R254, R255) -/

/-- Where a section of a tile lies from the header on (R251). -/
def sectionAt (ks sec : Nat) : Nat := if sec = 0 then 64 else 128 + (sec - 1) * 4 * (16 * (ks + 1))
def sectionLen (ks sec : Nat) : Nat := if sec = 0 then 32 else 4 * (16 * (ks + 1))

/-- Sections reach a core: its gang is resident, it is not halted for debug, and it is in no exchange phase (R266,
R289). -/
def State.lands (s : State) (core : Nat) : Bool := s.enginesRun core && !(s.core core).ex.phase

/-- The turn of a section of a branch. -/
def State.sectionTurn (s : State) (id b sec : Nat) (x : Xfer) (v : Branch) : LandTurn :=
  { src := octOf x.core + 256 * x.dev.elim 0 (· + 1), core := v.core, gang := (s.core v.core).gang, copyl := false, id := id, branch := b, sec := sec }

/-- The channel of a branch's sections (R8). -/
def Xfer.chan (x : Xfer) (v : Branch) : Nat := bkChan (octOf x.core) (octOf v.core)

/-- A section binds its transfer to the slot of its branch, or is refused (R254). -/
def State.bindSlot (s : State) (id b : Nat) (x : Xfer) (v : Branch) : State × Bool :=
  let l := (s.core v.core).slot v.slot
  if l.st = 1 ∧ l.w = x.w ∧ l.ks = x.ks then
    (s.putSlot v.core v.slot { l with st := 2, src := x.core, sdev := x.dev.getD s.did, xfer := id, branch := b }, true)
  else (s.endBranch id b 2, false)

/-- Some words of a section are written at its place; once all have performed, CNT rises (R255). -/
def State.landWords (s : State) (id b sec off : Nat) (x : Xfer) (v : Branch) (data : List Byte) : State :=
  let l := (s.core v.core).slot v.slot
  let again (off : Nat) (s : State) : State :=
    (s.postAt (s.now + 1 + s.freeN 0) 0 .sectionArrival ⟨id, b, sec, word off, data⟩).renew
  if l.st ≠ 2 ∨ l.xfer ≠ id ∨ l.branch ≠ b then s
  else match s.target v.core l.addr 64 64 with
  | .error _ => s
  | .ok (tc, o) =>
    let bs := (data.drop off).take (8 * (1 + s.freeN 1 % 512))
    let a := o + sectionAt l.ks sec + off
    if s.guarded tc a bs.length then again off s
    else
      let s := s.lputBytes tc a bs
      if off + bs.length < data.length then again (off + bs.length) s
      else
        let full := sec = l.w
        let s := s.putSlot v.core v.slot { l with cnt := sec + 1, st := if full then 3 else 2 }
        let s := s.putXfer id (x.modBranch b fun v => { v with got := sec + 1 })
        let s := s.turnTaken (s.sectionTurn id b sec x v)
        if full then s.endBranch id b 1 else s

/-- The flits that a section takes, 240 bytes of payload each (R386). -/
def sectionFlits (n : Nat) : Nat := (n + 239) / 240

/-- A section leaves for another device through the port to it, in its flits, once the earlier ones of its branch have landed;
a branch through a port that is down ends refused (R261, R385, R387). -/
def State.leaveAway (s : State) (id b sec dev : Nat) (v : Branch) (data : List Byte) : State :=
  let p := portTo dev
  let n := sectionFlits data.length
  if (s.port p).down then s.endBranch id b 2
  else if v.got ≠ sec || !s.portRoom p n then s.postAt (s.now + 1) 0 .sectionArrival ⟨id, b, sec, 0, data⟩
  else
    let s := (List.range n).foldl (fun s i =>
      s.sendFlit p { dst := dev, pay := .piece v.core v.slot sec i ((data.drop (240 * i)).take 240) }) s
    (s.postAt (s.now + 1 + s.freeN 0) 0 .sectionArrival ⟨id, b, sec, 1, data⟩).renew

/-- A section has reached another device: whether its branch is refused, cancelled or goes on is not this device's to tell
(R261). -/
def State.landAway (s : State) (id b sec : Nat) (x : Xfer) : State :=
  let s' := s.renew
  if sec = 0 ∧ s.freeB 0 then s'.endBranch id b 2
  else if sec ≠ 0 ∧ s.freeB 1 then s'.endBranch id b 3
  else
    let s := s'.putXfer id (x.modBranch b fun v => { v with got := sec + 1 })
    if sec = x.w then s.endBranch id b 1 else s

/-- The bytes of sections held for the cores of a gang beyond the 16 KiB of the router of each of its nodes (R4, R342). -/
def State.spilled (s : State) (v : Gang) : Nat :=
  let size (n : Nat) (p : Post) : Nat :=
    match p.ev, (s.xfer p.args.a).bind fun x => x.branches[p.args.b]? with
    | .sectionArrival, some b => if nodeOf b.core = n then p.args.data.length else 0
    | _, _ => 0
  ((v.octs.map (· / 2)).eraseDups.map fun n => (v.parked.map (size n)).foldl (· + ·) 0 - 16384).foldl (· + ·) 0

/-- A packet for the cores of a gang that is out waits in a holding buffer; a section is refused where the shared part of the spill
region, 16 MiB, is full (R254, R342). -/
def State.parkPost (s : State) (g : Nat) (p : Post) : State :=
  let v := s.gang g
  if p.ev = .sectionArrival ∧ 2 ^ 24 < s.spilled v + p.args.data.length then s.endBranch p.args.a p.args.b 2
  else s.setGang g { v with parked := v.parked ++ [p] }

/-- A section that came from another device for a core whose gang is out is held with the gang's packets; it is cancelled where the
gang is no longer there (R254, R266, R342). -/
def State.parkSection (s : State) (g id b sec off : Nat) (data : List Byte) : State :=
  match SMap.find s.gangs g with
  | none => s.endBranch id b 3
  | some v =>
    if v.status != .out then s.endBranch id b 3
    else s.parkPost g ⟨s.now, 0, .sectionArrival, ⟨id, b, sec, word off, data⟩⟩

/-- R254, R255: SECTION_ARRIVAL, for a transfer, a branch, a section and how far it has landed; sections of one branch
land in order, and one that cannot land yet waits. -/
def State.sectionArrives (s : State) (id b sec off : Nat) (data : List Byte) : State :=
  match s.xfer id with
  | none => s
  | some x =>
    match x.branches[b]? with
    | none => s
    | some v =>
      if v.ended ≠ 0 then s
      else match v.dev with
      | some d => if off = 0 then s.leaveAway id b sec d v data else s.landAway id b sec x
      | none =>
      if x.dev.isSome && x.gang != (s.core v.core).gang then s.parkSection (x.gang.getD 0) id b sec off data
      else
      let (s, mine) := s.myTurn (s.sectionTurn id b sec x v)
      if v.got ≠ sec || !mine || !s.lands v.core then s.postAt (s.now + 1) 0 .sectionArrival ⟨id, b, sec, word off, data⟩
      else if sec = 0 ∧ off = 0 then
        let l := (s.core v.core).slot v.slot
        if l.st = 2 ∧ l.xfer = id ∧ l.branch = b then s.landWords id b sec off x v data
        else
          let (s, ok) := s.bindSlot id b x v
          if ok then s.landWords id b sec off x v data else s
      else s.landWords id b sec off x v data

def execSectionArrival (s : State) : Res := .next (s.sectionArrives s.ev.a s.ev.b s.ev.c s.ev.w.toNat s.ev.data)

/-- A section leaves for every branch the port still feeds (R258). -/
def State.sendSection (s : State) (id sec : Nat) (x : Xfer) (data : List Byte) : State :=
  (List.range x.branches.length).foldl (fun s b =>
    match x.branches[b]? with
    | some v => if v.known then s else s.post (x.chan v) .sectionArrival ⟨id, b, sec, 0, data⟩
    | none => s) s

/-! ### PBCAST, PGATHER and PRELAY (R256 to R262) -/

/-- The source tile of a command, where it is one (R256). -/
def State.sourceTile (s : State) (core lsrc : Nat) : Option Tile :=
  if lsrc % 64 ≠ 0 then none
  else match s.elAddr core lsrc 64 64 with
  | .error _ => none
  | .ok (tc, o) =>
    let t := s.tile tc o
    if t.tag ≠ 4 || !isRbx t.fmt then none
    else match s.elAddr core lsrc 64 (tileLen 4 t.fmt t.depth (blockWidth t.fmt)) with
      | .error _ => none
      | .ok _ => some t

/-- The entries of a list of a command, `w` bytes each; none where its range has no target in one store (R257). -/
def State.listAt (s : State) (core a w n : Nat) : Option (List Nat) :=
  match s.elAddr core a w (w * n) with
  | .error _ => none
  | .ok (tc, o) => some ((List.range n).map fun i => ofBytes ((s.core tc).lbytes (o + w * i) w))

/-- Every core belongs to the gang of the pushing core. -/
def State.sameGang (s : State) (core : Nat) (cs : List Nat) : Bool :=
  (s.core core).gang.isSome && cs.all fun c => (s.core c).gang == (s.core core).gang

/-- The member list of a command and the place of the pushing core in it (R259). -/
def State.membersAt (s : State) (core : Nat) (c : Cmd) : Option (List Nat × Nat) :=
  match s.listAt core (c.n 12 4) 2 (c.n 8 1) with
  | none => none
  | some ms =>
    if ms.all (fun m => m < 2048) && ms.Nodup && s.sameGang core ms then (ms.findIdx? (· == core)).map fun r => (ms, r) else none

/-- What the layouts of the four commands share. -/
def Cmd.castOk (c : Cmd) (least align : Nat) : Bool :=
  c.flg == 0 && c.n 4 4 < 2 ^ 24 && least ≤ c.n 8 1 && c.n 8 1 ≤ 16 && c.n 12 4 < 2 ^ 24 && c.n 12 4 % align == 0 && c.n 16 16 == 0

/-- The branches of a collective; none where the command is malformed (R257, R259, R261). -/
def State.branchesOf (s : State) (core : Nat) (c : Cmd) : Option (List Branch) :=
  match c.code with
  | 0x10 =>
    if !c.castOk 1 2 || c.n 9 3 != 0 then none
    else match s.listAt core (c.n 12 4) 2 (c.n 8 1) with
    | none => none
    | some es =>
      if es.all (fun e => e < 2 ^ 15) && es.Nodup && s.sameGang core (es.map (· % 2048)) then
        some (es.map fun e => { core := e % 2048, slot := e / 2048 })
      else none
  | 0x11 =>
    if !c.castOk 2 2 || 16 ≤ c.n 9 1 || 16 < c.n 9 1 + c.n 8 1 || c.n 10 2 != 0 then none
    else match s.membersAt core c with
    | none => none
    | some (ms, r) => some (ms.map fun m => { core := m, slot := c.n 9 1 + r })
  | _ =>
    if !c.castOk 1 4 || c.n 9 3 != 0 then none
    else match s.listAt core (c.n 12 4) 4 (c.n 8 1) with
    | none => none
    | some es =>
      if es.all (fun e => bitsOf e 15 1 == 0 && e / 2 ^ 25 == 0 && bitsOf e 16 9 < 320 && bitsOf e 16 9 != s.did) && es.Nodup then
        some (es.map fun e => { core := e % 2048, slot := bitsOf e 11 4, dev := some (bitsOf e 16 9) })
      else none

def castReady (core : Nat) (s : State) (c : Cmd) : Bool :=
  (s.branchesOf core c).isSome && (s.sourceTile core (c.n 4 4)).isSome

/-- A collective begins: its transfer, with the tile's width and KS. -/
def castBegin (core : Nat) (c : Cmd) (s : State) : State :=
  match s.branchesOf core c, s.sourceTile core (c.n 4 4) with
  | some bs, some t =>
    let i := s.newId
    let x : Xfer := { core := core, cmd := some c.id, gang := (s.core core).gang, w := blockWidth t.fmt, ks := t.ks, branches := bs }
    (s.useId.putXfer i x).goOn core { c with xfer := i }
  | _, _ => s.endCmd core c 1 0

/-- DET of a collective (R262). -/
def Xfer.det (x : Xfer) : Nat :=
  (x.sent - 1) + 16 * b2n (x.sent < x.w + 1) + 32 * b2n (x.branches.any fun v => v.ended == 2)

/-- A step of a collective: the next section is read and sent, or every branch has ended (R256, R258, R262). -/
def castWork (core : Nat) (c : Cmd) (s : State) : State :=
  match s.xfer c.xfer with
  | none => s.endCmd core c 0 0
  | some x =>
    if x.sent ≤ x.w && !x.stopped then
      match s.elAddr core (c.n 4 4 + sectionAt x.ks x.sent) 8 (sectionLen x.ks x.sent) with
      | .error k => s.failCmd core c k 0
      | .ok (tc, o) =>
        let data := (s.core tc).lbytes o (sectionLen x.ks x.sent)
        ((s.putXfer c.xfer { x with sent := x.sent + 1 }).sendSection c.xfer x.sent x data).goOn core c
    else if x.branches.all fun v => v.known then
      ({ s with xfers := SMap.del s.xfers c.xfer }).endCmd core c 0 x.det
    else s.retry core c

/-- R257: PBCAST, for a core and a command. -/
def execPbcast (s : State) : Res :=
  .next (s.cmdStep s.ev.a s.ev.b (castReady s.ev.a) (castBegin s.ev.a) (castWork s.ev.a))
/-- R259: PGATHER, for a core and a command. -/
def execPgather (s : State) : Res :=
  .next (s.cmdStep s.ev.a s.ev.b (castReady s.ev.a) (castBegin s.ev.a) (castWork s.ev.a))
/-- R261: PRELAY, for a core and a command. -/
def execPrelay (s : State) : Res :=
  .next (s.cmdStep s.ev.a s.ev.b (castReady s.ev.a) (castBegin s.ev.a) (castWork s.ev.a))

/-! ### PRSCAT (R260) -/

def Cmd.pK (c : Cmd) : Nat := 16 * (c.n 10 1 + 1)

def prscatOk (core : Nat) (s : State) (c : Cmd) : Bool :=
  c.castOk 2 2 && c.n 4 4 % 8 == 0 && c.n 9 1 < 16 && c.n 10 1 < 16 && c.n 11 1 == 0 && (s.membersAt core c).isSome
    && (match s.elAddr core (c.n 4 4) 8 (c.n 8 1 * (128 * c.pK)) with
      | .error 2 => false
      | _ => true)

/-- A chunk on its way carries the member list before its values. -/
def chunkData (ms : List Nat) (bs : List Byte) : List Byte := (ms.map fun m => toBytes 2 m).flatten ++ bs

/-- A step of PRSCAT: a chunk is read and sent to its member's engine block; the members are those of the list as it was read
at the begin (R257, R260). -/
def prscatWork (core : Nat) (c : Cmd) (s : State) : State :=
  let len := 128 * c.pK
  match c.idx[c.rd]? with
  | none => s.endCmd core c 0 0
  | some m =>
    match s.elAddr core (c.n 4 4 + len * c.rd) 8 len with
    | .error k => s.failCmd core c k (len * c.rd)
    | .ok (tc, o) =>
      let data := chunkData c.idx ((s.core tc).lbytes o len)
      let s := s.post (bkChan (octOf core) (octOf m)) .prscatChunkArrival
        ⟨m, c.cur.getD 0, c.n 9 1 + 16 * c.n 10 1, word c.idx.length, data⟩
      s.goOn core { c with rd := c.rd + 1 }

/-- PRSCAT begins: the member list is read (R257). -/
def prscatBegin (core : Nat) (c : Cmd) (s : State) : State :=
  match s.membersAt core c with
  | none => s.endCmd core c 1 0
  | some (ms, r) => prscatWork core { c with idx := ms, cur := some r } s

/-- R260: PRSCAT, for a core and a command. -/
def execPrscat (s : State) : Res :=
  .next (s.cmdStep s.ev.a s.ev.b (prscatOk s.ev.a) (prscatBegin s.ev.a) (prscatWork s.ev.a))

/-- The sum of the chunks in list order, element by element (R260). -/
def sumChunks : List (List Nat) → List Nat
  | [] => []
  | x :: xs => xs.foldl (fun s y => (s.zip y).map fun p => (f32.add 0 (f32.read p.1) (f32.read p.2)).1) x

/-- The sections of a result: the exponents, then the planes (R251, R260). -/
def resultSections (K : Nat) (vals : List Nat) : List (List Byte) :=
  let rows := (List.range 32).map fun r => (vals.drop (r * K)).take K
  let enc := rows.map fun row => encodeRow 3 8 0 row
  let exps := enc.map fun e => BitVec.ofNat 8 (e.1.headD 0)
  let plane (j : Nat) : List Byte := (enc.map fun e => packField 1 (e.2.1.map fun m => bitsOf m (7 - j) 1)).flatten
  exps :: (List.range 8).map plane

/-- The result of a reduce-scatter leaves for the member's own slot (R260). -/
def State.landResult (s : State) (core : Nat) (sc : Scatter) : State :=
  let K := 16 * (sc.ks + 1)
  let chunk (m : Nat) : List Nat :=
    match sc.chunks.find? fun e => e.1 == m with
    | some e => (List.range (32 * K)).map fun i => ofBytes ((e.2.drop (4 * i)).take 4)
    | none => []
  let vals := sumChunks ((List.range sc.members.length).map chunk)
  let i := s.newId
  let x : Xfer := { core := core, gang := (s.core core).gang, w := 8, ks := sc.ks, branches := [{ core := core, slot := sc.slot }], sent := 9 }
  let secs := resultSections K vals
  (List.range 9).foldl (fun s n => s.sendSection i n x (secs.getD n [])) (s.useId.putXfer i x)

/-- R260: PRSCAT_CHUNK_ARRIVAL: a chunk joins the first reduction of its slot, KS and members that lacks it; the last one
completes the result. -/
def State.chunkArrives (s : State) (core r slotKs n : Nat) (data : List Byte) : State :=
  if !s.enginesRun core then s.postAt (s.now + 1) 0 .prscatChunkArrival ⟨core, r, slotKs, word n, data⟩
  else
    let ms := (List.range n).map fun i => ofBytes ((data.drop (2 * i)).take 2)
    let bs := data.drop (2 * n)
    let k := s.core core
    let fits (x : Scatter) : Bool := x.slot == slotKs % 16 && x.ks == slotKs / 16 && x.members == ms && !(x.chunks.any fun e => e.1 == r)
    let (before, rest) := k.scatters.span fun x => !fits x
    let (x, rest) := match rest with
      | x :: rest => (x, rest)
      | [] => (({ slot := slotKs % 16, ks := slotKs / 16, members := ms } : Scatter), [])
    let x := { x with chunks := x.chunks ++ [(r, bs)] }
    if x.chunks.length = n then (s.setCore core { k with scatters := before ++ rest }).landResult core x
    else s.setCore core { k with scatters := before ++ [x] ++ rest }

def execPrscatChunkArrival (s : State) : Res := .next (s.chunkArrives s.ev.a s.ev.b s.ev.c s.ev.w.toNat s.ev.data)

/-! ### The instructions (R267 to R272) -/

/-- The place in the own store of an address, direct or through the core's own window (R268). -/
def State.ownPlace (s : State) (a : Nat) : Option Nat :=
  let w := 0x800000 + 0x80000 * (s.cc % 8)
  if a < 0x60000 then some a else if w ≤ a ∧ a < w + 0x60000 then some (a - w) else none

/-- R268: pland: the slot is armed on a landing tile, its header completed. -/
def execPland (S : Stall) (d a : Opnd) (n : BitVec 4) (s : State) : Res :=
  s.issue { reads := [a], ready := s.localFree s.cc } fun s =>
    let H := s.opn a
    if H % 64 ≠ 0 then s.exact 1 H
    else match s.ownPlace H with
    | none => s.exact 41 H
    | some o =>
      if s.rbe s.cc ∧ 0x58000 ≤ o then s.exact 3 H
      else
        let t := s.tile s.cc o
        let len := tileLen 4 t.fmt t.depth (blockWidth t.fmt)
        let lim := if s.rbe s.cc then 0x58000 else 0x60000
        if (s.curCore.slot n.toNat).st = 2 then s.opOwn S d 3 1
        else if t.tag ≠ 4 || !isRbx t.fmt || lim < o + len then s.opOwn S d 3 2
        else if s.guarded s.cc o 64 then s.hold
        else
          let h := putBits (putBits (s.lread s.cc o 3) 4 3 (spanOf s.curCore.regions o)) 20 4 n.toNat
          let s := (s.lwrite s.cc o 3 h).lputBytes s.cc (o + 8) (List.replicate 56 0)
          let s := s.putSlot s.cc n.toNat { st := 1, w := blockWidth t.fmt, ks := t.ks, addr := H }
          (s.opOwn S d 3 0).madeLocal s.cc

/-- R269: pcnt. -/
def execPcnt (S : Stall) (d : Opnd) (n : BitVec 4) (s : State) : Res :=
  s.issue {} fun s => s.opOwn S d 3 (s.curCore.slot n.toNat).word

/-- The wait of a pwait is over (R270). -/
def Land.reached (l : Land) (v : Nat) : Bool := v ≤ l.cnt || l.st == 0 || l.st == 3 || l.st == 4

/-- A landing slot as pwait meets it: as it stood two cycles ago, since pwait reads it in its own cycle, and what the other words do
at a slot in a step stands for the cycle 2 later (R268 to R271). -/
def CoreState.slotSeen (k : CoreState) (n : Nat) : Land := SMap.get {} k.landSeen n

/-- R270: pwait: the status word once the counter has reached n or nothing more will land. -/
def execPwait (S : Stall) (d a : Opnd) (n : BitVec 4) (s : State) : Res :=
  s.issue { reads := [a] } fun s =>
    let v := s.opn a
    let l := s.curCore.slotSeen n.toNat
    if l.reached v then s.opOwn S d 1 l.word
    else s.modCur fun t => { t with wait := .landing n.toNat v d, readyAt := s.now + 1 + S.toNat, issuedAt := s.now }

/-- A wait of pwait ends as a cycle begins: d receives the status word and the context goes on (R270). -/
def State.landingWait (s : State) (core ctx : Nat) : State :=
  match (s.ctxAt core ctx).wait with
  | .landing n v d =>
    let l := (s.core core).slotSeen n
    if l.reached v then
      let s := { s with cc := core, cx := ctx }
      (s.result d l.word 1 false 0).modCur fun t => { t.advance with wait := .none }
    else s
  | _ => s

/-- R271: pcancel. -/
def execPcancel (S : Stall) (d : Opnd) (n : BitVec 4) (s : State) : Res :=
  s.issue {} fun s =>
    let l := s.curCore.slot n.toNat
    let l' := if l.st = 1 ∨ l.st = 2 then { l with st := 4 } else l
    let s := s.putSlot s.cc n.toNat l'
    let s := if l.st = 2 then s.endBranch l.xfer l.branch 3 else s
    s.opOwn S d 3 l'.word

end Sys2Proof.Machine
end

