-- ==== Sys2Proof/Machine/Atomics.lean ====
section
/-! DEFINITION. Atomics, reductions and barrier objects (R142 to R155). -/
namespace Sys2Proof.Machine

/-- The prefixes of an atomic: FA one of i32, i64, c32, c64, or only the cardinals; the rest 0 (R144). -/
def atomAccepts (cardinalOnly : Bool) (p : Pfx) : Bool :=
  (p.fa == 0 || p.fa == 7 || p.fa == 8 || (!cardinalOnly && (p.fa == 3 || p.fa == 4)))
    && p.fb == 0 && p.fd == 0 && p.ro == 0

/-- The format of an atomic: FA, or 64 bits, signed but for aincw and abadd (R144). -/
def atomFmt (cardinalOnly : Bool) (p : Pfx) : IFmt :=
  match srcFmt p.fa with
  | .int f => f
  | _ => ⟨64, !cardinalOnly⟩

/-- An atomic on a local store: a local access that reads, operates and writes at the bank (R142). -/
def localAtomic (op : Nat) (S : Stall) (d : Opnd) (addr : Nat) (f : IFmt) (v u : Nat) (s : State) : State :=
  let w := f.w / 8
  match s.target s.cc addr w w with
  | .error c => s.exact c addr
  | .ok (c, a) =>
    if !s.localFree c || s.guarded c a w then s.hold
    else if c = s.cc then
      let old := s.lread c a w
      (((s.lwrite c a w (atomicNew op w f.signed old v u)).opOwn S d 4 (extend w f.signed old))).madeLocal c
    else
      let b : Sib := ⟨s.now + 3, s.cx, c, a, w, f.signed, .atomic op, v, u, s.newId⟩
      (((s.sibResult d 7).sibSend b).finish S).madeLocal c

/-- A returning atomic on global memory (R146 to R148). -/
def globalAtomic (op : Nat) (S : Stall) (d : Opnd) (addr : Nat) (f : IFmt) (v u ord sc : Nat) (s : State) : State :=
  let w := f.w / 8
  s.globalIssue addr w 3 fun dst s =>
    let i := s.newId
    let rel := 2 ≤ ord
    let r := { s.mkReq (.atomic op) i addr w dst with
      signed := f.signed, v := v, u := u, acq := ord % 2 == 1, waitLocal := if rel then s.cur.localAt else 0
      scope := if rel then some sc else none
      waitsFor := if rel then s.cur.releaseWaits sc s.cc else [] }
    let s := (((s.countLd i dst false).longResult d).domainUnr dst).finish S
    let s := s.send r .atomicAtSlice
    if r.acq then s.park (.arrival i) else s

/-- A returning atomic: local where L is set, else global (R142, R145). -/
def atomic (op : Nat) (S : Stall) (d a : Opnd) (o : BitVec 2) (c : BitVec 3) (l : BitVec 1) (s : State) : Res :=
  let card := 8 ≤ op
  let reads := if op = 8 then [a, q2] else if op = 7 ∨ op = 9 then [a, q1, q2] else [a, q1]
  s.issue { takes := true, accepts := atomAccepts card, reads := reads, ready := l == 1 || s.ldRoom } fun s =>
    let f := atomFmt card s.cur.pfx
    let v := s.opn q1 % 2 ^ f.w
    let u := s.opn q2 % 2 ^ f.w
    if l = 1 then localAtomic op S d (s.opn a) f v u s
    else globalAtomic op S d (s.opn a) f v u o.toNat c.toNat s

/-- R146: aadd. -/
def execAadd (S : Stall) (d a : Opnd) (o : BitVec 2) (c : BitVec 3) (l : BitVec 1) (s : State) : Res := atomic 0 S d a o c l s
/-- R146: aand. -/
def execAand (S : Stall) (d a : Opnd) (o : BitVec 2) (c : BitVec 3) (l : BitVec 1) (s : State) : Res := atomic 1 S d a o c l s
/-- R146: aor. -/
def execAor (S : Stall) (d a : Opnd) (o : BitVec 2) (c : BitVec 3) (l : BitVec 1) (s : State) : Res := atomic 2 S d a o c l s
/-- R146: axor. -/
def execAxor (S : Stall) (d a : Opnd) (o : BitVec 2) (c : BitVec 3) (l : BitVec 1) (s : State) : Res := atomic 3 S d a o c l s
/-- R146: amin. -/
def execAmin (S : Stall) (d a : Opnd) (o : BitVec 2) (c : BitVec 3) (l : BitVec 1) (s : State) : Res := atomic 4 S d a o c l s
/-- R146: amax. -/
def execAmax (S : Stall) (d a : Opnd) (o : BitVec 2) (c : BitVec 3) (l : BitVec 1) (s : State) : Res := atomic 5 S d a o c l s
/-- R146: aswp. -/
def execAswp (S : Stall) (d a : Opnd) (o : BitVec 2) (c : BitVec 3) (l : BitVec 1) (s : State) : Res := atomic 6 S d a o c l s
/-- R146: acas. -/
def execAcas (S : Stall) (d a : Opnd) (o : BitVec 2) (c : BitVec 3) (l : BitVec 1) (s : State) : Res := atomic 7 S d a o c l s
/-- R146: aincw. -/
def execAincw (S : Stall) (d a : Opnd) (o : BitVec 2) (c : BitVec 3) (l : BitVec 1) (s : State) : Res := atomic 8 S d a o c l s
/-- R146: abadd. -/
def execAbadd (S : Stall) (d a : Opnd) (o : BitVec 2) (c : BitVec 3) (l : BitVec 1) (s : State) : Res := atomic 9 S d a o c l s

/-- The prefixes of red: those of the atomics, and f32 for an add (R144). -/
def redAccepts (op : Nat) (p : Pfx) : Bool :=
  atomAccepts false p || (op == 0 && p.fa == 0x12 && p.fb == 0 && p.fd == 0 && p.ro == 0)

/-- The address of a barrier object, checked and translated: none named, a fault, a walk to wait for, or its physical
address (R149, R151, R154). -/
inductive ObjAt where
  | absent
  | bad (cause : Nat)
  | miss
  | ok (pa : Nat)
  deriving DecidableEq, Repr

/-- The check of a barrier-object address: aligned, on this device, readable and writable by arrivals (R154, R155). -/
def State.objectAt (s : State) (addr need : Nat) : ObjAt :=
  if addr % 8 ≠ 0 then .bad 1
  else if 2 ^ 52 ≤ addr then .bad 4
  else if 2 ^ 51 ≤ addr then .bad 11
  else match s.xlateCur addr need with
    | .hit pa _ => .ok pa
    | .miss => .miss
    | .bad c => .bad c

/-- R149: red: a reduction at the home slice, with an arrival at the barrier object that d names. -/
def execRed (S : Stall) (d a : Opnd) (x : BitVec 4) (o : BitVec 2) (c : BitVec 3) (s : State) : Res :=
  s.issue { takes := true, accepts := redAccepts x.toNat, reads := if d = 0 then [a, q1] else [a, q1, d], ready := s.stRoom }
    fun s =>
      let flt := s.cur.pfx.fa == 0x12
      let f : IFmt := if flt then ⟨32, false⟩ else atomFmt false s.cur.pfx
      let w := f.w / 8
      let addr := s.opn a
      let v := s.opn q1 % 2 ^ f.w
      let od := s.opn d
      let obj := if d = 0 then ObjAt.absent else s.objectAt od 2
      match s.heldAt addr w 2, obj with
      | none, .bad k => s.exact k od
      | none, .miss => s.startWalk s.cc s.cx od 2
      | _, _ =>
        s.globalIssue addr w 2 fun dst s =>
          let i := s.newId
          let rel := o == 2
          let r := { s.mkReq (.red x.toNat flt) i addr w dst with
            signed := f.signed, v := v, waitLocal := if rel then s.cur.localAt else 0
            scope := if rel then some c.toNat else none
            waitsFor := if rel then s.cur.releaseWaits c.toNat s.cc else []
            obj := match obj with | .ok pa => some pa | _ => none }
          let s := (((s.countSt i dst).useId).domainUnr dst).finish S
          let s := match obj with
            | .ok pa => s.countAccess s.cc (s.asidOf s.cc) od pa true
            | _ => s
          s.send r .reductionAtSlice

/-- R153: barm: a release arrival at device scope; d receives the phase before and whether the phase completed. -/
def execBarm (S : Stall) (d a : Opnd) (s : State) : Res :=
  s.issue { reads := [a], ready := s.ldRoom } fun s =>
    let addr := s.opn a
    match s.objectAt addr 3 with
    | .absent => s
    | .bad k => s.exact k addr
    | .miss => s.startWalk s.cc s.cx addr 3
    | .ok pa =>
      let s := s.countAccess s.cc (s.asidOf s.cc) addr pa true
      let i := s.newId
      let r := { s.mkReq .barm i addr 8 (.here pa) with
        waitLocal := s.cur.localAt, scope := some 3, waitsFor := s.cur.releaseWaits 3 s.cc }
      (((s.countLd i (.here pa) false).longResult d).finish S).send r .barrierArrival

/-- R153: bwait: the watch is sent and the context parks; d receives 1 at a completion, 0 at any other wake. -/
def execBwait (S : Stall) (d a p : Opnd) (s : State) : Res :=
  s.issue { reads := [a, p] } fun s =>
    let addr := s.opn a
    let ph := s.opn p
    match s.objectAt addr 1 with
    | .absent => s
    | .bad k => s.exact k addr
    | .miss => s.startWalk s.cc s.cx addr 1
    | .ok pa =>
      let s := s.countAccess s.cc (s.asidOf s.cc) addr pa false
      let i := s.newId
      let r := { s.mkReq .bwatch i addr 8 (.here pa) with v := ph }
      (((s.longResult d).finish S).park (.watch i)).send r .watchArrival

/-! ### Events -/

/-- A global read-modify-write that leaves the word as it was is no write for watches, and is not journalled (R146). -/
def State.gupdate (s : State) (src : Option (Nat × Nat)) (pa w old new : Nat) : State :=
  if new = old then s else s.gwrite src pa w new

/-- R143, R146: an atomic performs in the reduction unit of the home slice, or is rejected. -/
def State.atomicPerforms (s : State) (id : Nat) : State :=
  match SMap.find s.reqs id with
  | none => s
  | some r =>
    if r.remote.isSome then s.awayAnswer r
    else if (s.rejects r).isSome then s.answer r true 0 (s.rejects r)
    else
      let old := s.gread r.pa r.width
      let op := match r.kind with | .atomic op => op | _ => 6
      (s.gupdate r.src r.pa r.width old (atomicNew op r.width r.signed old r.v r.u)).answer r true
        (extend r.width r.signed old) none

/-- R146: ATOMIC_AT_SLICE, for a request. -/
def execAtomicAtSlice (s : State) : Res := .next (s.atSlice .atomicAtSlice State.atomicPerforms s.ev.a)

/-- The new word of a reduction: add, and, or, xor, min, max; an f32 add rounds to nearest and raises no flag (R149). -/
def redNew (op : Nat) (float : Bool) (w : Nat) (signed : Bool) (old v : Nat) : Nat :=
  if float then (f32.add 0 (f32.read old) (f32.read v)).1 else atomicNew op w signed old v 0

/-- R149: a reduction performs, is acknowledged, and sends its arrival to the object it names. -/
def State.reductionPerforms (s : State) (id : Nat) : State :=
  match SMap.find s.reqs id with
  | none => s
  | some r =>
    if r.remote.isSome then s.awayAnswer r
    else if (s.rejects r).isSome then s.answer r false 0 (s.rejects r)
    else
      let old := s.gread r.pa r.width
      let new := match r.kind with | .red op fl => redNew op fl r.width r.signed old r.v | _ => old
      ((s.gwrite r.src r.pa r.width new).answer r false 0 none).sendArrival r

/-- R149: REDUCTION_AT_SLICE, for a request. -/
def execReductionAtSlice (s : State) : Res := .next (s.atSlice .reductionAtSlice State.reductionPerforms s.ev.a)

/-- The object word after an arrival, and whether the phase completes (R151, R152). -/
def arriveWord (m : Nat) : Nat × Bool :=
  let arr := (bitsOf m 24 24 + 1) % 2 ^ 24
  if bitsOf m 0 24 ≤ bitsOf m 24 24 + 1 then (putBits (putBits m 24 24 0) 48 1 (1 - bitsOf m 48 1), true)
  else (putBits m 24 24 arr, false)

/-- Wake the bwait watches on a barrier object (R152). -/
def State.wakeObject (s : State) (pa : Nat) : State :=
  let sl := homeOf pa
  let ws := SMap.get [] s.watches sl
  let hit := ws.filter fun w => w.barrier && w.pa == pa
  let s := { s with watches := SMap.put s.watches sl (ws.filter fun w => !(w.barrier && w.pa == pa)) }
  hit.foldl (fun s w => s.wake w 1) s

/-- A late fault reaches a context of a core as a gang that is out has saved it (R121, R341). -/
def Gang.lateTo (v : Gang) (core ctx : Nat) (f : LateFault) : Gang :=
  let add (k : CoreState) : CoreState := k.setCtx ctx { k.ctx ctx with late := (k.ctx ctx).late ++ [f] }
  { v with saved := v.saved.map fun e => if e.1 = core then (e.1, add e.2) else e }

/-- The rejected arrival of a reduction, which its context no longer counts, reaches the context as a late fault, on its core or with
its gang that is out (R121, R154). -/
def State.rejectArrival (s : State) (r : Req) (cause : Nat) : State :=
  let f := r.lateFault cause
  if (s.core r.core).gang = r.src.map (·.1) then
    if (s.ctxAt r.core r.ctx).status = .free then s else s.modCtx r.core r.ctx fun t => { t with late := t.late ++ [f] }
  else match r.src with
    | none => s
    | some (g, _) => (match SMap.find s.gangs g with | some v => s.setGang g (v.lateTo r.core r.ctx f) | none => s)

/-- R152: an arrival performs at a barrier object, from barm or from a reduction. -/
def State.objectArrives (s : State) (id : Nat) : State :=
  match SMap.find s.reqs id with
  | none => s
  | some r =>
    let barm := r.kind == .barm
    if (s.rejects r).isSome then
      if barm then s.answer r true 0 (s.rejects r)
      else ({ s with reqs := SMap.del s.reqs id }).rejectArrival r ((s.rejects r).getD 0)
    else
      let m := s.gread r.pa 8
      let (m', done) := arriveWord m
      let s := s.gwrite r.src r.pa 8 m'
      let s := if done then s.wakeObject r.pa else s
      if barm then s.answer r true (word (bitsOf m 48 1 + 2 * b2n done)) none
      else { s with reqs := SMap.del s.reqs id }

/-- R152: BARRIER_ARRIVAL, for a request. -/
def execBarrierArrival (s : State) : Res := .next (s.atSlice .barrierArrival State.objectArrives s.ev.a)

end Sys2Proof.Machine
end

