-- ==== Sys2Proof/Machine/System.lean ====
section
/-! DEFINITION. Traps, returns, halts, system registers, the register window, generations, scrubbing, and the events of
this kind: illegal halts, fetch faults, trap entry, interrupts, debug halts, trace, checker tests (R50, R351 to R375). -/
namespace Sys2Proof.Machine

/-! ### Control of execution (R370, R371) -/

/-- R370: trap n: KIND 5, the saved pc the word after. -/
def execTrap (_S : Stall) (n : BitVec 6) (s : State) : Res :=
  s.issue {} fun s =>
    (s.modCur fun t => { t with pc := t.pc + 4, issuedAt := s.now }).takeTrap s.cc s.cx { kind := 5, cause := n.toNat }

/-- R356: eret; outside a handler an exact trap with cause 95. -/
def execEret (_S : Stall) (s : State) : Res :=
  s.issue {} fun s =>
    if s.cur.ih then (s.trapReturn s.cc s.cx).modCur fun t => { t with issuedAt := s.now } else s.exact 95 0

/-- A wait that a trap may end (R75, R280). -/
def Wait.endable : Wait → Bool
  | .sync _ => false
  | .arrival _ => false
  | .walk _ _ => false
  | .checked => false
  | .entry _ => false
  | _ => true

/-- Neither the stall count nor a wait holds a context back (R18). -/
def Ctx.couldIssue (now : Nat) (t : Ctx) : Bool := t.status == .running && t.wait == .none && t.readyAt ≤ now

/-- The contexts of a range of cores selected by a mask and a test, the issuing one left out (R371). -/
def State.haltSet (s : State) (first count mask : Nat) (p : Ctx → Bool) : List (Nat × Nat) :=
  (s.cores.filter fun e => first ≤ e.1 && e.1 < first + count).flatMap fun e =>
    (e.2.ctxs.filter fun x => mask / 2 ^ x.1 % 2 == 1 && p x.2 && !(e.1 == s.cc && x.1 == s.cx)).map fun x => (e.1, x.1)

/-- The answer word of halt (R371). -/
def haltAnswer (n sts : Nat) : Word := word (n % 2 ^ 11 + sts * 2 ^ 16 + 2 ^ 63)

/-- Discard the matrix and vector entries of a context that have not begun (R364). -/
def CoreState.flush (k : CoreState) (ctx : Nat) : CoreState :=
  let gone := k.vec.q.filter fun e => e.ctx == ctx && e.unbegun
  let mgone := k.mat.q.filter fun e => e.ctx == ctx && e.begunAt.isNone
  let t := k.ctx ctx
  let less (b : Batch) : Nat := if b.ctx = ctx then (mgone.filter fun e => e.batch == b.num).length else 0
  let complete := k.mat.batches.filter fun b => b.num != 0 && b.left != 0 && b.left ≤ less b
  let k := k.setCtx ctx { t with vqc := t.vqc - gone.length, mpend := t.mpend - mgone.length, mbc := t.mbc - complete.length }
  { k with vec := { k.vec with q := k.vec.q.filter fun e => !(e.ctx == ctx && e.unbegun) },
           mat := { k.mat with
             q := k.mat.q.filter fun e => !(e.ctx == ctx && e.begunAt.isNone),
             batches := k.mat.batches.map fun b => { b with left := b.left - less b } } }

/-- The barrier groups that a halt names whole: every participant's x0 is in the set (R371). -/
def State.wholeGroups (s : State) (set : List (Nat × Nat)) : List (Nat × Nat) :=
  (set.filterMap fun e => s.groupKey e.1).eraseDups.filter fun (g, i) =>
    (s.members g i).all fun c => set.contains (c, 0)

/-- An order of halt on other contexts (R363, R364, R371). -/
def State.haltOthers (s : State) (d : Opnd) (v : Nat) (S : Stall) : State :=
  let first := bitsOf v 0 11
  let count := bitsOf v 11 11 + 1
  let mask := bitsOf v 22 11
  let opr := bitsOf v 33 2
  let i := s.newId
  let s := (((s.countOp i).longResult d).finish S)
  let request (s : State) (set : List (Nat × Nat)) (precise : Bool) (at_ : Nat) : State :=
    { s with halts := SMap.put s.halts i ⟨s.cc, s.cx, i, set, set.length, precise, at_, []⟩ }
  if bitsOf v 35 29 ≠ 0 ∨ 2048 < first + count then s.respond s.cc s.cx i { v := haltAnswer 0 1 }
  else match opr with
    | 0 =>
      let set := s.haltSet first count mask fun t => t.status == .running
      let s := set.foldl (fun s e => s.modCtx e.1 e.2 fun t => { t with hp := true }) s
      let s := request s set false 0
      if set.isEmpty then s.respond s.cc s.cx i { v := haltAnswer 0 0 }
      else set.foldl (fun s e => (s.postAt (s.now + 1 + s.freeN 0 % 64) 0 .debugHaltLanding ⟨e.1, e.2, i, 0, []⟩).renew) s
    | 1 =>
      let all := s.haltSet first count mask fun t => t.status == .running
      let gs := s.wholeGroups all
      let set := all.filter fun e => match s.groupKey e.1 with | some gi => gs.contains gi | none => false
      let s := set.foldl (fun s e => s.modCtx e.1 e.2 fun t => { t with hp := true }) s
      let s := gs.foldl (fun s gi => s.modGroup gi.1 gi.2 fun g => { g with stopAt := true }) s
      let s := request s set true 0
      if set.isEmpty then s.respond s.cc s.cx i { v := haltAnswer 0 0 } else s
    | 2 =>
      let set := s.haltSet first count mask fun t => t.status == .halted && t.hk == 2
      request s set false (s.now + 64)
    | _ =>
      let set := s.haltSet first count mask fun t => t.status == .halted && t.hk == 2
      let s := set.foldl (fun s e => s.modCore e.1 fun k => k.flush e.2) s
      s.respond s.cc s.cx i { v := haltAnswer set.length 0 }

/-- The debug-halted contexts that a resume names restart, and the resume is answered (R364, R371). -/
def State.restarts (s : State) : State :=
  s.halts.foldl (fun s x =>
    let h := x.2
    if h.at_ = 0 ∨ s.now < h.at_ then s
    else
      let go (t : Ctx) : Ctx :=
        if t.status = .halted ∧ t.hk = 2 ∧ !s.viral then { t with status := .running, hk := 0, readyAt := s.now } else t
      let s := h.left.foldl (fun s e => s.modCtx e.1 e.2 go) s
      let s := h.out.foldl (fun s e => s.modGang e.1 fun v => { v with saved := v.saved.map fun k =>
        if k.1 = e.2.1 then (k.1, k.2.setCtx e.2.2 (go (k.2.ctx e.2.2))) else k }) s
      ({ s with halts := SMap.del s.halts x.1 }).respond h.core h.ctx h.id { v := haltAnswer h.acted 0 }) s

/-- A core belongs to a partition: it runs a gang under it, or is its supervisor core (R351). -/
def State.belongs (s : State) (core p : Nat) : Bool :=
  ((s.core core).gang.isSome && s.partOf core == p) || (s.part p).sup == core

/-- Every core of a range lies in the partition of the issuing core, or the core is of level 2 (R351, R371). -/
def State.rangeAllowed (s : State) (first count : Nat) : Bool :=
  s.level s.cc == 2 || (List.range count).all fun j => s.belongs (first + j) (s.actsFor s.cc)

/-- R371: halt: a self-halt, or an order on a set of contexts. -/
def execHalt (S : Stall) (d a : Opnd) (s : State) : Res :=
  s.issue { reads := [a], ready := s.ldRoom } fun s =>
    let v := s.opn a
    if bitsOf v 22 11 = 0 then
      let word := s.cur.pc.toNat
      let s := (s.result d 0x8000000000000001 1 false 0).finish S
      let s := s.modCur fun t => (t.drain).halted 4 2 0 0
      let m := s.ctxMsg s.cc s.cx 2 0 0
      (s.message (s.partOf s.cc) (if s.cur.rt then { m with pc := word } else m)).haltEnds s.cc s.cx
    else if s.level s.cc = 0 ∨
        (bitsOf v 35 29 = 0 ∧ bitsOf v 0 11 + bitsOf v 11 11 ≤ 2047 ∧ !s.rangeAllowed (bitsOf v 0 11) (bitsOf v 11 11 + 1)) then
      s.exact 92 0
    else s.haltOthers d v S

/-- A halt request changes the contexts it waits for; the last one answers the issuer (R371). -/
def State.modHalt (s : State) (i : Nat) (f : HaltReq → HaltReq) : State :=
  match (SMap.find s.halts i).map f with
  | none => s
  | some h =>
    if h.left.isEmpty && h.out.isEmpty then
      ({ s with halts := SMap.del s.halts i }).respond h.core h.ctx h.id { v := haltAnswer h.acted 0 }
    else { s with halts := SMap.put s.halts i h }

/-- A halt request loses one context (R371). -/
def State.haltDone (s : State) (i : Nat) (e : Nat × Nat) : State := s.modHalt i fun h => { h with left := h.left.filter (· != e) }

/-- A gang is switched out, or comes back to its cores: the halts that wait for its contexts wait on (R341, R371). -/
def State.haltsOut (s : State) (g : Nat) (cs : List Nat) : State :=
  { s with halts := SMap.mapVals s.halts fun h =>
      { h with left := h.left.filter fun e => !cs.contains e.1
               out := h.out ++ (h.left.filter fun e => cs.contains e.1).map fun e => (g, e) } }
def State.haltsBack (s : State) (g : Nat) : State :=
  { s with halts := SMap.mapVals s.halts fun h =>
      { h with left := h.left ++ (h.out.filter fun e => e.1 == g).map (·.2), out := h.out.filter fun e => e.1 != g } }

/-- The contexts of cores, or of a gang that is switched out, end: no halt waits for them any more (R371). -/
def State.haltsGone (s : State) (g : Nat) (cs : List Nat) : State :=
  let mine (h : HaltReq) : Bool := (h.left.any fun e => cs.contains e.1) || h.out.any fun e => e.1 == g
  let less (h : HaltReq) : HaltReq :=
    { h with left := h.left.filter fun e => !cs.contains e.1, out := h.out.filter fun e => e.1 != g }
  let s := cs.foldl (fun s c => s.modCore c fun k => { k with ctxs := SMap.mapVals k.ctxs fun t => { t with hp := false } }) s
  (s.halts.filter fun x => mine x.2).foldl (fun s x => s.modHalt x.1 less) s

/-- A debug halt, precise or not, lands on a context: its fixed-latency results have arrived, a park ends, an arrival at a sync
stands (R74, R280, R297, R363). -/
def State.landHalt (s : State) (core ctx : Nat) (precise : Bool) : State :=
  let s := (s.modCtx core ctx Ctx.drain).unpark core ctx
  let s := if ctx = 0 then s.modCore core fun k => { k with still := precise } else s
  s.modCtx core ctx fun t => { t with status := .halted, hk := 2, hp := false, haltMk := 3, haltCause := 0, haltWord := 0, haltBack := 0
                                      frame := [] }

/-- A debug halt that has been ordered finds local accesses of its context on their way, or a trap that waits to be entered: it
lands behind them (R74). -/
def State.landingHeld (s : State) (core ctx : Nat) : Bool := s.accessing core ctx || (s.ctxAt core ctx).entering

/-- R363: DEBUG_HALT_LANDING, for a core, a context and a halt request: a context in an exchange phase stops later, and so does one
whose local accesses are on their way, which issues nothing until then (R15, R74). -/
def execDebugHaltLanding (s : State) : Res :=
  let c := s.ev.a; let x := s.ev.b; let i := s.ev.c
  let t := s.ctxAt c x
  .next (
    if t.status ≠ .running ∨ !t.hp then (s.modCtx c x fun t => { t with hp := false }).haltDone i (c, x)
    else if (s.core c).ex.phase then (s.postAt (s.now + 1) 0 .debugHaltLanding s.ev)
    else if s.landingHeld c x then
      (s.modCtx c x fun t => { t with readyAt := Nat.max t.readyAt (s.now + 1) }).postAt (s.now + 1) 0 .debugHaltLanding s.ev
    else (s.landHalt c x false).haltDone i (c, x))

/-! ### System registers (R351 to R353, R358 to R360) -/

/-- The TIMER bit of IPEND (R359). -/
def State.timerDue (s : State) (core : Nat) (t : Ctx) : Bool := t.tcmp != 0 && t.tcmp.toNat ≤ s.cyc core

/-- IPEND as it reads (R352, R359). -/
def State.ipend (s : State) (core : Nat) (t : Ctx) : Nat := b2n t.soft + 2 * b2n ((s.timerDue core t || t.tpost))

/-- CTXS (R358). -/
def Ctx.ctxs (t : Ctx) : Nat :=
  (match t.status with | .free => 0 | .running => 1 | .halted => 2 | .ended => 3)
    + 4 * (if t.status = .halted then t.hk else 0) + 32 * b2n t.ih + 64 * b2n t.rt + 128 * b2n t.hp

/-- The address space that 0x200 to 0x205 address, and the partition that 0x210 to 0x21B address (R352). -/
def State.aselOf (s : State) : Nat := s.cur.asel.getD (s.asidOf s.cc)
def State.pselOf (s : State) : Nat := s.cur.psel.getD (s.actsFor s.cc)

/-- An ASID lies in the window of a partition (R351). -/
def Part.owns (p : Part) (asid : Nat) : Bool := p.asb.toNat ≤ asid && asid < p.asb.toNat + p.asn.toNat

/-- The least level that may read, and that may write, a register; 3 where never (R352). -/
def readLevel (n : Nat) : Nat :=
  if n = 0x20E then 2 else if 0x213 ≤ n then 1 else 0
def writeLevel (n : Nat) : Nat :=
  if n = 0 ∨ n = 4 ∨ n = 5 ∨ n = 6 ∨ n = 0x100 ∨ n = 0x101 then 0
  else if n = 0x00F ∨ n = 0x102 ∨ (0x200 ≤ n ∧ n ≤ 0x204) ∨ (0x210 ≤ n ∧ n ≤ 0x214) then 1
  else if n = 0x20E ∨ (0x216 ≤ n ∧ n ≤ 0x21B) ∨ 0x300 ≤ n then 2
  else 3

/-- TRC as it reads (R367). -/
def Trace.ctl (t : Trace) : Nat := t.oct + 2 ^ 8 * t.mode + 2 ^ 10 * b2n t.ring + 2 ^ 12 * b2n t.run + 2 ^ 13 * b2n t.done

def State.trace (s : State) (die : Nat) : Trace := SMap.get {} s.traces die
def State.setTrace (s : State) (die : Nat) (t : Trace) : State := { s with traces := SMap.put s.traces die t }

/-- CHKC and VIR as they read (R368, R369). -/
def State.chkc (s : State) : Nat := s.chkCore + 2 ^ 16 * s.mism
def State.vir (s : State) : Nat := b2n s.viral + 2 ^ 4 * s.virSrc + 2 ^ 16 * s.virUnit

/-- The value of a system register for the current context (R352). -/
def State.sysRead (s : State) (n : Nat) : Word :=
  let t := s.cur
  let k := s.curCore
  let sp := s.space s.aselOf
  let p := s.part s.pselOf
  if 0x040 ≤ n ∧ n ≤ 0x07F then SMap.get 0 t.seqr (n - 0x040)
  else match n with
    | 0x000 => t.st
    | 0x001 => t.trec
    | 0x002 => t.taddr
    | 0x003 => word t.ctxs
    | 0x004 => word t.ien
    | 0x005 => word (s.ipend s.cc t)
    | 0x006 => t.tcmp
    | 0x00F => word s.aselOf
    | 0x100 => k.tvec
    | 0x101 => k.tfa
    | 0x102 => word k.vsw
    | 0x103 => word (s.level s.cc)
    | 0x200 => sp.ptb
    | 0x201 => sp.pct
    | 0x202 => sp.scb
    | 0x203 => sp.ctb
    | 0x204 => sp.fwb
    | 0x205 => word (s.aselOf + 2 ^ 16 * sp.gen)
    | 0x20E => word p.rcb
    | 0x210 => p.gnb
    | 0x211 => p.gnn
    | 0x212 => p.gtb
    | 0x213 => p.flb
    | 0x214 => p.fls
    | 0x215 => word (p.written + 2 ^ 32 * p.lost)
    | 0x216 => p.asb
    | 0x217 => p.asn
    | 0x218 => p.pom0
    | 0x219 => p.pom1
    | 0x21A => p.pom2
    | 0x21B => p.pom3
    | 0x300 => word (s.trace 0).ctl
    | 0x301 => word (s.trace 1).ctl
    | 0x302 => (s.trace 0).trb
    | 0x303 => (s.trace 1).trb
    | 0x304 => (s.trace 0).tst
    | 0x305 => (s.trace 1).tst
    | 0x306 => word s.chkc
    | _ => word s.vir

/-- R372: srr: d receives the register; ST waits for the fixed-latency results of the context (R96). -/
def execSrr (S : Stall) (d : Opnd) (n : BitVec 12) (s : State) : Res :=
  s.issue { ready := n != 0 || s.cur.fixedArrived } fun s =>
    if s.level s.cc < readLevel n.toNat then s.exact 92 0
    else s.opOwn S d 2 (s.sysRead n.toNat)

/-- The number of a partition: 0 for the device root, else by where its RCB lies (R332). -/
def partKey (level pa : Nat) : Nat := if level = 0 then 0 else pa + 1

/-- The partition whose RCB lies at an address: its level field is 1, or 0 for the device root (R331, R353).  A partition
that no launch has named yet has the SUP of its RCB. -/
def State.partAt (s : State) (rcb : Nat) : Option (Nat × State) :=
  match s.xlateFor s.curCore.gang (s.asidOf s.cc) rcb 1 with
  | .error _ => none
  | .ok (pa, s) =>
    let h := s.gread (pa + 8) 8
    let level := bitsOf h 0 3
    let key := partKey level pa
    if rcb % 64 ≠ 0 ∨ 1 < level then none
    else
      let known := (SMap.find s.parts key).isSome
      some (key, (s.meetPart key).modPart key fun v => { v with rcb := rcb, sup := if known then v.sup else bitsOf h 32 11 })

/-- The write rules of R353.  DEDUCED (log 181): an FWB with a bit of 63:51 set is refused, whatever bit 51 is (R300). -/
def State.writeOk (s : State) (n : Nat) (v : Word) : Bool :=
  let x := v.toNat
  match n with
  | 0x100 => x % 4 == 0 && x < 2 ^ 52
  | 0x101 => x % 512 == 0 && x + 5632 ≤ 0x58000
  | 0x204 => x == 0 || (x % 2 ^ 28 == 0 && x < 2 ^ 51)
  | 0x00F => x < 65536 && (s.level s.cc == 2 || (s.part (s.actsFor s.cc)).owns x)
  | 0x20E => (s.partAt x).isSome
  | 0x210 => x + (s.part s.pselOf).gnn.toNat ≤ 32768
  | 0x211 => (s.part s.pselOf).gnb.toNat + x ≤ 32768
  | 0x300 => bitsOf x 0 8 % 32 / 16 == 0
  | 0x301 => bitsOf x 0 8 % 32 / 16 == 1
  | _ => true

/-- Recording starts on the trace unit of a die (R367). -/
def State.traceStart (s : State) (die : Nat) : State :=
  let t := s.trace die
  s.setTrace die { t with run := true, done := false, since := s.now, first := s.tb, recs := [] }

/-- Recording is armed to start at the stamp (R367). -/
def State.traceArm (s : State) (die : Nat) : State :=
  let t := s.trace die
  s.setTrace die { t with run := false, done := false, recs := [] }

/-- The bytes of a trace buffer: header, then the records of up to 65,536 cycles, the oldest first (R367). -/
def Trace.bytes (t : Trace) : List Byte :=
  let recs := (t.recs.take 65536).reverse
  let (first, ssn) := match recs.head? with | some (c, n, _) => (c, n) | none => (t.first, 0)
  toBytes 8 first ++ toBytes 8 t.oct ++ toBytes 8 ssn ++ List.replicate 40 0
    ++ (recs.map fun e => (e.2.2.map fun w => toBytes 4 w).flatten).flatten

/-- Recording ends and the buffer is written, at TRB in the base address space of the device root (R367). -/
def State.traceEnd (s : State) (die : Nat) : State :=
  let t := s.trace die
  if t.run then
    let bs := t.bytes
    let asid := fld (s.part 0).asb 0 16
    let chunk (s : State) (k : Nat) : State :=
      match s.xlateWalk asid (t.trb.toNat + 64 * k) 2 with
      | .error _ => s
      | .ok (pa, s) => s.gputBytes none pa ((bs.drop (64 * k)).take 64)
    let s := (List.range ((bs.length + 63) / 64)).foldl chunk s
    s.setTrace die { s.trace die with run := false, done := true, recs := [] }
  else s

/-- A write of TRC (R367). -/
def State.writeTrc (s : State) (die x : Nat) : State :=
  let s := s.setTrace die { s.trace die with oct := bitsOf x 0 8, mode := bitsOf x 8 2, ring := bitsOf x 10 1 == 1 }
  if bitsOf x 11 1 = 1 then s.traceEnd die
  else match bitsOf x 8 2 with
    | 1 => s.traceStart die
    | 2 => s.traceArm die
    | _ => s

/-- A write of CHKC sets the core under test and makes pending what it injects (R368). -/
def State.writeChkc (s : State) (x : Nat) : State :=
  let c := bitsOf x 0 11
  ({ s with chkCore := c }).modCore c fun k =>
    { k with injS := k.injS || bitsOf x 11 1 == 1, injV := k.injV || bitsOf x 12 1 == 1, injM := k.injM || bitsOf x 13 1 == 1 }

/-- In the viral state the running contexts of some cores halt with HK 5 (R369). -/
def State.viralHalt (s : State) (cs : List Nat) : State :=
  if s.viral then
    cs.foldl (fun s c => (s.core c).ctxs.foldl (fun s x =>
      if x.2.status = .running then s.modCtx c x.1 fun t => (t.drain).halted 5 10 s.virSrc 0 else s) s) s
  else s

/-- R369: the viral state is entered: traffic is blocked by it, and every running context halts with HK 5. -/
def State.enterViral (s : State) (src unit : Nat) : State :=
  if s.viral then s
  else
    let s := { s with viral := true, virSrc := src, virUnit := unit }
    (s.viralHalt (s.cores.map (·.1))).message 0 { core := 0, cause := src, kind := 10 }

/-- A write of TCMP sets the compare value, from which a pending TIMER follows, and clears a posted one (R359, R365). -/
def State.writeTcmp (s : State) (core ctx : Nat) (v : Word) : State := s.modCtx core ctx fun t => { t with tcmp := v, tpost := false }

/-- A write of IPEND: a 1 in bit 0 clears SOFT (R352). -/
def State.writeIpend (s : State) (core ctx : Nat) (v : Word) : State :=
  s.modCtx core ctx fun t => { t with soft := t.soft && !bit v 0 }

/-- Whoever waits for octants is served: some come free, or the set of a partition changes (R337, R427). -/
def State.callServe (s : State) : State := s.postAt s.now 0 .gangStart ⟨0, 0, 1, 0, []⟩

/-- A write of one register of the selected address space (R353). -/
def State.writeSpace (s : State) (f : Space → Space) : State := s.modSpace s.aselOf f

/-- The effect of a write that the rules allow (R352, R353). -/
def State.sysWrite (s : State) (n : Nat) (v : Word) : State :=
  let p (f : Part → Part) : State := s.modPart s.pselOf f
  match n with
  | 0x000 => s.modCur fun t => { t with st := stWritten t.st v }
  | 0x004 => s.modCur fun t => { t with ien := v.toNat % 4 }
  | 0x005 => s.writeIpend s.cc s.cx v
  | 0x006 => s.writeTcmp s.cc s.cx v
  | 0x00F => s.modCur fun t => { t with asel := some v.toNat }
  | 0x100 => s.modCurCore fun k => { k with tvec := v }
  | 0x101 => s.modCurCore fun k => { k with tfa := v }
  | 0x102 => s.modCurCore fun k => { k with vsw := v.toNat % 8 }
  | 0x200 => s.writeSpace fun a => { a with ptb := v }
  | 0x201 => s.writeSpace fun a => { a with pct := v }
  | 0x202 => s.writeSpace fun a => { a with scb := v }
  | 0x203 => s.writeSpace fun a => { a with ctb := v }
  | 0x204 => s.writeSpace fun a => { a with fwb := v }
  | 0x20E => match s.partAt v.toNat with
    | some (k, s) => s.modCur fun t => { t with psel := some k }
    | none => s
  | 0x210 => p fun x => { x with gnb := v }
  | 0x211 => p fun x => { x with gnn := v }
  | 0x212 => p fun x => { x with gtb := v }
  | 0x213 => p fun x => { x with flb := v }
  | 0x214 => p fun x => { x with fls := v }
  | 0x216 => p fun x => { x with asb := v }
  | 0x217 => p fun x => { x with asn := v }
  | 0x218 => (p fun x => { x with pom0 := v }).callServe
  | 0x219 => (p fun x => { x with pom1 := v }).callServe
  | 0x21A => (p fun x => { x with pom2 := v }).callServe
  | 0x21B => (p fun x => { x with pom3 := v }).callServe
  | 0x300 => s.writeTrc 0 v.toNat
  | 0x301 => s.writeTrc 1 v.toNat
  | 0x302 => s.setTrace 0 { s.trace 0 with trb := v }
  | 0x303 => s.setTrace 1 { s.trace 1 with trb := v }
  | 0x304 => s.setTrace 0 { s.trace 0 with tst := v }
  | 0x305 => s.setTrace 1 { s.trace 1 with tst := v }
  | 0x306 => s.writeChkc v.toNat
  | 0x307 => if bit v 0 then s.enterViral 4 0 else s
  | _ => s

/-- R372: srw: the level (cause 92), then the write rules (cause 93), then the write. -/
def execSrw (S : Stall) (v : Opnd) (n : BitVec 12) (s : State) : Res :=
  s.issue { reads := [v] } fun s =>
    if s.level s.cc < writeLevel n.toNat then s.exact 92 0
    else if !s.writeOk n.toNat (s.opnd v) then s.exact 93 0
    else (s.sysWrite n.toNat (s.opnd v)).finish S

/-! ### The register window (R365, R366, R373) -/

/-- The state a window item asks of its target: any, the context halted, the core halted; none where N names nothing
(R365). -/
inductive Need where
  | any | ctx | core
  deriving DecidableEq, Repr

def windowNeed (n : Nat) : Option Need :=
  if n ≤ 0x34 ∧ ¬(0x30 ≤ n ∧ 0x35 ≤ n) then some .ctx
  else if n = 0x35 ∨ n = 0x36 ∨ n = 0x39 then some .any
  else if n = 0x37 ∨ n = 0x38 ∨ n = 0x3A ∨ n = 0x3B then some .ctx
  else if 0x40 ≤ n ∧ n ≤ 0x7F then some .ctx
  else if (0x100 ≤ n ∧ n ≤ 0x10F) ∨ (0x110 ≤ n ∧ n ≤ 0x117) then some .core
  else if 0x10000 ≤ n ∧ n < 0x10000 + 64 * 128 then some .core
  else if 0x12000 ≤ n ∧ n < 0x12000 + 8 * 128 then some .core
  else if 0x20000 ≤ n ∧ n < 0x20000 + 8192 then some .core
  else if 0x100000 ≤ n ∧ n < 0x160000 ∧ n % 8 = 0 then some .core
  else none

/-- Items that the window only reads (R365). -/
def windowReadOnly (n : Nat) : Bool :=
  n == 0x33 || n == 0x34 || n == 0x35 || n == 0x3A || n == 0x3B || (0x40 ≤ n && n ≤ 0x117)

/-- The check of a window target (R351, R365, R366): the cause, or core and context. -/
def State.windowTarget (s : State) (t : Word) (need : Nat → Option Need) (n : Nat) : Except Nat (Nat × Nat) :=
  let c := fld t 0 11
  let x := fld t 11 4
  if s.level s.cc = 0 then .error 92
  else if s.level s.cc = 1 ∧ !s.belongs c (s.actsFor s.cc) then .error 92
  else if 10 < x ∧ n ≠ 0x39 then .error 93
  else match need n with
    | none => .error 93
    | some .any => .ok (c, x)
    | some .ctx => if (s.ctxAt c x).status = .halted then .ok (c, x) else .error 94
    | some .core => if (s.core c).quiet then .ok (c, x) else .error 94

/-- The opcode of a word in a vector queue entry (R365). -/
def opOf (i : Instr) : Nat := match encode i with | some w => bitsOf w.toNat 22 7 | none => 0

/-- The number of a group with bit g set for each group done (R365). -/
def groupMask (gs : List Nat) : Nat := gs.eraseDups.foldl (fun n g => n + 2 ^ g) 0

/-- The value of a window item (R365). -/
def State.windowRead (s : State) (c x n : Nat) : Word :=
  let k := s.core c
  let t := k.ctx x
  let four (gs : List Nat) : Nat := (gs.take 4).foldr (fun g n => g % 65536 + 65536 * n) 0
  if n ≤ 0x1F then t.g n
  else if n ≤ 0x2F then t.q (n - 0x1F)
  else if 0x40 ≤ n ∧ n ≤ 0x7F then SMap.get 0 t.seqr (n - 0x40)
  else if 0x100 ≤ n ∧ n ≤ 0x10F then
    match k.vec.q[n - 0x100]? with
    | some e => word (e.seq + 2 ^ 16 * e.ctx + 2 ^ 20 * opOf e.ins + 2 ^ 27 * groupMask e.begun)
    | none => 0
  else if 0x110 ≤ n ∧ n ≤ 0x117 then
    match k.mat.q[n - 0x110]? with
    | some e => word (e.seq + 2 ^ 16 * e.ctx + 2 ^ 20 * e.acc + 2 ^ 23 * b2n e.begunAt.isSome)
    | none => 0
  else if 0x10000 ≤ n ∧ n < 0x12000 then (SMap.get 0 k.vec.v (n - 0x10000)).zeroExtend 64
  else if 0x12000 ≤ n ∧ n < 0x12400 then (SMap.get 0 k.vec.ix (n - 0x12000)).zeroExtend 64
  else if 0x20000 ≤ n ∧ n < 0x22000 then (SMap.get 0 k.mat.acc (n - 0x20000)).zeroExtend 64
  else if 0x100000 ≤ n then word (s.lread c (n - 0x100000) 8)
  else match n with
    | 0x30 => t.st
    | 0x31 => t.pc.zeroExtend 64
    | 0x32 => word t.vl
    | 0x33 => word (t.ld.length % 64 + 2 ^ 6 * (t.stq.length % 128) + 2 ^ 13 * (t.enc % 32) + 2 ^ 18 * (t.mbc % 16)
        + 2 ^ 22 * (t.vqc % 32))
    | 0x34 => word (t.haltCause % 256 + 2 ^ 8 * (t.haltMk % 16) + 2 ^ 32 * t.haltWord.toNat)
    | 0x35 => word t.ctxs
    | 0x37 => t.trec
    | 0x38 => t.taddr
    | 0x39 => word k.vsw
    | 0x3A => word (four t.groups)
    | 0x3B => word (four (t.groups.drop 4))
    | _ => 0

/-- A write of a window item; a register's or a slot's pending mark is cleared (R365, R366). -/
def State.windowWrite (s : State) (c x n : Nat) (v : Word) : State :=
  if n ≤ 0x1F then s.modCtx c x fun t =>
    { t.setG n v with pend := t.pend.map fun p => if p.reg = some n then { p with reg := none } else p }
  else if n ≤ 0x2F then s.modCtx c x fun t =>
    let k := t.slotNo (n - 0x1F)
    { t.setSlot k v with pend := t.pend.map fun p => if p.slot = some k then { p with slot := none } else p }
  else if 0x10000 ≤ n ∧ n < 0x12000 then
    s.modCore c fun k => { k with vec := { k.vec with v := SMap.set 0 k.vec.v (n - 0x10000) (v.truncate 32) } }
  else if 0x12000 ≤ n ∧ n < 0x12400 then
    s.modCore c fun k => { k with vec := { k.vec with ix := SMap.set 0 k.vec.ix (n - 0x12000) (v.truncate 6) } }
  else if 0x20000 ≤ n ∧ n < 0x22000 then
    s.modCore c fun k => { k with mat := k.mat.poke (n - 0x20000) (v.truncate 32) }
  else if 0x100000 ≤ n then s.lwrite c (n - 0x100000) 8 v.toNat
  else match n with
    | 0x30 => s.modCtx c x fun t => { t with st := stForced v, frame := [] }
    | 0x31 => s.modCtx c x fun t => { t with pc := v.truncate 52, frame := [], haltBack := 0 }
    | 0x32 => s.modCtx c x fun t => { t with vl := roundVl v.toNat }
    | 0x36 => s.modCtx c x fun t => { t with soft := t.soft || bit v 0, tpost := t.tpost || bit v 1 }
    | 0x37 => s.modCtx c x fun t => { t with trec := v }
    | 0x38 => s.modCtx c x fun t => { t with taddr := v }
    | 0x39 => s.modCore c fun k => { k with vsw := v.toNat % 8 }
    | _ => s

/-- R373: wrd: d receives an item of the target, as a long-operation result counted in ldc. -/
def execWrd (S : Stall) (d a b : Opnd) (s : State) : Res :=
  s.issue { reads := [a, b], ready := s.ldRoom } fun s =>
    match s.windowTarget (s.opnd a) windowNeed (s.opn b) with
    | .error c => s.exact c 0
    | .ok (c, x) =>
      let v := s.windowRead c x (s.opn b)
      let i := s.newId
      (((s.countOp i).longResult d).finish S).respond s.cc s.cx i { v := v }

/-- R373: wwr: an item of the target is written; counted in stc.  A write of an item that is only read, or of a pc that
is no multiple of 4, takes cause 93. -/
def execWwr (S : Stall) (v a b : Opnd) (s : State) : Res :=
  s.issue { reads := [v, a, b], ready := s.stRoom } fun s =>
    let n := s.opn b
    let x := s.opnd v
    let need (n : Nat) : Option Need := if windowReadOnly n || (n == 0x31 && x.toNat % 4 != 0) then none else windowNeed n
    match s.windowTarget (s.opnd a) need n with
    | .error c => s.exact c 0
    | .ok (c, y) =>
      if n ≥ 0x100000 ∧ s.guarded c (n - 0x100000) 8 then s.hold
      else
        let i := s.newId
        let s := ((s.countOpSt i).useId).finish S
        (s.windowWrite c y n x).respondOn 0 .storeAcknowledgement s.cc s.cx i {}

/-- The restart of a halted context (R75, R80, R373); one that halted at a captured word and goes on there goes on in its frame
(R52). -/
def Ctx.resumed (t : Ctx) (pc : BitVec 52) (at_ : Nat) : Ctx :=
  { t with status := .running, hk := 0, readyAt := at_, frame := [], haltBack := 0
           pc := if pc = t.pc ∧ t.inFrame = true then pc - BitVec.ofNat 52 t.haltBack else pc }

/-- R373: wres: a halted context goes on at an address, or at its saved program counter; counted in stc. -/
def execWres (S : Stall) (d a b : Opnd) (s : State) : Res :=
  s.issue { reads := [a, b], ready := s.stRoom } fun s =>
    let addr := s.opnd b
    match s.windowTarget (s.opnd a) (fun _ => some .ctx) 0 with
    | .error c => s.exact c 0
    | .ok (c, x) =>
      if (s.ctxAt c x).hk = 5 then s.exact 94 0
      else if addr ≠ BitVec.allOnes 64 ∧ (addr.toNat % 4 ≠ 0 ∨ 2 ^ 52 ≤ addr.toNat) then s.exact 93 0
      else
        let i := s.newId
        let s := ((s.countOpSt i).longResult d).finish S
        let s := s.modCtx c x fun t =>
          t.resumed (if addr = BitVec.allOnes 64 then t.pc else addr.truncate 52) (s.now + 1)
        s.respond s.cc s.cx i { v := 0x8000000000000000 }

/-! ### Generations and translation (R121, R374) -/

/-- The level-0 core's own ASID, or one of the partition's at level 1, or any at level 2 (R351, R374). -/
def State.asidAllowed (s : State) (asid : Nat) : Bool :=
  match s.level s.cc with
  | 0 => asid == s.asidOf s.cc
  | 1 => (s.part (s.actsFor s.cc)).owns asid
  | _ => true


/-- The accesses in flight that carry the old generation of an address space either perform or are rejected: a free
choice for each (R121). -/
def State.splitOld (s : State) (asid old new : Nat) : State :=
  let (rs, _) := s.reqs.foldl (fun (acc : SMap Req × Nat) e =>
    let r := e.2
    if r.asid = asid ∧ r.gen = old then
      (acc.1 ++ [(e.1, if Config.freeBool (64 * s.fresh + acc.2) then { r with gen := new } else r)], acc.2 + 1)
    else (acc.1 ++ [e], acc.2)) ([], 0)
  ({ s with reqs := rs }).renew

/-- The effects of a gen on an address space (R121, R374). -/
def State.newGeneration (s : State) (asid : Nat) : State :=
  let sp := s.space asid
  let gen := (sp.gen + 1) % 65536
  let s := s.splitOld asid sp.gen gen
  let s := s.cores.foldl (fun s e =>
    let (mine, rest) := e.2.tlb.partition fun x => x.asid == asid
    (mine.foldl State.flushCounts s).modCore e.1 fun k => { k with tlb := rest }) s
  let s := s.watches.foldl (fun s e =>
    let (mine, rest) := e.2.partition fun w => w.asid == asid
    mine.foldl (fun s w => s.wake w 0) { s with watches := SMap.put s.watches e.1 rest }) s
  let s := s.renew
  s.modSpace asid fun x =>
    { x with gen := gen, oldPtb := x.ptb, oldPct := x.pct, oldScb := x.scb, oldCtb := x.ctb, oldFwb := x.fwb,
             fetchFrom := s.fresh, code := s.gbytes x.ctb.toNat 288 }

/-- R374: gen: a new generation; d arrives once every access of the old one has performed or been rejected. -/
def execGen (S : Stall) (d a : Opnd) (s : State) : Res :=
  s.issue { reads := [a], ready := s.cur.drained } fun s =>
    let asid := s.opn a % 65536
    if !s.asidAllowed asid then s.exact 92 0
    else
      let i := s.newId
      let s := (((s.countOp i).longResult d).setUnr s.cc).finish S
      let olds := (s.reqs.filter fun e => e.2.asid == asid).map (·.1)
      let keyed := (s.kreqs.filter fun e => e.2.asid == asid).map (·.1)
      let cmds := s.cores.flatMap fun e => (e.2.cmds.filter fun c => c.asid == asid && c.begun && !c.ended).map fun c => (e.1, c.id)
      let s := s.newGeneration asid
      { s with genWaits := s.genWaits ++ [⟨s.cc, s.cx, i, word ((s.space asid).gen + 2 ^ 63), olds, keyed, cmds⟩] }

/-- The translation caches that a tlbi reaches (R374). -/
def TlbWait.reaches (w : TlbWait) (core : Nat) : Bool :=
  (w.scope == 0 && core == w.core) || (w.scope == 1 && dieOf core == dieOf w.core) || w.scope == 2

/-- The walk that a context waits for completes its access, and its entry is not cached (R374). -/
def Ctx.walkAlone (t : Ctx) : Ctx :=
  match t.wait with
  | .walk _ _ => { t with rewalk := true }
  | _ => t

/-- A tlbi acts: the entries it names go, their counts added into memory, and what walks of the address space find is not
cached (R120, R374). -/
def State.tlbDrop (s : State) (w : TlbWait) : State :=
  let hit (e : TlbEntry) : Bool := e.asid == w.asid && (w.all || (e.vpage ≤ w.va && w.va < e.vpage + e.size))
  s.cores.foldl (fun s e =>
    if w.reaches e.1 then
      let (gone, rest) := e.2.tlb.partition hit
      (gone.foldl State.flushCounts s).modCore e.1 fun k =>
        { k with tlb := rest, ctxs := if s.asidOf e.1 = w.asid then k.ctxs.map fun x => (x.1, x.2.walkAlone) else k.ctxs }
    else s) s

/-- Those of the tlbi on their way that are due act, and are answered in the same cycle (R374). -/
def State.tlbActs (s : State) : State :=
  let (due, rest) := s.tlbWaits.partition fun w => w.due ≤ s.now
  due.foldl (fun s w =>
    let s := s.tlbDrop w
    ({ s with resps := SMap.put s.resps w.id { v := word (2 ^ 63) } }).postAt s.now 0 .resultArrival ⟨w.core, w.ctx, w.id, 0, []⟩)
    { s with tlbWaits := rest }

/-- R374: tlbi: it acts after a free delay, and d arrives then. -/
def execTlbi (S : Stall) (d a b : Opnd) (s : State) : Res :=
  s.issue { reads := [a, b], ready := s.cur.drained } fun s =>
    let va := s.opn a
    let v := s.opn b
    let asid := bitsOf v 0 16
    let scope := bitsOf v 16 2
    if !s.asidAllowed asid then s.exact 92 0
    else
      let i := s.newId
      let s := (((s.countOp i).longResult d).setUnr s.cc).finish S
      if scope = 3 ∨ bitsOf v 19 45 ≠ 0 then s.respond s.cc s.cx i { v := word (2 ^ 16 + 2 ^ 63) }
      else
        let w : TlbWait := ⟨s.cc, s.cx, i, asid, va, bitsOf v 18 1 == 1, scope, s.now + 1 + s.freeN 0⟩
        State.renew { s with tlbWaits := s.tlbWaits ++ [w] }

/-! ### Scrubbing (R375) -/

/-- A core with everything a scrub zeroes at zero; its pending injections are discarded (R368, R375). -/
def CoreState.scrubbed (k : CoreState) : CoreState := { vsw := k.vsw }

/-- Global bytes that `p` selects become zero: what code words held may still be fetched (R26), and watches on their lines
wake. -/
def State.zeroBytes (s : State) (p : Nat → Bool) : State :=
  let words := ((s.mem.filter fun e => p e.1).map fun e => e.1 / 4 * 4).eraseDups
  let s := { s with stale := words.map (fun a => (a, s.fresh, s.gread a 4)) ++ s.stale
                    mem := s.mem.filter fun e => !p e.1 }
  (s.wakeAll p).renew

/-- The slices of a range lose their facets' contents, journals, combining buffers and watch tables (R375). -/
def State.scrubSlices (s : State) (first count : Nat) : State :=
  let inside (i : Nat) : Bool := first ≤ i && i < first + count
  let s := s.zeroBytes fun a => facetBase ≤ a && inside ((a - facetBase) / 65536 / 32)
  let keep {α : Type} (m : SMap α) : SMap α := m.filter fun e => !inside e.1
  { s with journals := keep s.journals, combs := keep s.combs, watches := keep s.watches }

/-- An address lies in the journal of accepted commands of some partition (R379). -/
def inJournal (a : Nat) : Bool :=
  (List.range 256).any fun w => Config.hostRegion w + 0x40000 ≤ a && a < Config.hostRegion w + 0x80000

/-- The whole device is scrubbed, but for its management state and the journals of accepted commands (R375). -/
def State.scrubDevice (s : State) : State :=
  let s := s.scrubSlices 0 128
  let s := s.zeroBytes fun a => a < facetBase && !inJournal a
  { s with cores := SMap.mapVals s.cores CoreState.scrubbed, arrays := [], clauseReqs := [], maps := [], versions := [], kreqs := []
           kwait := [], counters := [] }

/-- A scrub by its operand: none where it is malformed; the status and the new state (R375). -/
def State.scrubBy (s : State) (v : Nat) : Nat × State :=
  let held (first count : Nat) : Bool := s.units.any fun e => e.1 < 4096 && first ≤ e.1 / 32 && e.1 / 32 < first + count
  match v % 4 with
  | 0 =>
    let first := bitsOf v 2 11
    let count := bitsOf v 13 11 + 1
    let inside (c : Nat) : Bool := first ≤ c && c < first + count
    if 2048 < first + count then (1, s)
    else if s.cores.any fun e => inside e.1 && e.2.gang.isSome then (2, s)
    else
      let zero (e : Nat × CoreState) : Nat × CoreState := if inside e.1 then (e.1, e.2.scrubbed) else e
      (0, { s with cores := s.cores.map zero })
  | 1 =>
    let first := bitsOf v 2 7
    let count := bitsOf v 9 7 + 1
    if 128 < first + count then (1, s) else if held first count then (2, s) else (0, s.scrubSlices first count)
  | 2 =>
    let base := bitsOf v 16 24
    let len := bitsOf v 40 24
    if 2 ^ 23 < base + len then (1, s)
    else (0, s.zeroBytes fun a => 65536 * base ≤ a && a < 65536 * (base + len))
  | _ => if s.cores.any (fun e => e.2.gang.isSome) || held 0 128 then (2, s) else (0, s.scrubDevice)

/-- R375: scrub: level 2 (cause 92); the corrected errors it finds are free. -/
def execScrub (S : Stall) (d a : Opnd) (s : State) : Res :=
  s.issue { reads := [a], ready := s.cur.drained } fun s =>
    if s.level s.cc ≠ 2 then s.exact 92 0
    else
      let v := s.opn a
      let i := s.newId
      let s := (((s.countOp i).longResult d).setUnr s.cc).finish S
      let errors := s.freeN 1 % 65536
      let (sts, s) := s.scrubBy v
      s.respond s.cc s.cx i { v := word (2 ^ 63 + sts * 2 ^ 16 + (if sts = 0 then errors else 0)) }

/-! ### Events -/

/-- An instruction outside majors 0x00 to 0x1D that accesses memory at an address of its operands (R76). -/
def accessesMemory (i : Instr) : Bool :=
  match i with
  | .barm _ _ _ | .bwait _ _ _ _ | .vld _ _ _ _ _ _ | .vst _ _ _ _ _ _ | .vldx _ _ _ _ | .vstx _ _ _ _ | .mma _ _ _ _ _ _ _
  | .mmr _ _ _ _ _ | .mtile _ _ _ _ _ | .mrd _ _ _ _ _ | .mwr _ _ _ _ _ | .knew _ _ _ _ | .kiter _ _ _ _ | .fpush _ _ _ _
  | .pland _ _ _ _ | .xmit _ _ _ | .xsel _ _ _ _ | .cwr _ _ _ _ | .clrn _ _ _ _
  | .syncC _ _ _ _ | .launch _ _ _ | .schsel _ _ _ _ => true
  | _ =>
    let w := ((encode i).getD 0).toNat
    let op := bitsOf w 22 7
    let xf := bitsOf w 6 4
    0x20 ≤ op && op ≤ 0x2A && !(op == 0x27 && (xf == 0 || xf == 2))

/-- R76: the words that the checker stage recomputes: majors 0x00 to 0x1D, and the effective address of every access to memory. -/
def checkedWord (i : Instr) : Bool :=
  match encode i with
  | none => false
  | some w => bitsOf w.toNat 22 7 ≤ 0x1D || accessesMemory i

/-- R76, R368: IN_ORDER_CHECK, for a core and the context whose word retires: a word that passes changes nothing; an
injected mismatch stops the context, none of whose further effects is committed, and is contained as R23 gives. -/
def State.inOrderCheck (s : State) (core ctx : Nat) : State :=
  if (s.core core).injS then
    ((s.modCore core fun k => { k with injS := false }).modCtx core ctx fun t => { t with wait := .checked }).mismatch core
  else s

def execInOrderCheck (s : State) : Res := .next (s.inOrderCheck s.ev.a s.ev.b)

/-- R50: ILLEGAL_WORD_HALT: the current context halts at the word given, with the cause given. -/
def execIllegalWordHalt (s : State) : Res := .next (s.illegalHalt s.ev.a (s.ev.w.truncate 32))

/-- R354: FETCH_FAULT: the current context's next word cannot be fetched, by address and cause. -/
def execFetchFault (s : State) : Res := .next (s.fetchTrap s.cc s.cx s.ev.w.toNat s.ev.a)

/-- A waitc whose condition holds has ended: the word behind it is the next to issue (R121, R139). -/
def State.endMet (s : State) (core ctx : Nat) : State :=
  match (s.ctxAt core ctx).wait with
  | .counter k limit =>
    if (s.ctxAt core ctx).counter k ≤ limit then s.modCtx core ctx fun t => { t.advance with wait := .none } else s
  | _ => s

/-- R121, R356: TRAP_ENTRY: a late fault of a context is taken before its next issue. -/
def State.takeLate (s : State) (core ctx : Nat) : State :=
  match (s.ctxAt core ctx).late with
  | [] => s
  | f :: fs =>
    let s := s.modCtx core ctx fun t => { t with late := fs, groups := if f.kind = 3 then f.groups else t.groups }
    ((s.endMet core ctx).unpark core ctx).takeTrap core ctx
      { kind := f.kind, cause := f.cause, seq := f.seq, det := f.det, addr := f.addr, groups := f.groups }

def execTrapEntry (s : State) : Res := .next (s.takeLate s.ev.a s.ev.b)

/-- An interrupt of a context may be taken now (R359). -/
def State.interruptDue (s : State) (core : Nat) (ctx : Nat) : Bool :=
  let k := s.core core
  let t := k.ctx ctx
  t.status == .running && (t.ien &&& s.ipend core t) != 0 && !t.ih && !t.rt && k.tvec != 0
    && !(k.ex.phase && ctx == 0)
    && t.wait.endable

/-- R359: INTERRUPT: the lowest pending enabled cause is taken; SOFT is cleared by it, TIMER is not. -/
def State.interrupt (s : State) (core ctx : Nat) : State :=
  if s.interruptDue core ctx then
    let t := s.ctxAt core ctx
    let soft := (t.ien &&& s.ipend core t) % 2 == 1
    let s := (s.endMet core ctx).unpark core ctx
    let s := if soft then s.modCtx core ctx fun t => { t with soft := false } else s
    s.takeTrap core ctx { kind := 6, cause := if soft then 0 else 1 }
  else s

def execInterrupt (s : State) : Res := .next (s.interrupt s.ev.a s.ev.b)

/-- R359: TIMER_COMPARE: TIMER reads from TCMP and the time base at every moment, so that it becomes pending needs no
change of state; the event marks the moment. -/
def execTimerCompare (s : State) : Res := .next s

/-- R359: TCMP_WRITE, of a core and a context. -/
def execTcmpWrite (s : State) : Res := .next (s.writeTcmp s.ev.a s.ev.b s.ev.w)

/-- R352: IPEND_WRITE, of a core and a context. -/
def execIpendWrite (s : State) : Res := .next (s.writeIpend s.ev.a s.ev.b s.ev.w)

/-- R365: IPOST: bits 1:0 of the value make SOFT and TIMER pending at a core and a context. -/
def execIpost (s : State) : Res := .next (s.windowWrite s.ev.a s.ev.b 0x36 s.ev.w)

/-- R367: TRACE_START, for a die. -/
def execTraceStart (s : State) : Res := .next (s.traceStart s.ev.a)
/-- R367: TRACE_ARM, for a die. -/
def execTraceArm (s : State) : Res := .next (s.traceArm s.ev.a)
/-- R367: TRACE_STAMP, for a die: the time base has reached TST. -/
def execTraceStamp (s : State) : Res :=
  .next (if (s.trace s.ev.a).mode = 2 then s.traceStart s.ev.a else s)
/-- R367: TRACE_STOP, for a die. -/
def execTraceStop (s : State) : Res := .next (s.traceEnd s.ev.a)
/-- R367: TRACE_END, for a die: 65,536 cycles have been recorded. -/
def execTraceEnd (s : State) : Res := .next (s.traceEnd s.ev.a)

/-- R368: INJECT_SCALAR, for a core. -/
def execInjectScalar (s : State) : Res := .next (s.modCore s.ev.a fun k => { k with injS := true })
/-- R368: INJECT_VECTOR, for a core. -/
def execInjectVector (s : State) : Res := .next (s.modCore s.ev.a fun k => { k with injV := true })
/-- R368: INJECT_MATRIX, for a core. -/
def execInjectMatrix (s : State) : Res := .next (s.modCore s.ev.a fun k => { k with injM := true })

/-- R369: VIRAL_ENTRY, by source and unit. -/
def execViralEntry (s : State) : Res := .next (s.enterViral s.ev.a s.ev.b)

end Sys2Proof.Machine
end

