-- ==== Sys2Proof/Machine/Superstep.lean ====
section
/-! DEFINITION. Supersteps: sync and its releases, the imbalance record, the exchange fabric, checkpoints, the undo log,
errors and rollback (R273 to R297, R428). -/
namespace Sys2Proof.Machine

/-! ### Arrival at a sync (R275 to R277) -/

/-- What a context must have finished before it may end its part of a superstep or of a gang (R276, R349). -/
def Ctx.workDone (t : Ctx) : Bool := t.vqc == 0 && t.enc == 0 && t.mpend == 0 && t.drained

/-- The cycle after the last local access of the current context performed has been reached (R276). -/
def State.localDone (s : State) : Bool := (s.cur.localAt == 0 || s.cur.localAt < s.now) && !s.accessing s.cc s.cx

/-- A helper of a core is live: started and not yet joined (R14, R349). -/
def CoreState.helperLive (k : CoreState) : Bool := k.ctxs.any fun x => x.1 != 0 && x.2.status != .free

/-- The cycles from the last arrival to the release (R277). -/
def barrierDelay (cs : List Nat) : Nat :=
  let same (f : Nat → Nat) : Bool := match cs with | [] => true | c :: cs => cs.all fun d => f d == f c
  if same octOf then 6 else if same nodeOf then 10 else if same dieOf then 20 else 32

/-- A route table: the bindings by input; none where an entry breaks R285. -/
def routeOf (ms : List Nat) : Nat → List Nat → Option (SMap Nat)
  | _, [] => some []
  | i, e :: es =>
    match routeOf ms (i + 1) es with
    | none => none
    | some r =>
      if e / 2 ^ 15 = 1 then (if bitsOf e 11 4 = 0 ∧ ms.contains (e % 2048) then some (SMap.put r i (e % 2048)) else none)
      else if e = 0 then some r else none

/-- The fault of a sync, the first that applies (R276), but for its route table. -/
def State.syncFault (s : State) (x : Bool) (sc : Nat) : Option Nat :=
  if s.cx ≠ 0 then some 52
  else if s.curCore.ex.phase != x then some 54
  else if (match s.curCore.gang with | some g => (s.gang g).chain.ssc != sc | none => true) then some 50
  else if s.curCore.helperLive then some 51
  else none

/-- The participants whose arrival a release waits for: in an exchange phase, those the timeout has not passed over. -/
def State.awaited (s : State) (g i : Nat) : List Nat :=
  let v := s.group g i
  (s.members g i).filter fun c => !v.late.contains c

/-- The control context arrives at its group's barrier; the last arrival sets the release (R276, R277). -/
def State.syncArrive (s : State) (S : Stall) (d : Opnd) (x : Bool) : State :=
  match s.groupKey s.cc with
  | none => s
  | some (g, i) =>
    let v := s.group g i
    let arrived := v.arrived ++ [(s.cc, s.cyc s.cc)]
    let s := ((s.finish S).park (.sync d)).modGroup g i fun v => { v with arrived := arrived }
    let ms := if x then s.awaited g i else s.members g i
    if ms.all fun c => arrived.any fun e => e.1 == c then
      s.postAt (s.now + barrierDelay (s.members g i)) 0 (if x then .syncXRelease else .syncCRelease) ⟨g, i, 0, 0, []⟩
    else s

/-- R276: sync.c: the route table is read as a local load. -/
def execSyncC (S : Stall) (d a : Opnd) (c : BitVec 2) (s : State) : Res :=
  s.issue { exchange := true, reads := [a], ready := s.cur.workDone && s.localDone } fun s =>
    match s.syncFault false c.toNat with
    | some k => s.exact k 0
    | none =>
      if a = 0 then (s.modCurCore fun k => { k with ex := { k.ex with newBinds := none } }).syncArrive S d false
      else
        let addr := s.opn a
        match s.target s.cc addr 16 16 with
        | .error 3 => s.exact 3 addr
        | .error _ => s.exact 53 addr
        | .ok (tc, o) =>
          let s := s.catchUp tc
          let es := (List.range 8).map fun i => s.lread tc (o + 2 * i) 2
          let ms := match s.groupKey s.cc with | some (g, i) => s.members g i | none => []
          match routeOf ms 0 es with
          | none => s.exact 53 addr
          | some r =>
            ((s.modCurCore fun k => { k with ex := { k.ex with newBinds := some r } }).syncArrive S d false).madeLocal tc

/-- R276: sync.x. -/
def execSyncX (S : Stall) (d : Opnd) (c : BitVec 2) (s : State) : Res :=
  s.issue { exchange := true, ready := s.cur.workDone && s.localDone } fun s =>
    match s.syncFault true c.toNat with
    | some k => s.exact k 0
    | none => s.syncArrive S d true

/-! ### Releases (R278 to R281) -/

/-- UNR as a sync or ulog reports it (R279). -/
def State.unr (s : State) (g i : Nat) : Bool := !(s.gang g).chain.rbe || (s.group g i).unr

/-- The status word of a sync (R279). -/
def syncStatus (unr rb xc xl xr : Bool) (rbc : Nat) : Word :=
  word (b2n unr + 2 * b2n rb + 4 * b2n xc + 8 * b2n xl + 16 * b2n xr + 2 ^ 8 * rbc)

/-- A context waits at a sync for its release; where its result goes. -/
def Ctx.syncDest (t : Ctx) : Option Opnd := match t.wait with | .sync d => some d | _ => none

/-- A participant is released: the status is delivered, and its next instruction may issue (R277, R278). -/
def State.syncRelease (s : State) (core : Nat) (status : Word) : State :=
  match (s.ctxAt core 0).syncDest with
  | none => s
  | some d =>
    let s := { s with cc := core, cx := 0 }
    (s.result d status 0 false 0).modCur fun t => { t.settle s.now with wait := .none }

/-- A participant that a stop holds back: its release waits until it goes on (R280). -/
def State.heldBack (s : State) (g i : Nat) : Bool :=
  !s.residentGang g || (s.members g i).any fun c => (s.ctxAt c 0).status != .running || s.stopped c

/-- R278: SYNC_C_RELEASE, for a gang and a group. -/
def State.releaseC (s : State) (g i : Nat) : State :=
  let ms := s.members g i
  if !(ms.all fun c => (s.group g i).arrived.any fun e => e.1 == c) then s
  else if s.heldBack g i then s.postAt (s.now + 1) 0 .syncCRelease ⟨g, i, 0, 0, []⟩
  else
    let v := s.group g i
    let status := syncStatus (s.unr g i) v.rb false false false v.rbc
    let s := ms.foldl (fun s c =>
      (s.modCore c fun k =>
        { k with ex := { k.ex with phase := true, binds := k.ex.newBinds.getD k.ex.binds, newBinds := none,
                                   xc := false, xl := false, xr := false } }).syncRelease c status) s
    let s := s.modGroup g i fun v => { v with cArr := v.arrived, arrived := [], xrel := s.tb, startAt := s.now, late := [] }
    s.postAt (s.now + 65536) 0 .exchangeTimeout ⟨g, i, s.now, 0, []⟩

def execSyncCRelease (s : State) : Res := .next (s.releaseC s.ev.a s.ev.b)

/-- The imbalance record of a group (R282). -/
def State.imbalance (s : State) (g i : Nat) (xst : Nat) : List Nat :=
  let v := s.group g i
  let ts := v.cArr.map (·.2)
  let late := ts.foldl Nat.max 0
  let early := (minOf ts).getD 0
  let last := (minOf ((v.cArr.filter fun e => e.2 == late).map (·.1))).getD 0
  let num := if (s.gang g).chain.ssc = 3 then 0xFFFF else i
  [v.ssn, early, late, ts.foldl (· + ·) 0 % 2 ^ 64, last + 2 ^ 16 * (s.members g i).length + 2 ^ 32 * num, v.xrel, s.tb,
    xst + 2 ^ 8 * v.rbc]

/-- The record is kept by the barrier network, and appended to the gang's ring in memory (R283).  DEDUCED (log 180): the ring position
moves on even where the write fails. -/
def State.writeRecord (s : State) (g i : Nat) (r : List Nat) : State :=
  let s := s.modGroup g i fun v => { v with records := ((r.map word) :: v.records).take 16 }
  let v := s.gang g
  if v.chain.rsz = 0 then s
  else
    let va := v.chain.ring + 64 * (v.ringAt % v.chain.rsz)
    let s := s.setGang g { v with ringAt := v.ringAt + 1 }
    match s.xlateFor (some g) v.chain.asid va 2 with
    | .ok (pa, s) => s.gputBytes none pa (wordBytes r)
    | .error k =>
      s.message v.chain.part { core := (s.members g i).headD 0, cause := k, kind := 7, gang := g, ssn := (s.group g i).ssn }

/-- The snapshot of a control context (R291). -/
def CoreState.snapshot (k : CoreState) (d : Option Opnd) : Snap :=
  let t := (k.ctx 0).drain
  { regs := t.regs, slots := t.slots, head := t.head, st := t.st, vl := t.vl, pc := t.pc, regions := k.regions,
    statusReg := d.bind destReg, statusSlot := if d.isSome then some t.head.toNat else none, ih := t.ih }

/-- The checkpoint of a participant: snapshot, empty undo log, the results kept (R245, R291). -/
def State.checkpoint (s : State) (core : Nat) (d : Option Opnd) : State :=
  s.modCore core fun k =>
    { k with undo := { k.undo with lines := [], lov := false, snap := k.snapshot d }, oldResults := k.results }

/-- The counts of a core's translation cache go to memory (R120). -/
def State.flushTlb (s : State) (core : Nat) : State :=
  let clear (e : TlbEntry) : TlbEntry := { e with counts := [] }
  ((s.core core).tlb.foldl State.flushCounts s).modCore core fun k => { k with tlb := k.tlb.map clear }

/-- A halt request lands on a context it still waits for; a precise one sends a message (R15, R363). -/
def State.landFor (s : State) (i : Nat) (h : HaltReq) (e : Nat × Nat) : State :=
  let t := s.ctxAt e.1 e.2
  if t.status = .running ∧ t.hp = true then
    let s := s.landHalt e.1 e.2 h.precise
    (if h.precise then s.message (s.partOf e.1) (s.ctxMsg e.1 e.2 3 0 0) else s).haltDone i e
  else (s.modCtx e.1 e.2 fun t => { t with hp := false }).haltDone i e

/-- The halt requests that still wait for contexts of a core land (R15, R297); a resume is none. -/
def State.landPending (s : State) (core : Nat) : State :=
  (s.halts.filter fun h => h.2.at_ == 0).foldl (fun s h =>
    (h.2.left.filter fun e => e.1 == core).foldl (fun s e => s.landFor h.1 h.2 e) s) s

/-- Words still at a core's inputs, queued or waiting (R278). -/
def Exch.unread (x : Exch) : Bool := !x.waiting.isEmpty || x.queues.any fun q => !q.2.isEmpty

/-- The exchange side of a core after its phase. -/
def Exch.closed (x : Exch) : Exch := { x with phase := false, queues := [], waiting := [] }

/-- The release of a sync.x: the record, ssn, the publications, the checkpoint, the status, and the stops deferred to it
(R15, R219, R278, R291, R297). -/
def State.doReleaseX (s : State) (g i : Nat) : State :=
  let ms := s.members g i
  let v := s.group g i
  let here := ms.filter fun c => !v.late.contains c
  let unr := s.unr g i
  let statusOf (c : Nat) : Word := let x := (s.core c).ex; syncStatus unr false x.xc x.xl x.unread 0
  let sts := here.map fun c => (c, statusOf c)
  let xst := sts.foldl (fun n e => n ||| e.2.toNat % 32) 0
  let s := s.writeRecord g i (s.imbalance g i xst)
  let s := (ms.foldl State.flushTlb s).publish g i
  let s := { s with journals := SMap.mapVals s.journals fun rs => rs.filter fun r => !(r.gang == g && r.group == i) }
  let s := s.modGroup g i fun v =>
    { v with ssn := v.ssn + 1, rbc := 0, rb := false, unr := false, jov := false, arrived := [], cArr := [], late := [], stopAt := false }
  let s := sts.foldl (fun s e =>
    let d := (s.ctxAt e.1 0).syncDest
    ((s.modCore e.1 fun k => { k with ex := k.ex.closed }).syncRelease e.1 e.2).checkpoint e.1 d) s
  let s := v.late.foldl (fun s c => s.checkpoint c none) s
  ms.foldl State.landPending s

/-- R278: SYNC_X_RELEASE, for a gang and a group. -/
def State.releaseX (s : State) (g i : Nat) : State :=
  let ok := (s.awaited g i).all fun c => (s.group g i).arrived.any fun e => e.1 == c
  let open_ := (s.members g i).any fun c => (s.core c).ex.phase
  if ok && open_ then s.doReleaseX g i else s

def execSyncXRelease (s : State) : Res := .next (s.releaseX s.ev.a s.ev.b)

/-- R290: EXCHANGE_TIMEOUT, for a gang, a group and the cycle its phase began: the late participants leave the phase,
the group is released without them, and they trap with cause 55. -/
def State.exchangeEnds (s : State) (g i at_ : Nat) : State :=
  let v := s.group g i
  let late := (s.members g i).filter fun c => (s.core c).ex.phase && !(v.arrived.any fun e => e.1 == c)
  if v.startAt ≠ at_ ∨ late.isEmpty then s
  else
    let s := s.modGroup g i fun v => { v with late := late }
    let s := late.foldl (fun s c => s.modCore c fun k => { k with ex := k.ex.closed }) s
    let s := s.doReleaseX g i
    late.foldl (fun s c =>
      let s := s.message (s.partOf c) { s.ctxMsg c 0 5 55 0 with core := c }
      if (s.ctxAt c 0).status = .running then
        (s.modCtx c 0 fun t => { t with wait := .none }).takeTrap c 0 { kind := 0, cause := 55 }
      else s) s

def execExchangeTimeout (s : State) : Res := .next (s.exchangeEnds s.ev.a s.ev.b s.ev.c)

/-! ### The exchange fabric (R285 to R288, R428) -/

/-- R286, R428: xmit: the word becomes available at each bound input after the XF delay; a word of a sibling store is read, and
sent, as a sibling access performs. -/
def execXmit (S : Stall) (b : Opnd) (o : BitVec 10) (s : State) : Res :=
  let addr := (s.opnd b + 8 * sext10 o).toNat
  s.issue { exchange := true, reads := [b], ready := !s.localWaits addr } fun s =>
    if !s.inExchange then s.exact 54 0
    else match s.target s.cc addr 8 8 with
    | .error k => s.exact k addr
    | .ok (tc, a) =>
      let s := if tc = s.cc then s.sendWord s.cc (word (s.lread tc a 8)) (s.now + 2)
        else s.sibSend ⟨s.now + 3, s.cx, tc, a, 8, false, .xmit, 0, 0, 0⟩
      (s.finish S).madeLocal tc

/-- R287, R428: xsel: the oldest word of an input goes to the store. -/
def execXsel (S : Stall) (b : Opnd) (k : BitVec 3) (o : BitVec 7) (s : State) : Res :=
  let addr := (s.opnd b + 8 * o.signExtend 64).toNat
  s.issue { exchange := true, reads := [b], ready := !s.localWaits addr } fun s =>
    let n := k.toNat
    if !s.inExchange then s.exact 54 0
    else match s.target s.cc addr 8 8 with
    | .error c => s.exact c addr
    | .ok (tc, a) =>
      if (SMap.find s.curCore.ex.binds n).isNone then s.exact 53 addr
      else match SMap.get [] s.curCore.ex.queues n with
      | [] => s.hold
      | w :: ws =>
        if s.guarded tc a 8 then s.hold
        else
          let s := s.modCurCore fun k => { k with ex := { k.ex with queues := SMap.set [] k.ex.queues n ws } }
          let s := if tc = s.cc then s.lwrite tc a 8 w.toNat
            else s.sibSend ⟨s.now + 3, s.cx, tc, a, 8, false, .store, w.toNat, 0, 0⟩
          (s.finish S).madeLocal tc

/-- The order of waiting words: the cycle due, then the input (R288). -/
def insertWord (w : Nat × Nat × Word) : List (Nat × Nat × Word) → List (Nat × Nat × Word)
  | [] => [w]
  | x :: xs => if w.1 < x.1 ∨ (w.1 = x.1 ∧ w.2.1 < x.2.1) then w :: x :: xs else x :: insertWord w xs

/-- The first waiting word of a core becomes available, or is lost at a full input (R288). -/
def Exch.take (x : Exch) (now : Nat) : Exch :=
  match x.waiting with
  | [] => x
  | w :: ws =>
    let q := SMap.get [] x.queues w.2.1
    let x := { x with waiting := ws, xc := x.xc || w.1 < now, lastAt := now }
    if 16 ≤ q.length then { x with xl := true } else { x with queues := SMap.put x.queues w.2.1 (q ++ [w.2.2]) }

/-- R288: EXCHANGE_WORD_ARRIVAL, for a core, an input and a word, or for the word that waits there: once every word due
in the cycle is there, one becomes available. -/
def State.wordArrives (s : State) (core input again : Nat) (w : Word) : State :=
  let k := s.core core
  if !k.ex.phase then s
  else
    let ex := if again = 1 then k.ex else { k.ex with waiting := insertWord (s.now, input, w) k.ex.waiting }
    let more := s.cal.any fun p => p.ev == .exchangeWordArrival && p.args.a == core && p.due ≤ s.now
    if more then s.setCore core { k with ex := ex }
    else
      let ex := ex.take s.now
      let s := s.setCore core { k with ex := ex }
      if ex.waiting.isEmpty then s else s.postAt (s.now + 1) 0 .exchangeWordArrival ⟨core, 0, 1, 0, []⟩

def execExchangeWordArrival (s : State) : Res := .next (s.wordArrives s.ev.a s.ev.b s.ev.c s.ev.w)

/-! ### ssrd and ulog (R284, R296) -/

/-- R284: ssrd. -/
def execSsrd (S : Stall) (d a : Opnd) (s : State) : Res :=
  s.issue { exchange := true, reads := [a] } fun s =>
    let v := s.opnd a
    let recs := match s.groupKey s.cc with | some (g, i) => (s.group g i).records | none => []
    s.opOwn S d 4 ((recs.getD (fld v 8 4) []).getD (fld v 0 3) 0)

/-- The status word of ulog (R296). -/
def State.ulogStatus (s : State) : Word :=
  let u := s.curCore.undo
  match s.groupKey s.cc with
  | none => word (u.lines.length + 2 ^ 10 * b2n u.lov + 2 ^ 12)
  | some (g, i) =>
    let v := s.group g i
    word (u.lines.length + 2 ^ 10 * b2n u.lov + 2 ^ 11 * b2n v.jov + 2 ^ 12 * b2n (s.unr g i) + 2 ^ 16 * v.rbc)

/-- R296: ulog. -/
def execUlog (S : Stall) (d a : Opnd) (o : BitVec 2) (s : State) : Res :=
  s.issue { reads := if o = 2 then [a] else [] } fun s =>
    match o.toNat with
    | 1 => let s := s.setUnr s.cc; s.opOwn S d 2 s.ulogStatus
    | 2 =>
      let base := fld (s.opnd a) 0 24
      let size := fld (s.opnd a) 24 8
      if base % 4096 ≠ 0 ∨ 0x58000 < base + 4096 * size then s.exact 56 0
      else
        let s := s.modCurCore fun k => { k with undo := { k.undo with exBase := base, exSize := size } }
        s.opOwn S d 2 s.ulogStatus
    | _ => s.opOwn S d 2 s.ulogStatus

/-! ### Errors and rollback (R23, R295) -/

/-- The fault domain of a gang is killed: every gang of the partition with that FDOM (R23, R344). -/
def State.killDomain (s : State) (core g : Nat) : State :=
  let ch := (s.gang g).chain
  let s := s.message ch.part { core := core, kind := 9, gang := g, ssn := s.ssn core }
  (s.gangs.filter fun e => e.2.chain.part == ch.part && e.2.chain.fdom == ch.fdom).foldl (fun s e =>
    s.postAt s.now 0 .kill ⟨e.1, 0, 0, 0, []⟩) s

/-- A line of HBM decodes: twice the bad symbols outside the repair table of its rank, and the positions of the table, which are
read as erasures, make 4 at most (R391). -/
def lineDecodes (table bad : List Nat) : Bool := 2 * (bad.filter fun p => !table.contains p).length + table.length ≤ 4

/-- An error consumed by a core: a rollback of its gang, or the end of its fault domain (R23, R295). -/
def State.errorAt (s : State) (core : Nat) : State :=
  match s.groupKey core with
  | none => s
  | some (g, i) =>
    if !s.unr g i && (s.group g i).rbc < 2 then s.postAt s.now 0 .rollback ⟨g, 0, 0, 0, []⟩ else s.killDomain core g

/-- R23, R391: UNCORRECTABLE_ERROR, consumed by a core; where it names a rank (its number plus 1), the core reads a line of that
rank some of whose symbols, at the positions listed, are bad: one that still decodes is corrected and does nothing. -/
def execUncorrectableError (s : State) : Res :=
  .next (if s.ev.b ≠ 0 ∧ lineDecodes (SMap.get [] s.md.repair (s.ev.b - 1)) (s.ev.data.map BitVec.toNat).eraseDups then s
    else s.errorAt s.ev.a)

/-- A request of a gang. -/
def Req.of (r : Req) (g : Nat) : Bool := r.src.map (·.1) == some g

/-- A request of a gang, sent and not yet performed. -/
def State.sentBy (s : State) (g : Nat) (p : Post) : Bool :=
  match p.ev with
  | .globalAccessAtSlice | .atomicAtSlice | .reductionAtSlice | .barrierArrival =>
    (match SMap.find s.reqs p.args.a with | some r => r.of g | none => false)
  | .keyedOperationAccept => (match SMap.find s.kreqs p.args.a with | some r => r.gang == g | none => false)
  | _ => false

/-- A request already sent performs now (R295). -/
def State.performSent (s : State) (p : Post) : State :=
  match p.ev with
  | .globalAccessAtSlice => s.sliceAccess p.args.a
  | .atomicAtSlice => s.atomicPerforms p.args.a
  | .reductionAtSlice => s.reductionPerforms p.args.a
  | .barrierArrival => s.objectArrives p.args.a
  | _ => match SMap.find s.kreqs p.args.a with | some r => s.kperform r | none => s

/-- Every request already sent by a gang performs; the arrivals that reductions send follow. -/
def State.performAll (s : State) (g : Nat) : Nat → State
  | 0 => s
  | n + 1 =>
    let (now, rest) := s.cal.partition (s.sentBy g)
    if now.isEmpty then s else (now.foldl State.performSent { s with cal := rest }).performAll g n

/-- An event that belongs to work of the cores of a set, of a gang, or to a request of theirs. -/
def State.ofCores (s : State) (g : Nat) (cs : List Nat) (p : Post) : Bool :=
  let req (i : Nat) : Bool := match SMap.find s.reqs i with | some r => r.of g | none => true
  match p.ev with
  | .resultArrival | .storeAcknowledgement =>
    (match s.absent p.args.a p.args.b p.args.c with | some h => h == g | none => cs.contains p.args.a)
  | .translationWalk | .trapEntry | .interrupt | .vectorEntryBegin
  | .gatheringPointBegin | .vectorEntryRetire | .matrixEntryBegin | .matrixEntryCompletion | .mtileExpansion | .copy | .copyl
  | .gather | .gpre | .hotset | .codecCompress | .codecExpand | .codecBlockEncode | .codecBlockDecode | .pbcast | .pgather
  | .prscat | .prelay | .commandCompletion | .prscatChunkArrival | .exchangeWordArrival | .routineEntry | .routineOverrun =>
    cs.contains p.args.a
  | .syncCRelease | .syncXRelease | .exchangeTimeout => p.args.a == g
  | .globalAccessAtSlice | .atomicAtSlice | .reductionAtSlice | .barrierArrival | .watchArrival | .releaseDepart => req p.args.a
  | .keyedOperationAccept => (SMap.find s.kreqs p.args.a).isNone
  | .clauseOperationAtArray => (SMap.find s.clauseReqs p.args.a).isNone
  | .sectionArrival => (SMap.find s.xfers p.args.a).isNone
  | .arbitration => (SMap.find s.unitReqs p.args.a).isNone
  | _ => false

/-- Another device is told that the branches of a transfer it feeds are cancelled (R263, R266). -/
def State.tellEnds (s : State) (x : Xfer) : State :=
  match x.dev with
  | none => s
  | some d => (x.branches.filter fun v => v.ended == 0).foldl (fun s v => s.tellBranch d v.core v.slot 3) s

/-- The sidecar lines that the commands of a gang's cores wrote go back to memory, those of its frames' commands too (R125, R126). -/
def State.dropSides (s : State) (g : Nat) (cs : List Nat) : State :=
  let s := cs.foldl (fun s c => s.sideBack (s.writer c) ((s.core c).cmds.map (·.id))) s
  (s.gang g).saved.foldl (fun s e => s.sideBack none (e.2.cmds.map (·.id))) s

/-- The requests, transfers, watches and events of a gang's cores are dropped; a block of a compressed page that a command has
written keeps its size (R126, R295, R344). -/
def State.dropWork (s : State) (g : Nat) (cs : List Nat) : State :=
  let s := s.dropSides g cs
  let s := (s.xfers.filter fun (e : Nat × Xfer) => e.2.gang == some g).foldl (fun s e => s.tellEnds e.2) s
  let s := { s with
    kreqs := s.kreqs.filter fun (e : Nat × KReq) => e.2.gang != g
    kwait := SMap.mapVals s.kwait fun is => is.filter fun i => (match SMap.find s.kreqs i with | some r => r.gang != g | none => false)
    clauseReqs := s.clauseReqs.filter fun (e : Nat × ClauseReq) => e.2.gang != g
    xfers := s.xfers.filter fun e => e.2.gang != some g
    unitReqs := s.unitReqs.filter fun e => !((e.2.src == 0 || e.2.src == 4) && e.2.who == (0, g))
    watches := SMap.mapVals s.watches fun ws => ws.filter fun w => !cs.contains w.core
    landq := s.landq.filter fun q => !cs.contains q.core
    genWaits := s.genWaits.filter fun w => !(cs.contains w.core && (s.absent w.core w.ctx w.id).isNone)
    tlbWaits := s.tlbWaits.filter fun w => !(cs.contains w.core && (s.absent w.core w.ctx w.id).isNone) }
  let s := { s with cal := s.cal.filter fun p => !s.ofCores g cs p }
  let gone := (s.reqs.filter fun (e : Nat × Req) => e.2.of g).map (·.1)
  let s := { s with reqs := s.reqs.filter fun (e : Nat × Req) => !e.2.of g, held := s.held.filter fun i => !gone.contains i }
  (s.kwait.map (·.1)).foldl State.knext s

/-- The slices restore a gang's records, in reverse record order (R222, R295). -/
def State.restoreJournal (s : State) (g : Nat) : State :=
  let s := { s with combs := SMap.mapVals s.combs fun es => es.filter fun c => c.gang != g }
  let recs := s.journals.flatMap fun e => e.2.filter fun r => r.gang == g
  let s := recs.foldl (fun s r => match r.keyed with
    | some (id, key, old) => s.restoreKey id key old
    | none => s.gputBytes none (64 * r.line) r.pre) s
  { s with journals := SMap.mapVals s.journals fun rs => rs.filter fun r => r.gang != g }

/-- A core restores its logged lines, newest first; the exempt range keeps its contents (R295). -/
def CoreState.unwind (k : CoreState) : CoreState :=
  let put (m : Mem) (e : Nat × List Nat × List Byte) : Mem :=
    if k.undo.exempt (64 * e.1) then m
    else (e.2.1.zip (List.range 8)).foldl (fun m p => (List.range 8).foldl (fun m b =>
      SMap.set Mem.dflt m (p.1 + b) (e.2.2.getD (8 * p.2 + b) 0)) m) m
  { k with ls := k.undo.lines.foldl put k.ls, undo := { k.undo with lines := [], lov := false } }

/-- The status of a sync as a rollback leaves it: RB set, RBC as it now is (R295). -/
def rolledStatus (rbc : Nat) (w : Word) : Word := word (putBits (putBits w.toNat 1 1 1) 8 8 rbc)

/-- The control context goes back to its snapshot, with RB and RBC of the status in its register and slot replaced; helpers are
free (R295). -/
def CoreState.restart (k : CoreState) (rbc : Nat) (at_ : Nat) : CoreState :=
  let n := k.undo.snap
  let t := k.ctx 0
  let t := { t with
    status := if t.status = .halted ∧ t.hk = 2 then t.status else .running
    hk := if t.status = .halted ∧ t.hk = 2 then 2 else 0
    regs := n.regs, slots := n.slots, head := n.head, st := n.st, vl := n.vl, pc := n.pc, ih := n.ih, rt := false, pend := []
    wait := .none, frame := [], ld := [], stq := [], enc := 0, mbc := 0, vqc := 0, mpend := 0, late := [], localAt := 0, readyAt := at_ }
  let t := match n.statusReg with | some r => t.setG r (rolledStatus rbc (t.g r)) | none => t
  let t := match n.statusSlot with | some q => t.setSlot q (rolledStatus rbc (SMap.get 0 t.slots q)) | none => t
  { k with ctxs := [(0, t)], regions := n.regions }

/-- The parts of a core that a rollback empties (R166, R196, R245, R266, R288). -/
def CoreState.emptied (k : CoreState) : CoreState :=
  { k with sibs := [], ex := k.ex.closed, vec := {}, cmds := [], results := k.oldResults, land := [], landLast := [], landSeen := []
           scatters := []
           mat := { k.mat with q := [], acc := [], scale := [], tag := [], sk := 0, batches := [], hist := [] } }

/-- The numbers of the groups that cores belong to, each once. -/
def groupsOf (ssc : Nat) (cs : List Nat) : List Nat := (List.range 256).filter fun i => cs.any fun c => groupIndex ssc c == i

/-- R295: ROLLBACK, of a gang; in the viral state its contexts stay halted (R369). -/
def State.rollback (s : State) (g : Nat) : State :=
  if !s.residentGang g then s
  else
    let cs := coresOf (s.gang g).octs
    let s := cs.foldl (fun s c => if (s.core c).running.isSome then s.routineOverruns c else s) s
    let s := (s.performAll g 64).dropWork g cs
    let s := (s.gang g).octs.foldl State.dropHot s
    let s := (s.restoreJournal g).dropPubs g
    let again (v : Group) : Group :=
      { v with rb := true, rbc := Nat.min (v.rbc + 1) 2, unr := false, jov := false, arrived := [], cArr := [], late := [] }
    let s := s.modGang g fun v =>
      { v with ended := [], groups := (groupsOf v.chain.ssc cs).foldl (fun m i => SMap.upd {} m i again) v.groups }
    let at_ := s.now + 1 + s.freeN 0
    (cs.foldl (fun s c =>
      let v := s.group g (groupIndex (s.gang g).chain.ssc c)
      s.modCore c fun k => (k.unwind.emptied).restart v.rbc at_) s.renew).viralHalt cs

def execRollback (s : State) : Res := .next (s.rollback s.ev.a)

end Sys2Proof.Machine
end

