-- ==== Sys2Proof/Machine/Launch.lean ====
section
/-! DEFINITION. Launch and scheduling: region control blocks, descriptors, starts and completions, the host journal,
switching and killing gangs, graph counters, size classes and helpers (R331 to R350, R382, R383, R426, R427). -/
namespace Sys2Proof.Machine

/-! ### Region control blocks (R331 to R333, R427) -/

/-- The effective fields of an RCB (R332). -/
structure Eff where
  pri : Nat
  ssc : Nat
  rbe : Bool
  fdom : Nat
  sup : Nat
  asid : Nat
  bcore : Nat
  bfac : Nat
  bhbm : Nat
  bcyc : Nat
  ring : Nat
  rsz : Nat
  deriving DecidableEq, Repr

/-- The zero fields of an RCB are zero (R331). -/
def rcbZeros (v : Nat) : Bool :=
  [(73, 7), (107, 5), (139, 21), (172, 4), (189, 3), (224, 32), (400, 112), (524, 4), (541, 3), (576, 448)].all fun f =>
    bitsOf v f.1 f.2 == 0

/-- An RCB's own value of each field (R331). -/
def rcbOwn (v : Nat) : Eff :=
  { pri := bitsOf v 67 3, ssc := bitsOf v 70 2, rbe := bitsOf v 72 1 == 1, fdom := bitsOf v 80 16, sup := bitsOf v 96 11
    asid := bitsOf v 112 16, bcore := bitsOf v 160 12, bfac := bitsOf v 176 13, bhbm := bitsOf v 192 32
    bcyc := bitsOf v 256 64, ring := bitsOf v 320 64, rsz := bitsOf v 384 16 }

/-- The inherit mask of an RCB (R331). -/
def rcbInh (v k : Nat) : Bool := bitsOf v (128 + k) 1 == 1

/-- The effective values of an RCB below a parent (R332). -/
def rcbEff (parent : Option Eff) (v : Nat) : Eff :=
  let o := rcbOwn v
  match parent with
  | none => o
  | some p =>
    { pri := Nat.min p.pri (if rcbInh v 0 then p.pri else o.pri), ssc := if rcbInh v 1 then p.ssc else o.ssc
      rbe := if rcbInh v 2 then p.rbe else o.rbe, fdom := if rcbInh v 3 then p.fdom else o.fdom
      sup := if rcbInh v 4 then p.sup else o.sup, asid := if rcbInh v 5 then p.asid else o.asid
      bcore := if rcbInh v 6 then p.bcore else o.bcore, bfac := if rcbInh v 7 then p.bfac else o.bfac
      bhbm := if rcbInh v 8 then p.bhbm else o.bhbm, bcyc := if rcbInh v 9 then p.bcyc else o.bcyc
      ring := if rcbInh v 10 then p.ring else o.ring, rsz := if rcbInh v 10 then p.rsz else o.rsz }

/-- An octant belongs to the octant set of a partition (R427). -/
def Part.hasOct (p : Part) (o : Nat) : Bool :=
  bit (match o / 64 with | 0 => p.pom0 | 1 => p.pom1 | 2 => p.pom2 | _ => p.pom3) (o % 64)

/-- An RCB as the scheduler has read it: its address, where it and its usage fields lie, and its bits. -/
structure RcbRead where
  va : Nat
  pa : Nat
  use : Nat
  v : Nat

/-- An RCB as the scheduler reads it for a gang; reads need RD, the usage fields WR, and a facet one that the gang holds (R300,
R331). -/
def State.readRcb (s : State) (gang : Option Nat) (asid va : Nat) : Option (RcbRead × State) :=
  if va % 64 ≠ 0 then none
  else match s.xlateFor gang asid va 1 with
  | .error _ => none
  | .ok (pa, s) =>
    match s.xlateFor gang asid (va + 64) 3 with
    | .error _ => none
    | .ok (use, s) => some (⟨va, pa, use, s.gread pa 64 + 2 ^ 512 * s.gread use 64⟩, s)

/-- The RCBs from one up to the device root, the root first (R331): each names its parent in the same address space. -/
def State.readUp (s : State) (gang : Option Nat) (asid va : Nat) (below : List RcbRead) : Nat → Option (List RcbRead × State)
  | 0 => none
  | n + 1 =>
    match s.readRcb gang asid va with
    | none => none
    | some (r, s) =>
      let parent := bitsOf r.v 0 64
      if parent = 0 then some (r :: below, s) else s.readUp gang asid parent (r :: below) n

/-- What a chain gives so far, from the root down: among it, the supervisors and the RCBs of the root and of the partition. -/
structure ChainSoFar where
  level : Nat := 0
  eff : Option Eff := none
  part : Nat := 0
  psup : Nat := 0
  rootSup : Nat := 0
  prcb : Nat := 0
  rootRcb : Nat := 0
  links : List Link := []

/-- One more RCB of a chain, or none where it makes the chain malformed (R333). -/
def State.chainStep (s : State) (c : ChainSoFar) (r : RcbRead) : Option ChainSoFar :=
  let v := r.v
  let e := rcbEff c.eff v
  let part := if c.level ≤ 1 then partKey c.level r.pa else c.part
  if !rcbZeros v || bitsOf v 64 3 != c.level || (c.level == 0 && bitsOf v 128 11 != 0) || (e.rsz != 0 && e.ring % 64 != 0)
      || !(s.part part).hasOct (octOf e.sup) then none
  else some { level := c.level + 1, eff := some e, part := part, psup := if c.level ≤ 1 then e.sup else c.psup
              rootSup := if c.level = 0 then e.sup else c.rootSup, prcb := if c.level ≤ 1 then r.va else c.prcb
              rootRcb := if c.level = 0 then r.va else c.rootRcb
              links := ⟨r.pa, r.use, e.bcore, e.bfac, e.bhbm⟩ :: c.links }

/-- A chain from the root down. -/
def State.chainDown (s : State) (c : ChainSoFar) : List RcbRead → Option ChainSoFar
  | [] => some c
  | r :: rs => match s.chainStep c r with | none => none | some c => s.chainDown c rs

/-- The chain of an RCB, read once for a launch of a gang; none where it is malformed.  The partition and the device root take
the supervisors and the RCBs it gives (R332, R333). -/
def State.readChain (s : State) (gang : Option Nat) (asid va : Nat) : Option (Chain × ChainSoFar × State) :=
  match s.readUp gang asid va [] 8 with
  | none => none
  | some (rs, s) =>
    match s.chainDown {} rs with
    | none => none
    | some c =>
      match c.eff with
      | none => none
      | some e =>
        some ({ links := c.links, rcb := va, asidOf := asid, part := c.part, pri := e.pri, ssc := e.ssc, rbe := e.rbe
                fdom := e.fdom, sup := c.psup, asid := e.asid, bcyc := e.bcyc, ring := e.ring, rsz := e.rsz }, c, s)

/-- The supervisors and RCBs that an accepted chain gives (R332, R351, R352). -/
def State.takeSups (s : State) (ch : Chain) (c : ChainSoFar) : State :=
  ((s.meetPart ch.part).modPart 0 fun v => { v with sup := c.rootSup, rcb := c.rootRcb }).modPart ch.part fun v =>
    { v with sup := ch.sup, rcb := c.prcb }

/-! ### Descriptors (R334) -/

/-- A start descriptor from its 512 bits; none where it is malformed of itself. -/
def parseStart (v : Nat) : Option Descr :=
  let entry := bitsOf v 64 52
  let limg := bitsOf v 256 64
  let llen := bitsOf v 320 19
  let caddr := bitsOf v 384 64
  if bitsOf v 116 12 ≠ 0 ∨ bitsOf v 372 12 ≠ 0 ∨ entry % 4 ≠ 0 ∨ limg % 8 ≠ 0 ∨ llen % 8 ≠ 0 ∨ caddr % 8 ≠ 0 then none
  else some {
    rcb := bitsOf v 0 64, entry := entry, argp := word (bitsOf v 128 64), ngx := bitsOf v 192 16, ngy := bitsOf v 208 16
    ngz := bitsOf v 224 16, goct := bitsOf v 240 4, pmode := bitsOf v 246 1 == 1, nowait := bitsOf v 247 1 == 1
    foct := bitsOf v 248 8, limg := limg, llen := llen, gdn := bitsOf v 339 1 == 1, gnode := bitsOf v 340 15
    host := bitsOf v 355 1 == 1, jseq := bitsOf v 356 16, caddr := caddr, cval := word (bitsOf v 448 63) }

/-- The octants that a start places (R335). -/
def Descr.octants (d : Descr) : Nat := d.ngx * d.ngy * d.ngz * (d.goct + 1)

/-- What makes a start malformed beside its own fields and its chain (R335, R337). -/
def Descr.tooBig (d : Descr) (rbe : Bool) : Bool :=
  256 < d.octants || (d.pmode && 256 < d.foct + d.octants) || (if rbe then 0x58000 else 0x60000) < d.llen

/-- A control descriptor is well formed (R334). -/
def controlOk (v : Nat) : Bool :=
  let opc := bitsOf v 244 2
  let save := bitsOf v 128 64
  bitsOf v 0 116 == 0 && bitsOf v 192 52 == 0 && bitsOf v 246 1 == 0 && (opc == 2 || bitsOf v 247 1 == 0)
    && bitsOf v 248 200 == 0 && save % 65536 == 0 && (opc != 3 || save == 0)

/-! ### The host journal and the notify ring (R382, R383) -/

/-- Where the host region of a partition begins in reserved HBM (R379). -/
def State.regionBase (s : State) (part : Nat) : Nat := Config.hostRegion (s.partNum part)

/-- A record for the host's notify ring of a partition, and its message (R383). -/
def State.notifyHost (s : State) (part e state gang : Nat) : State :=
  let p := s.partNum part
  let link := Config.linkOf p % 2
  match SMap.find s.md.notify p with
  | none => s
  | some n =>
    let rec_ := toBytes 2 (s.gread (e + 56) 2) ++ toBytes 2 state ++ toBytes 2 gang ++ toBytes 2 0 ++ toBytes 4 (s.gread e 4)
      ++ toBytes 4 s.tb
    { s with md := { s.md with notify := SMap.put s.md.notify p { n with pos := n.pos + 1 }
                               toHost := s.md.toHost ++ [.write link (n.addr + 16 * (n.pos % 2 ^ n.lg)) rec_, .message link (p % 64)] } }

/-- The device raises the STATE of a journal entry, with LSTS where the event gives one; a STATE at or above it stays (R382). -/
def State.journalState (s : State) (part : Nat) (d : Descr) (state : Nat) (lsts : Option Nat) (gang : Nat) : State :=
  if !d.host || s.viral then s
  else
    let e := s.regionBase part + 0x40000 + 64 * (d.jseq % 4096)
    if state ≤ s.gread (e + 58) 1 then s
    else
      let s := s.gputBytes none (e + 58) (toBytes 1 state)
      let s := if state = 2 then s.gputBytes none (e + 60) (toBytes 2 gang)
        else match lsts with | some n => s.gputBytes none (e + 59) (toBytes 1 n) | none => s
      if 3 ≤ state then s.notifyHost part e state (s.gread (e + 60) 2) else s

/-! ### Answers -/

/-- The result of a launch (R337). -/
def launchWord (sts gang : Nat) : Word := word (2 ^ 63 + sts * 2 ^ 16 + (if sts = 0 then gang % 4096 else 0))

/-- A request is answered, no sooner than a cycle: the result of a launch, or a message where a node of a graph launched
(R337, R346). -/
def State.answerSched (s : State) (q : SchedReq) (sts gang at_ : Nat) : State :=
  let s := { s with sched := SMap.del s.sched q.id }
  if q.node then
    if sts = 0 then s else s.message q.part { core := q.core, ctx := q.ctx, cause := sts, kind := 8, gang := q.gang, ssn := q.ssn }
  else
    ({ s with resps := SMap.put s.resps q.id { v := launchWord sts gang } }.postAt (at_ + 1 + s.freeN 0) 0 .resultArrival
      ⟨q.core, q.ctx, q.id, 0, []⟩).renew

/-- The partition in whose journal a start stands: its chain's, or the issuing gang's where no chain has been read (R382). -/
def SchedReq.journalPart (q : SchedReq) : Nat := if q.chain.links.isEmpty then q.part else q.chain.part

/-- A start fails (R337, R382). -/
def State.startFails (s : State) (q : SchedReq) (sts : Nat) : State :=
  (s.journalState q.journalPart q.descr 4 (some sts) 0).answerSched q sts 0 s.now

/-! ### Graph operations (R345, R346) -/

/-- Bytes of an address space, read page by page for a gang; none where a read fails (R336, R345). -/
def State.readVa (s : State) (gang : Option Nat) (asid va : Nat) : Nat → Nat → Option (List Byte × State)
  | 0, _ => some ([], s)
  | fuel + 1, len =>
    if len = 0 then some ([], s)
    else
      let n := Nat.min len (4096 - va % 4096)
      match s.xlateFor gang asid va 1 with
      | .error _ => none
      | .ok (pa, s) =>
        match s.readVa gang asid (va + n) fuel (len - n) with
        | none => none
        | some (bs, s') => some (s.gbytes pa n ++ bs, s')

/-- The table entry of a node, read for a gang: DESC, SUCC, NSUCC and INIT (R345). -/
def State.graphEntry (s : State) (gang : Option Nat) (p : Part) (node : Nat) : Option (Nat × Nat × Nat × Nat × State) :=
  match s.readVa gang (fld p.asb 0 16) (p.gtb.toNat + 32 * node) 2 32 with
  | none => none
  | some (bs, s) =>
    let at_ (i n : Nat) : Nat := ofBytes ((bs.drop i).take n)
    some (at_ 0 8, at_ 8 8, at_ 16 2, at_ 18 2, s)

/-- The successors of a node, in list order (R345). -/
def State.graphList (s : State) (gang : Option Nat) (p : Part) (succ : Nat) : Nat → Option (List Nat × State)
  | 0 => some ([], s)
  | n + 1 =>
    match s.xlateFor gang (fld p.asb 0 16) succ 1 with
    | .error _ => none
    | .ok (pa, s) =>
      match s.graphList gang p (succ + 2) n with
      | none => none
      | some (l, s') => some (s.gread pa 2 :: l, s')

/-- A node launches its descriptor, if it has one, with the permissions of the gang that issued the operation (R346). -/
def State.graphLaunch (s : State) (q : SchedReq) (desc : Nat) : State :=
  if desc = 0 then s
  else
    let i := s.newId
    let r := { q with id := i, node := true, stage := .sent, descr := {}, chain := {}, asid := fld (s.part q.part).asb 0 16, daddr := desc }
    ({ s with sched := SMap.put s.sched i r }.useId).post 0 .gangStart ⟨i, 0, 0, 0, []⟩

/-- The predecessor counter of a node of a partition (R345). -/
def State.counter (s : State) (p : Part) (node : Nat) : Nat := SMap.get 0 s.counters (p.gnb.toNat + node)
def State.setCounter (s : State) (p : Part) (node v : Nat) : State :=
  { s with counters := SMap.set 0 s.counters (p.gnb.toNat + node) v }

/-- One successor loses a predecessor; at 0 it launches (R346). -/
def State.decrement (s : State) (p : Part) (q : SchedReq) (cnt node : Nat) : State × Nat :=
  let c := s.counter p node
  if c = 0 then (s, cnt)
  else
    let s := s.setCounter p node (c - 1)
    if c = 1 then
      match s.graphEntry (some q.gang) p node with
      | some (desc, _, _, _, s) => (s.graphLaunch q desc, cnt + 1)
      | none => (s.message q.part { core := q.core, ctx := q.ctx, cause := 1, kind := 8, gang := q.gang, ssn := q.ssn }, cnt + 1)
    else (s, cnt)

/-- A graph operation: done 0, arm 1, read 2; the status and the count (R346). -/
def State.graphOp (s : State) (q : SchedReq) (node mode : Nat) : State × Nat × Nat :=
  let p := s.part q.part
  let gnn := p.gnn.toNat
  if gnn ≤ node then (s, 1, 0)
  else match s.graphEntry (some q.gang) p node with
  | none => (s, 1, 0)
  | some (desc, succ, n, init, s) =>
    if succ % 2 ≠ 0 ∧ n ≠ 0 ∨ 4096 < n then (s, 1, 0)
    else match s.graphList (some q.gang) p succ n with
    | none => (s, 1, 0)
    | some (l, s) =>
      if l.any fun x => gnn ≤ x then (s, 1, 0)
      else match mode with
      | 2 => (s, 0, s.counter p node)
      | 1 =>
        let s := s.setCounter p node init
        if init = 0 then (s.graphLaunch q desc, 0, 1) else (s, 0, 0)
      | _ =>
        let (s, cnt) := l.foldl (fun (a : State × Nat) x => a.1.decrement p q a.2 x) (s, 0)
        (s, 0, cnt)

/-- R346: gdone, as it reaches the scheduler. -/
def State.graphArrives (s : State) (q : SchedReq) : State :=
  let (s, sts, cnt) := s.graphOp q q.num q.mode
  ({ s with sched := SMap.del s.sched q.id }).respond q.core q.ctx q.id { v := word (2 ^ 63 + sts * 2 ^ 16 + cnt % 65536) }

/-! ### Starts (R335 to R340) -/

/-- The completion actions of a gang, or of a start that places no octant (R339, R340). -/
def State.completionActions (s : State) (q : SchedReq) (ch : Chain) (d : Descr) (gang : Nat) (fail : Bool) : State :=
  if s.viral then s
  else
    let w := d.cval.toNat % 2 ^ 63 + 2 ^ 63 * b2n fail
    let (s, dropped) := if d.caddr = 0 then (s, false)
      else match s.xlateWalk ch.asid d.caddr 2 with
        | .ok (pa, s) => (s.gwrite none pa 8 w, false)
        | .error k => (s.message ch.part { core := q.core, ctx := q.ctx, cause := k, kind := 11, gang := gang, ssn := q.ssn }, true)
    let s := if d.gdn then (s.graphOp { q with part := ch.part, pri := ch.pri, gang := gang } d.gnode 0).1 else s
    s.journalState ch.part d (if fail || dropped then 4 else 3) (if dropped && !fail then some 0 else none) gang

/-- The octants on which a gang is placed. -/
def State.taken (s : State) : List Nat := (s.gangs.filter fun e => e.2.status != .out).flatMap fun e => e.2.octs

/-- The octants a start takes now, if they are free (R335). -/
def State.octsFor (s : State) (ch : Chain) (d : Descr) : Option (List Nat) :=
  let taken := s.taken
  let n := d.octants
  if d.pmode then
    let os := (List.range n).map (d.foct + ·)
    if os.all fun o => !taken.contains o then some os else none
  else
    let os := ((List.range 256).filter fun o => (s.part ch.part).hasOct o && !taken.contains o).take n
    if os.length = n then some os else none

/-- A free gang number; which one is free (R337). -/
def State.gangNumber (s : State) : Option Nat :=
  let ns := (List.range 4095).filter fun i => (SMap.find s.gangs (i + 1)).isNone
  if ns.isEmpty then none else (ns[s.freeN 2 % ns.length]?).map (· + 1)

/-- The image of a start, read in the gang's address space; the new gang holds no facet (R300, R336). -/
def State.readImage (s : State) (asid va fuel len : Nat) : Option (List Byte × State) := s.readVa none asid va fuel len

/-- The parts of a core that no launch sets up: the supervisor's FIFO, the translation cache, the vector share and the
injections that wait (R160, R361, R368). -/
def CoreState.kept (k : CoreState) : CoreState :=
  { fifo15 := k.fifo15, tlb := k.tlb, vsw := k.vsw, injS := k.injS, injV := k.injV, injM := k.injM, lastMsgs := k.lastMsgs }

/-- A core of a new gang as it is set up: the image in its store, its control context at the entry, the first
checkpoint (R336). -/
def CoreState.setUp (k : CoreState) (g rank gx gy gz : Nat) (img : List Byte) (entry at_ : Nat) : CoreState :=
  let k : CoreState := { k.kept with gang := some g, rank := rank, gx := gx, gy := gy, gz := gz }
  { k.lput 0 img with
    ctxs := [(0, { status := .running, pc := BitVec.ofNat 52 entry, readyAt := at_ })],
    undo := { snap := { pc := BitVec.ofNat 52 entry } } }

/-- The cores of a gang with their places in it (R335). -/
def State.setUpCores (s : State) (g : Nat) (octs : List Nat) (d : Descr) (img : List Byte) (at_ : Nat) : State :=
  let cs := coresOf octs
  ((List.range cs.length).zip cs).foldl (fun s e =>
    let n := e.1 / 8 / (d.goct + 1)
    s.modCore e.2 fun k => k.setUp g e.1 (n % d.ngx) (n / d.ngx % d.ngy) (n / d.ngx / d.ngy) img d.entry at_) s

/-- The watch over the cycle budget of a gang begins (R333). -/
def State.watchBudget (s : State) (g : Nat) : State :=
  let v := s.gang g
  if v.chain.bcyc = 0 ∨ v.budgetSent then s
  else s.postAt (s.cycleOf (v.started + (v.chain.bcyc - v.resident))) 0 .cycleBudgetExpiry ⟨g, 0, 0, 0, []⟩

/-- The journal records of a gang go, at its first checkpoint and at its end (R291, R293). -/
def State.dropRecords (s : State) (g : Nat) : State :=
  { s with journals := SMap.mapVals s.journals fun rs => rs.filter fun r => r.gang != g }

/-- A start is placed on octants that are free for it, or fails (R332, R335, R336). -/
def State.place (s : State) (q : SchedReq) (octs : List Nat) (g : Nat) : State :=
  let d := q.descr
  let ch := q.chain
  let cs := coresOf octs
  if !s.fits ch.links 0 cs.length then s.startFails q 3
  else match s.readImage ch.asid d.limg 100 (if d.limg = 0 then 0 else d.llen) with
  | none => s.startFails q 1
  | some (img, s) =>
    let s := s.charge ch.links 0 cs.length
    let at_ := s.now + 1 + s.freeN 0
    let s := s.renew
    let s := (s.dropRecords g).setGang g { chain := ch, descr := d, octs := octs, started := s.tb }
    let s := ((s.setUpCores g octs d img at_).watchBudget g).viralHalt cs
    { s with sched := SMap.put s.sched q.id { q with stage := .accepted, gid := g } }.postAt at_ 0 .gangStart ⟨q.id, g, 2, 0, []⟩

/-- The first issue of a gang, all of whose cores can fetch in this tick: the journal entry is launched and the start answered
(R336, R337, R382); it waits where the gang has been stopped before. -/
def State.firstIssue (s : State) (id g : Nat) : State :=
  match SMap.find s.sched id with
  | none => s
  | some q =>
    let cs := coresOf (s.gang g).octs
    if !s.residentGang g || cs.any fun c => s.stopped c then s.postAt (s.now + 1) 0 .gangStart ⟨id, g, 2, 0, []⟩
    else
      let s := cs.foldl (fun s c => s.fetchReady c 0) s
      (s.journalState q.chain.part q.descr 2 none g).answerSched q 0 g s.now

/-- The requests that wait, in the order of service: by priority, then by arrival (R337). -/
def insertReq (q : SchedReq) : List SchedReq → List SchedReq
  | [] => [q]
  | x :: xs => if x.pri < q.pri ∨ (x.pri = q.pri ∧ q.order < x.order) then q :: x :: xs else x :: insertReq q xs
def State.queue (s : State) : List SchedReq :=
  ((s.sched.filter fun e => e.2.stage == .waiting).map (·.2)).foldl (fun l q => insertReq q l) []

/-- A start of a partition waits before a given one (R337). -/
def State.behind (s : State) (q : SchedReq) : Bool :=
  s.queue.any fun x => x.id != q.id && x.opc == 0 && x.chain.part == q.chain.part
    && (q.chain.pri < x.pri || (x.pri == q.chain.pri && x.order < q.order))

/-- Every octant that a start names itself belongs to the octant set of its partition (R335). -/
def State.inSet (s : State) (ch : Chain) (d : Descr) : Bool :=
  !d.pmode || (List.range d.octants).all fun i => (s.part ch.part).hasOct (d.foct + i)

/-- A start that nothing holds back is placed, or fails where its octants no longer belong to the set; any other stays as it
is. -/
def State.tryStart (s : State) (q : SchedReq) : Option State :=
  if s.behind q then none
  else if !s.inSet q.chain q.descr then some (s.startFails q 2)
  else match s.octsFor q.chain q.descr, s.gangNumber with
  | some octs, some g => some ((s.renew).place q octs g)
  | _, _ => none

/-- The RCB of a start lies in the issuing gang's partition, and its priority is not above the gang's (R337); a gang of
the device root stands above every partition. -/
def SchedReq.permitted (q : SchedReq) (ch : Chain) : Bool := (ch.part == q.part || q.part == 0) && ch.pri ≤ q.pri

/-- A start that has reached the scheduler (R335, R337, R340). -/
def State.startArrives (s : State) (q : SchedReq) (v : Nat) : State :=
  match parseStart v with
  | none => s.startFails { q with descr := { host := bitsOf v 355 1 == 1, jseq := bitsOf v 356 16 } } 1
  | some d =>
    let q := { q with descr := d }
    match s.readChain (some q.gang) q.asid d.rcb with
    | none => s.startFails q 1
    | some (ch, c, s) =>
      let q := { q with chain := ch }
      if d.tooBig ch.rbe then s.startFails q 1
      else if !q.permitted ch then s.startFails q 2
      else
        let s := s.takeSups ch c
        if d.octants = 0 then
          ((s.journalState ch.part d 2 none 0).completionActions q ch d 0 false).answerSched q 0 0 s.now
        else if !s.inSet ch d then s.startFails q 2
        else if !s.fits ch.links 0 (8 * d.octants) then s.startFails q 3
        else
          let q := { q with pri := ch.pri, order := s.nextId, stage := .waiting }
          let s := s.useId
          match s.tryStart q with
          | some s => s
          | none =>
            if d.nowait then s.startFails q 4
            else if 512 ≤ s.queue.length then s.startFails q 5
            else { s with sched := SMap.put s.sched q.id q }

/-! ### Control operations (R341 to R344) -/

/-- A control operation that has reached the scheduler: from the supervisor core of the gang's partition, or at level 2
(R337, R351). -/
def State.controlArrives (s : State) (q : SchedReq) (v : Nat) : State :=
  let gid := bitsOf v 116 12
  if !controlOk v then s.answerSched q 1 0 s.now
  else match SMap.find s.gangs gid with
  | none => s.answerSched q 2 0 s.now
  | some g =>
    if !q.top && (s.part g.chain.part).sup != q.core then s.answerSched q 2 0 s.now
    else
      let opc := bitsOf v 244 2
      let q := { q with opc := opc, gid := gid, save := bitsOf v 128 64, nowait := bitsOf v 247 1 == 1
                        stamp := bitsOf v 448 64, stage := .accepted, pri := g.chain.pri, order := s.nextId }
      let s := { s with sched := SMap.put s.sched q.id q }.useId
      match opc with
      | 1 => s.postAt s.now 0 .switchOut ⟨q.id, 0, 0, 0, []⟩
      | 2 => s.postAt s.now 0 .resume ⟨q.id, 0, 0, 0, []⟩
      | _ => s.postAt s.now 0 .kill ⟨gid, q.id, 0, word q.stamp, []⟩

/-- A descriptor that a node launches is read in the partition's base address space (R345, R426). -/
def State.nodeArrives (s : State) (q : SchedReq) : State :=
  if q.daddr % 64 ≠ 0 then s.startFails q 1
  else match s.xlateFor (some q.gang) q.asid q.daddr 1 with
  | .error _ => s.startFails q 1
  | .ok (pa, s) =>
    let v := s.gread pa 64
    if bitsOf v 244 2 ≠ 0 then s.startFails q 1 else s.startArrives q v

/-- A launch has reached the scheduler with its descriptor, unless the read of it is rejected (R121, R337). -/
def State.launchArrives (s : State) (q : SchedReq) : State :=
  match SMap.find s.reqs q.id with
  | none => { s with sched := SMap.del s.sched q.id }
  | some r =>
    match s.rejects r with
    | some c => ({ s with sched := SMap.del s.sched q.id }).answer r true 0 (some c)
    | none =>
      let s := { s with reqs := SMap.del s.reqs q.id }
      let v := s.gread r.pa 64
      if bitsOf v 244 2 = 0 then s.startArrives q v else s.controlArrives q v

/-- One request that waits is served if it can be (R337, R343). -/
def State.serveOne (resume_ : State → SchedReq → Option State) (s : State) (q : SchedReq) : State :=
  if (SMap.find s.sched q.id).isNone then s
  else if q.opc = 0 then (s.tryStart q).getD s
  else (resume_ s q).getD s

/-! ### Switching (R341 to R343) -/

/-- R341: SWITCH_OUT, for a request: it is accepted for a gang that runs and has no stop pending. -/
def State.switchOut (s : State) (id : Nat) : State :=
  match SMap.find s.sched id with
  | none => s
  | some q =>
    let g := s.gang q.gid
    if (SMap.find s.gangs q.gid).isNone || g.status != .running || g.fail then s.answerSched q 2 0 s.now
    else (s.setGang q.gid { g with status := .stopping, stopStamp := q.stamp, stopBy := some id }).postAt (s.cycleOf q.stamp) 0
      .preemptionStamp ⟨q.gid, id, 0, 0, []⟩

def execSwitchOut (s : State) : Res := .next (s.switchOut s.ev.a)

/-- A GATHER begins its unfinished window again (R245). -/
def Cmd.restartWindow (c : Cmd) : Cmd :=
  if c.code = 3 ∧ c.begun ∧ !c.ended then
    let w := c.wr / c.rlen / 256 * 256
    { c with rd := w, wr := w * c.rlen, rows := [], idx := [], cur := none, buf := [], failed := false, sts := 0, det := 0 }
  else c

/-- A context as a stop leaves it: what is fixed has arrived, a park has ended, a frame's words will be read again
(R74, R75, R80). -/
def State.freeze (s : State) (core : Nat) : State :=
  let s := (s.core core).ctxs.foldl (fun s x =>
    (((s.modCtx core x.1 Ctx.drain).unpark core x.1).modCtx core x.1 fun t => { t with frame := [] })) s
  s.modCore core fun k => { k with cmds := k.cmds.map Cmd.restartWindow }

/-- What is in flight towards the cores of a gang waits in holding buffers while the gang is out (R341). -/
def State.inFlight (s : State) (g : Nat) (cs : List Nat) (p : Post) : Bool :=
  match p.ev with
  | .globalAccessAtSlice | .atomicAtSlice | .reductionAtSlice | .barrierArrival | .watchArrival | .releaseDepart
  | .keyedOperationAccept | .clauseOperationAtArray | .arbitration | .routineEntry | .routineOverrun => false
  | .sectionArrival | .cancelAtRouter => (match SMap.find s.xfers p.args.a with | some x => x.gang == some g | none => false)
  | .debugHaltLanding => cs.contains p.args.a
  | _ => s.ofCores g cs p

/-- Free bytes in a page of a save area: the frame's contents belong to the device (R341). -/
def freePage (n pa : Nat) : Mem := ((List.range 4096).map fun i => (pa + i, Config.frameByte (n * 4096 + i))).filter fun e => e.2 != Mem.dflt
def State.writePage (s : State) (pa : Nat) : State :=
  let s := s.keepStale pa 4096
  let low := s.mem.filter fun e => e.1 < pa
  let high := s.mem.filter fun e => pa + 4096 ≤ e.1
  ((linesOf pa 4096).foldl State.wakeLine { s with mem := low ++ freePage s.fresh pa ++ high }).renew

/-- The pages of a save area are written: the frames, and what the routers spill there; none where a write fails
(R341, R342). -/
def State.writePages (s : State) (gang : Option Nat) (asid va frames : Nat) : Nat → Option State
  | 0 => some s
  | n + 1 =>
    match s.xlateFor gang asid va 2 with
    | .error _ => none
    | .ok (pa, s) =>
      (if frames = 0 && s.freeB 0 then s.renew else s.writePage pa).writePages gang asid (va + 4096) (frames - 1) n

/-- The pages of a save area can be read (R426). -/
def State.readPages (s : State) (gang : Option Nat) (asid va : Nat) : Nat → Option State
  | 0 => some s
  | n + 1 =>
    match s.xlateFor gang asid va 1 with
    | .error _ => none
    | .ok (_, s) => s.readPages gang asid (va + 4096) n

/-- The pages of a save area of so many cores: the frames, and the spill region of 16 MiB and 64 KiB a core (R341, R342). -/
def savePages (cores : Nat) : Nat := 128 * cores + 4096 + 16 * cores

/-- The tag of each frame (R341). -/
def State.tagsAt (s : State) (gang : Option Nat) (asid save : Nat) : Nat → Option (List Nat)
  | 0 => some []
  | n + 1 =>
    match s.xlateFor gang asid save 1, s.tagsAt gang asid (save + 524288) n with
    | .ok (pa, _), some ts => some (s.gread pa 8 :: ts)
    | _, _ => none

/-- Every request that waits on a unit of a gang is arbitrated again once the gang is back (R302). -/
def State.wakeRecalls (s : State) (g : Nat) : State :=
  (s.units.filter fun e => e.2.gang == some g && e.2.recalled.isNone).foldl (fun s e =>
    ((s.waiting e.1).filter fun q => !q.posted).foldl State.rearbitrate s) s

/-- A gang's frames are written, its cores are free, and what it holds waits (R341). -/
def State.goOut (s : State) (q : SchedReq) (g : Nat) : State :=
  let cs := coresOf (s.gang g).octs
  let s := cs.foldl State.freeze s
  let (held, rest) := s.cal.partition (s.inFlight g cs)
  let tags := (s.tagsAt (some q.gang) q.asid q.save cs.length).getD []
  let v := s.gang g
  let s := { s with cal := rest }.setGang g { v with
    status := .out, stopBy := none, resident := v.resident + (s.tb - v.started), saved := cs.map fun c => (c, s.core c)
    tags := tags, parked := [] }
  let s := held.foldl (fun s p => s.parkPost g p) s
  let s := (cs.foldl (fun s c => s.modCore c CoreState.kept) s).haltsOut g cs
  (s.answerSched q 0 g s.now).callServe

/-! ### Completion (R339, R344) -/

/-- The requests about a gang that its end answers (R344). -/
def State.answerEnded (s : State) (g : Nat) (fail : Bool) : State :=
  let v := s.gang g
  (s.sched.filter fun e => (e.2.stage == .accepted || e.2.opc != 0) && e.2.stage != .sent && e.2.gid == g).foldl (fun s e =>
    s.answerSched e.2 (if e.2.opc = 0 || fail && v.killBy.contains e.1 then 0 else 2) g s.now) s

/-- Cores are free. -/
def State.leaveCores (s : State) (cs : List Nat) : State := cs.foldl (fun s c => s.modCore c fun k => { k with gang := none }) s

/-- A gang has come to its end: its units, octants and cores are freed and refunded, then the completion actions run
(R339). -/
def State.complete (s : State) (g : Nat) (fail : Bool) : State :=
  let v := s.gang g
  let cs := coresOf v.octs
  let s := if v.status == .out then s else cs.foldl State.withdrawRecalls s
  let s := (v.octs.filter fun o => (match SMap.find s.hots o with | some h => h.gang == g | none => false)).foldl State.dropHot s
  let s := (s.units.filter fun e => e.2.gang == some g).foldl (fun s e => s.freeUnit e.1) s
  let s := { s with refusals := s.refusals.filter fun e => e.1 % 2 ^ 20 != g
                    maps := SMap.mapVals s.maps fun m => if m.gang = some g then { m with gang := none } else m }
  let ssn := s.ssn (cs.headD 0)
  let s := ((s.refund v.chain.links 0 cs.length).dropPubs g).dropRecords g
  let held := if v.status == .out then [] else cs
  let s := (s.haltsGone g held).leaveCores held
  let s := (s.answerEnded g fail).setGang g { v with status := .out, octs := [], saved := [] }
  let q : SchedReq := { id := 0, core := cs.headD 0, ctx := 15, part := v.chain.part, pri := v.chain.pri, gang := g, ssn := ssn }
  let s := s.completionActions q v.chain v.descr g fail
  { s with gangs := SMap.del s.gangs g }.callServe

/-- Split steps of the maps that a gang created run or are still to run (R218, R401). -/
def State.stepsDue (s : State) (g : Nat) : Bool :=
  s.maps.any fun e => e.2.gang == some g && e.2.slices.any fun x => x.2.stepping || (x.2.pending != 0 && !x.2.blocked)

/-- R339: GANG_COMPLETION, for a gang whose cores have all ended, and whose maps have no step left to run (R401). -/
def State.gangCompletes (s : State) (g : Nat) : State :=
  match SMap.find s.gangs g with
  | none => s
  | some v =>
    if v.ended.length = (coresOf v.octs).length ∧ v.status != .out then
      if s.stepsDue g then s.postAt (s.now + 1) 0 .gangCompletion ⟨g, 0, 0, 0, []⟩ else s.complete g false
    else s

def execGangCompletion (s : State) : Res := .next (s.gangCompletes s.ev.a)

/-- A stopped gang is discarded: its state, its work and its messages, and it completes with FAIL = 1 (R344). -/
def State.discard (s : State) (g : Nat) : State :=
  let v := s.gang g
  let cs := if v.status == .out then [] else coresOf v.octs
  let s := cs.foldl State.withdrawRecalls s
  let s := s.dropWork g cs
  let s := cs.foldl (fun s c => s.modCore c fun k => { k.kept with gang := k.gang }) s
  s.complete g true

/-- R344: KILL, first as it is ordered, then once the gang has stopped; for a gang, a request if one ordered it, and a
stamp. -/
def State.killGang (s : State) (g id again ts : Nat) : State :=
  match SMap.find s.gangs g with
  | none => match SMap.find s.sched id with | some q => s.answerSched q 2 0 s.now | none => s
  | some v =>
    if again = 1 then
      if !v.fail || v.status == .out then s
      else if (coresOf v.octs).all fun c => s.stopped c then s.discard g
      else s.postAt (s.now + 1) 0 .kill ⟨g, 0, 1, 0, []⟩
    else
      let pending := s.sched.filter fun e => e.2.stage != .sent && e.2.gid == g && (e.2.opc == 1 || e.2.opc == 2)
      let s := pending.foldl (fun s e => s.answerSched e.2 2 0 s.now) s
      let stamp := if v.fail then Nat.min v.stopStamp ts else ts
      let v := { v with fail := true, stopBy := none, resumeBy := none, killBy := if id = 0 then v.killBy else id :: v.killBy }
      match v.status with
      | .out => (s.setGang g v).discard g
      | .resuming => (s.setGang g v).discard g
      | _ =>
        (s.setGang g { v with status := .stopping, stopStamp := stamp }).postAt (s.cycleOf stamp) 0 .kill ⟨g, 0, 1, 0, []⟩

def execKill (s : State) : Res := .next (s.killGang s.ev.a s.ev.b s.ev.c s.ev.w.toNat)

/-- The local accesses of a core's contexts have performed, their fixed-latency results have arrived, and no trap waits to be
entered (R74). -/
def State.settledCore (s : State) (core : Nat) : Bool :=
  (s.core core).ctxs.all fun x => !s.accessing core x.1 && !x.2.entering && fixedAt x.2.pend ≤ s.now

/-- The work of a gang's core has drained: nothing is left, or a debug halt keeps it (R74, R166, R196, R363). -/
def State.drainedCore (s : State) (core : Nat) : Bool :=
  let k := s.core core
  let halted := k.quiet && k.ctxs.any fun x => x.2.status == .halted && x.2.hk == 2
  (k.vec.q.isEmpty && k.vec.sibs.isEmpty && k.mat.q.isEmpty && s.settledCore core) || (halted && k.vec.q.all VEntry.unbegun
    && k.mat.q.all fun e => e.begunAt.isNone)

/-- R341: PREEMPTION_STAMP, for a gang and a request: once every core has stopped, running routines overrun, recalls are
withdrawn, and once the queues have drained the frames are written (R310, R342). -/
def State.stampReached (s : State) (g id : Nat) : State :=
  match SMap.find s.gangs g, SMap.find s.sched id with
  | some v, some q =>
    let cs := coresOf v.octs
    if v.stopBy ≠ some id ∨ v.status ≠ .stopping ∨ v.ended.length = cs.length then s
    else
      let again (s : State) : State := s.postAt (s.now + 1) 0 .preemptionStamp ⟨g, id, 0, 0, []⟩
      if !cs.all fun c => s.stopped c then again s
      else
        let s := cs.foldl (fun s c => if (s.core c).running.isSome then s.routineOverruns c else s) s
        let s := cs.foldl State.withdrawRecalls s
        if !cs.all fun c => s.drainedCore c then again s
        else match s.writePages (some q.gang) q.asid q.save (128 * cs.length) (savePages cs.length) with
        | some s => s.goOut q g
        | none => ((s.answerSched q 6 0 s.now).setGang g { v with fail := true, stopBy := none }).discard g
  | _, _ => s

def execPreemptionStamp (s : State) : Res := .next (s.stampReached s.ev.a s.ev.b)

/-- A switched-out gang is placed again: its frames are restored and its packets re-injected (R343). -/
def State.comeBack (s : State) (q : SchedReq) : State :=
  let v := s.gang q.gid
  let s := v.saved.foldl (fun s e => s.modCore e.1 fun k =>
    { e.2 with fifo15 := k.fifo15, tlb := k.tlb, injS := k.injS, injV := k.injV, injM := k.injM, lastMsgs := k.lastMsgs }) s
  let s := v.parked.foldl (fun s p => s.postAt (Nat.max p.due (s.now + 1)) p.chan p.ev p.args) s
  let s := { s with sched := SMap.put s.sched q.id { q with stage := .accepted } }.viralHalt (coresOf v.octs)
  ((s.setGang q.gid { v with status := .resuming, saved := [], parked := [], tags := [], resumeBy := some q.id }).haltsBack q.gid).postAt
    (s.cycleOf q.stamp) 0 .resumeStamp ⟨q.gid, q.id, 0, 0, []⟩

/-- A resume whose octants are free goes on, or ends for its tags; any other waits (R343). -/
def State.tryResume (s : State) (q : SchedReq) : Option State :=
  let v := s.gang q.gid
  if v.status ≠ .out then some (s.answerSched q 2 0 s.now)
  else
    let n := (coresOf v.octs).length
    match s.readPages (some q.gang) q.asid q.save (savePages n) with
    | none => some (s.answerSched q 1 0 s.now)
    | some s' =>
      if s'.tagsAt (some q.gang) q.asid q.save n ≠ some v.tags then some (s'.answerSched q 1 0 s.now)
      else if v.octs.any fun o => s.taken.contains o then none
      else some (s'.comeBack q)

/-- R343: RESUME, for a request. -/
def State.resumeOrdered (s : State) (id : Nat) : State :=
  match SMap.find s.sched id with
  | none => s
  | some q =>
    match s.tryResume q with
    | some s => s
    | none =>
      if q.nowait then s.answerSched q 4 0 s.now
      else if 512 ≤ s.queue.length then s.answerSched q 5 0 s.now
      else { s with sched := SMap.put s.sched id { q with stage := .waiting } }

def execResume (s : State) : Res := .next (s.resumeOrdered s.ev.a)

/-- R343: RESUME_STAMP, for a gang and a request: every core may issue from this tick on. -/
def State.resumeReached (s : State) (g id : Nat) : State :=
  match SMap.find s.gangs g, SMap.find s.sched id with
  | some v, some q =>
    if v.status ≠ .resuming ∨ v.resumeBy ≠ some id then s
    else if s.tb < q.stamp then s.postAt (s.now + 1) 0 .resumeStamp ⟨g, id, 0, 0, []⟩
    else
      let s := ((s.setGang g { v with status := .running, started := s.tb, resumeBy := none }).answerSched q 0 g s.now).watchBudget g
      (coresOf v.octs).foldl (fun s c => (s.core c).ctxs.foldl (fun s x => s.fetchReady c x.1) s) (s.wakeRecalls g)
  | _, _ => s

def execResumeStamp (s : State) : Res := .next (s.resumeReached s.ev.a s.ev.b)

/-- Whoever waits is served in order; whether resumes or starts come first is free. -/
def State.serve (s : State) : State :=
  let qs := s.queue
  let (rs, ss) := qs.partition fun q => q.opc != 0
  let order := if s.freeB 0 then rs ++ ss else ss ++ rs
  order.foldl (State.serveOne State.tryResume) s.renew

/-- R335: GANG_START, for a request that reaches the scheduler, for those that wait, or for the first issue of a gang. -/
def State.gangStart (s : State) (id g wait : Nat) : State :=
  if wait = 1 then s.serve
  else if wait = 2 then s.firstIssue id g
  else match SMap.find s.sched id with
  | none => s
  | some q =>
    match q.stage with
    | .sent => if q.node then s.nodeArrives q else s.launchArrives q
    | .graph => s.graphArrives q
    | _ => s

def execGangStart (s : State) : Res := .next (s.gangStart s.ev.a s.ev.b s.ev.c)

/-- R333: CYCLE_BUDGET_EXPIRY, for a gang. -/
def State.budgetEnds (s : State) (g : Nat) : State :=
  match SMap.find s.gangs g with
  | none => s
  | some v =>
    if v.chain.bcyc = 0 || v.budgetSent || !s.residentGang g then s
    else if v.resident + (s.tb - v.started) < v.chain.bcyc then s.postAt (s.now + 1) 0 .cycleBudgetExpiry ⟨g, 0, 0, 0, []⟩
    else (s.setGang g { v with budgetSent := true }).message v.chain.part
      { core := (coresOf v.octs).headD 0, kind := 6, gang := g, ssn := s.ssn ((coresOf v.octs).headD 0) }

def execCycleBudgetExpiry (s : State) : Res := .next (s.budgetEnds s.ev.a)

/-! ### The instructions -/

/-- A context with none of its loads, stores and commands outstanding (R337). -/
def Ctx.settled (t : Ctx) : Bool := t.drained && t.enc == 0

/-- A request of the current context to the scheduler, with its gang's permissions. -/
def State.schedReq (s : State) (id : Nat) : SchedReq :=
  let g := s.curCore.gang.getD 0
  { id := id, core := s.cc, ctx := s.cx, gang := g, part := s.partOf s.cc, pri := (s.gang g).chain.pri
    top := s.level s.cc == 2, asid := s.asidOf s.cc, ssn := s.ssn s.cc }

/-- R337: launch: the descriptor's address is checked as an ldg's; the request then goes to the scheduler. -/
def execLaunch (S : Stall) (d a : Opnd) (s : State) : Res :=
  s.issue { reads := [a], ready := s.cur.settled } fun s =>
    let addr := s.opn a
    s.globalIssue addr 64 1 fun dst s =>
      match dst with
      | .away _ => s.exact 9 addr
      | .here _ =>
        let i := s.newId
        let r := s.mkReq .load i addr 64 dst
        let q := s.schedReq i
        let s := (((s.countOp i).longResult d).setUnr s.cc).finish S
        ({ s with reqs := SMap.put s.reqs i r, sched := SMap.put s.sched i q }).post 0 .gangStart ⟨i, 0, 0, 0, []⟩

/-- R346: gdone. -/
def execGdone (S : Stall) (d a : Opnd) (m : BitVec 2) (s : State) : Res :=
  s.issue { reads := [a], ready := s.cur.settled } fun s =>
    let i := s.newId
    let q := { s.schedReq i with stage := .graph, num := fld (s.opnd a) 0 15, mode := m.toNat }
    let s := (((s.countOp i).longResult d).setUnr s.cc).finish S
    { s with sched := SMap.put s.sched i q }.post 0 .gangStart ⟨i, 0, 0, 0, []⟩

/-- The best schedule of a class table: the least capacity that is enough, the lower entry where two are equal (R347). -/
def bestSchedule (n : Nat) (es : List (Nat × Nat)) : Nat :=
  let best := es.foldl (fun (b : Option (Nat × Nat)) e =>
    if e.2 ≠ 0 ∧ n ≤ e.1 then (match b with | none => some e | some x => if e.1 < x.1 then some e else b) else b) none
  match best with | none => 0 | some e => e.2

/-- R347: schsel. -/
def execSchsel (S : Stall) (d a b : Opnd) (s : State) : Res :=
  let T := s.opn a
  s.issue { reads := [a, b], ready := !s.localWaits T } fun s =>
    match s.target s.cc T 16 128 with
    | .error k => s.exact k T
    | .ok (tc, o) =>
      let s := s.catchUp tc
      let es := (List.range 8).map fun i => (s.lread tc (o + 16 * i) 8, s.lread tc (o + 16 * i + 8) 8)
      (s.opOwn S d 6 (word (bestSchedule (s.opn b) es))).madeLocal tc

/-- Every local access of the current context has performed (R348, R349). -/
def State.localMade (s : State) : Bool := s.cur.localAt ≤ s.now && !s.accessing s.cc s.cx

/-- A helper context as it starts (R336, R348). -/
def CoreState.helper (k : CoreState) (x : Nat) (entry : BitVec 52) (v : Word) (at_ : Nat) : CoreState :=
  let t : Ctx := { status := .running, pc := entry, readyAt := at_ }
  let k := k.setCtx x (t.setG 1 v)
  { k with mat := { k.mat with batches := k.mat.batches.filter (fun b => b.ctx != x), commits := SMap.set 0 k.mat.commits x 0 }
           vec := { k.vec with last := k.vec.last.filter fun e => e.1 / 8 != x } }

/-- R348: hstart. -/
def execHstart (S : Stall) (d a : Opnd) (o : BitVec 10) (s : State) : Res :=
  s.issue { reads := [a], ready := s.localMade } fun s =>
    if s.cx ≠ 0 then s.exact 80 0
    else match [1, 2, 3, 4, 5, 6, 7, 8, 9, 10].find? fun x => (s.curCore.ctx x).status == .free with
    | none => s.opOwn S d 2 (BitVec.allOnes 64)
    | some x =>
      let entry := wordOffset s.cur.pc (o.signExtend 52)
      let v := s.opnd a
      (s.modCurCore fun k => k.helper x entry v (s.now + 2)).opOwn S d 2 (word x)

/-- A context ends: its unpopped elements go (R245, R349). -/
def State.endCtx (s : State) : State :=
  let x := s.cx
  (s.modCurCore fun k => { k with results := k.results.filter fun r => r.ctx != x }).modCur fun t =>
    { t with status := .ended, issuedAt := s.now }

/-- A core's part of its gang ends; the last one ends the gang (R339). -/
def State.endCore (s : State) : State :=
  match s.curCore.gang with
  | none => s.endCtx
  | some g =>
    let s := s.endCtx
    let ended := s.cc :: (s.gang g).ended
    let s := s.modGang g fun v => { v with ended := ended }
    if ended.length = (coresOf (s.gang g).octs).length then s.post 0 .gangCompletion ⟨g, 0, 0, 0, []⟩ else s

/-- R349: hexit. -/
def execHexit (_S : Stall) (s : State) : Res :=
  s.issue { ready := s.cur.workDone && s.localMade } fun s =>
    if s.cx ≠ 0 then s.endCtx
    else if s.cur.rt || s.curCore.helperLive then s.exact 51 0
    else s.endCore

/-- R349: hjoin: a helper (cause 80) and a number that names no live helper (cause 81) trap; then it waits for the
helper's hexit. -/
def execHjoin (S : Stall) (a : Opnd) (s : State) : Res :=
  s.issue { reads := [a] } fun s =>
    let k := s.opn a
    let t := s.curCore.ctx k
    if s.cx ≠ 0 then s.exact 80 0
    else if k = 0 || 10 < k || t.status == .free then s.exact 81 0
    else if t.status != .ended || s.now ≤ t.issuedAt then s.hold
    else (s.modCurCore fun c => { c with ctxs := SMap.del c.ctxs k }).finish S

end Sys2Proof.Machine
end

