-- ==== Sys2Proof/Machine/Cycle.lean ====
section
/-! DEFINITION. The course of a cycle: the events that are due, then the words of the cores in ascending order, then the
next cycle, in which results arrive, waits end and the units begin what is ready (R8, R18, R65, R74, R75). -/
namespace Sys2Proof.Machine

/-! ### What is due now -/

/-- The first entry of a calendar that is due, and the rest. -/
def takeDue (now : Nat) : List Post → Option (Post × List Post)
  | [] => none
  | p :: ps =>
    if p.due ≤ now then some (p, ps)
    else match takeDue now ps with
      | none => none
      | some (q, qs) => some (q, p :: qs)

/-- The event that is due: from the calendar, then from outside. -/
def State.dueEvent (s : State) : Option (Instr × State) :=
  match takeDue s.now s.cal with
  | some (p, ps) => some (p.ev, { s with cal := ps, ev := p.args })
  | none =>
    match takeDue s.now s.inputs with
    | some (p, ps) => some (p.ev, { s with inputs := ps, ev := p.args })
    | none => none

/-! ### What a core does in this cycle -/

/-- A late fault of a context is taken now (R121, R165). -/
def Ctx.lateDue (t : Ctx) : Bool := !t.late.isEmpty && t.status == .running && t.wait.endable

/-- A context of a core that meets a test, in ascending order. -/
def CoreState.findCtx (k : CoreState) (p : Nat → Bool) : Option Nat := (k.ctxs.map (·.1)).find? p

/-- A context could issue an expansion of its mtile (R200). -/
def Ctx.expanding (now : Nat) (t : Ctx) : Bool :=
  t.status == .running && t.readyAt ≤ now && (match t.wait with | .tile _ _ _ _ _ _ => true | _ => false)

/-- The context that the round-robin gives the cycle to: the first ready one at or after the pointer (R65). -/
def CoreState.nextReady (k : CoreState) (now : Nat) : Option Nat :=
  ((List.range 11).map fun i => (k.rr + i) % 11).find? fun x => (k.ctx x).couldIssue now || (k.ctx x).expanding now

/-- A context is given the cycle: the pointer moves on, and the word is the one that issues (R65). -/
def State.grant (s : State) (c x : Nat) (w : Code) : State :=
  let s := { s with cc := c, cx := x, scan := c + 1, code := w }
  s.modCore c fun k => { k with rrPrev := k.rr, rr := (x + 1) % 11, slotCtx := x, slotPc := (k.ctx x).wordPc.toNat }

/-- The next word of a context is decoded and becomes the instruction to run, or its halt (R50, R51). -/
def State.runWord (s : State) (c x : Nat) (w : Code) : Instr × State :=
  let s := s.grant c x w
  match decode w with
  | .instr i => (i, s)
  | .illegal cause => (.illegalWordHalt, { s with ev := ⟨cause.code, 0, 0, w.zeroExtend 64, []⟩ })

/-- What a step does: run an instruction, or change the state of the machine between instructions. -/
inductive Todo where
  | run (i : Instr) (s : State)
  | pass (s : State)

/-- What a ready context does with the cycle (R25, R79, R80, R119, R354).  DEDUCED (log 172): a captured word runs, and where it is illegal
is reported in fault and halt records, as it stands after staggering; R50 does not say whether the word in memory is reported. -/
def State.contextTurn (s : State) (c x : Nat) : Todo :=
  let s' := { s with cc := c, cx := x }
  let t := s.ctxAt c x
  if t.inFrame then
    match t.frame with
    | [] => .pass s'.recapture
    | ws =>
      let r := s.runWord c x (staggered t.frameRpt (ws.getD t.rfWord 0) t.rfPass)
      .run r.1 r.2
  else match s'.fetchAt c t.pc with
    | .miss => .pass (s'.startWalk c x t.pc.toNat 4)
    | .bad k => .run .fetchFault { s' with ev := ⟨k, 0, 0, t.pc.zeroExtend 64, []⟩ }
    | .code w =>
      let r := s.runWord c x w
      .run r.1 r.2

/-- The next instruction of a routine that a control context runs is its 2,048th; each expansion of an mtile is one (R305, R360). -/
def CoreState.lastOfRoutine (k : CoreState) (x : Nat) : Bool := x == 0 && (k.ctx x).rt && 2047 ≤ k.rcount

/-- What stands in place of a word that a ready context would issue: an expansion of its mtile (R200), the overrun of a
routine whose 2,048th instruction is not fans (R305), a mismatch that was injected (R368); else the word. -/
def State.wordTurn (s : State) (c x : Nat) (k : CoreState) : Todo :=
  let overrun : Todo := .run .routineOverrun { s with ev := ⟨c, 0, 0, 0, []⟩ }
  match (k.ctx x).wait with
  | .tile _ _ _ _ _ _ => if k.lastOfRoutine x then overrun else .run .mtileExpansion (s.grant c x 0)
  | _ =>
    match s.contextTurn c x with
    | .run i s' =>
      if k.lastOfRoutine x && (match i with | .fans _ _ => false | _ => true) then overrun
      else if k.injS && checkedWord i then .run .inOrderCheck { s with ev := ⟨c, x, 0, 0, []⟩ }
      else .run i s'
    | p => p

/-- What a core does next in this cycle, if anything: a recall that no routine takes, a late fault, the entry of a
surrender routine, an interrupt, a word (R65, R121, R304, R305, R359).  A core whose gang is stopped does nothing
(R341). -/
def State.coreTurn (s : State) (c : Nat) (k : CoreState) : Option Todo :=
  if s.routineAbsent c then some (.run .routineOverrun { s with ev := ⟨c, 0, 0, 0, []⟩ })
  else if s.stopped c then none
  else match k.findCtx fun x => (k.ctx x).lateDue with
  | some x => some (.run .trapEntry { s with ev := ⟨c, x, 0, 0, []⟩ })
  | none =>
    if s.routineReady c then some (.run .routineEntry { s with ev := ⟨c, 0, 0, 0, []⟩ })
    else match k.findCtx fun x => s.interruptDue c x with
    | some x => some (.run .interrupt { s with ev := ⟨c, x, 0, 0, []⟩ })
    | none =>
      match k.nextReady s.now with
      | some x => some (s.wordTurn c x k)
      | none => none

/-- The first core, from the scan point on, that has something to do (R65). -/
def State.scanCores (s : State) : SMap CoreState → Option Todo
  | [] => none
  | (c, k) :: ks =>
    if c < s.scan then s.scanCores ks
    else match s.coreTurn c k with
      | some t => some t
      | none => s.scanCores ks

/-! ### The next cycle -/

/-- What a context still waits for as a cycle begins (R75, R139, R370). -/
def Ctx.endWait (now : Nat) (others : Nat → Ctx) (t : Ctx) : Ctx :=
  match t.wait with
  | .counter k limit => if t.counter k ≤ limit then { t.advance with wait := .none } else t
  | .others xs till =>
    let left := xs.filter fun x => (others x).status == .running && (others x).issuedAt + 11 ≤ till
    if left.isEmpty || till ≤ now then { t with wait := .none } else { t with wait := .others left till }
  | _ => t

/-- The contexts of a core as a cycle begins: fixed-latency results arrive, waits end, and an instruction of a running
routine is counted; the landing slots have stood as they do for one cycle more (R70, R74, R270, R305). -/
def CoreState.cycle (now : Nat) (k : CoreState) : CoreState :=
  let t := k.ctx 0
  { k with rcount := if t.rt && k.slotCtx == 0 && t.issuedAt + 1 == now then k.rcount + 1 else k.rcount
           landSeen := k.landLast, landLast := k.land
           ctxs := k.ctxs.map fun x => (x.1, ((x.2.settle now).endWait now k.ctx)), slotCtx := 15 }

/-- Held releases whose earlier accesses have performed depart (R133). -/
def State.releases (s : State) : State :=
  s.held.foldl (fun s i => match SMap.find s.reqs i with
    | some r => if s.mayDepart r then s.postAt s.now 0 .releaseDepart ⟨i, 0, 0, 0, []⟩ else s
    | none => s) s

/-- A gen is answered once no access, keyed operation or engine command of the old generation is left (R121). -/
def State.genAnswers (s : State) : State :=
  let ended (g : GenWait) : Bool :=
    g.reqs.all (fun i => (SMap.find s.reqs i).isNone) && g.keyed.all (fun i => (SMap.find s.kreqs i).isNone)
      && g.cmds.all fun p => (s.core p.1).cmds.all fun c => c.id != p.2 || c.ended
  let (done, left) := s.genWaits.partition ended
  done.foldl (fun s g => s.respond g.core g.ctx g.id { v := g.v }) { s with genWaits := left }

/-- The 32-bit trace record of a core for the cycle that ends (R367). -/
def CoreState.slotRecord (k : CoreState) : Nat :=
  if k.slotCtx = 15 then 15 else k.slotCtx + bitsOf k.slotPc 2 28 * 16

/-- The trace unit of a die at the end of a cycle: the records of its octant, an armed start, the end of a run. -/
def State.traceCycle (s : State) (die : Nat) : State :=
  let t := s.trace die
  if t.run then
    let rec_ := (s.tb, s.ssn (8 * t.oct), (coresOf [t.oct]).map fun c => (s.core c).slotRecord)
    let recs := (rec_ :: t.recs).take 65536
    let s := s.setTrace die { t with recs := recs }
    if !t.ring && 65536 ≤ recs.length then s.postAt s.now 0 .traceEnd ⟨die, 0, 0, 0, []⟩ else s
  else if t.mode = 2 && !t.done && t.tst.toNat ≤ s.tb then s.postAt s.now 0 .traceStamp ⟨die, 0, 0, 0, []⟩
  else s

/-- The octants of the cores listed. -/
def State.octants (s : State) : List Nat := (s.cores.map fun e => octOf e.1).eraseDups

/-- Sibling accesses that have reached their bank, behind the words that its own core issued up to then; a range guarded for
an entry that their context did not issue behind them holds back a write, and a later access of their context with it
(R116, R131, R142, R192). -/
def State.sibCycle (s : State) (c : Nat) : State :=
  let ready (b : Sib) : Bool := b.due ≤ s.now
    && (b.passes || !s.guardedBy (fun d e => !(d == c && e.ctx == b.ctx)) b.target b.addr b.width)
  let (go, stay) := sibSplit ready [] (s.core c).sibs
  go.foldl (fun s b => (s.sibPerform c b).modCtx c b.ctx fun t => { t with localAt := Nat.max t.localAt (s.now + 1) })
    (s.modCore c fun k => { k with sibs := stay })

/-- The time base over one cycle: 1.05 GHz at every clock (R11, R12). -/
def State.timeBase (s : State) : State :=
  let f := s.tbFrac + 1050
  { s with tb := (s.tb + f / s.clock) % 2 ^ 64, tbFrac := f % s.clock }

/-- The contexts of a core whose batch has completed or whose section has landed go on, but not while their gang is
stopped (R203, R270, R341). -/
def State.coreWaits (s : State) (c : Nat) : State :=
  if s.stopped c then s else (s.core c).ctxs.foldl (fun s x => (s.batchWait c x.1).landingWait c x.1) s

/-- Traps and routines that wait to be entered at a core are, as far as nothing holds them back (R74, R192). -/
def State.coreEnters (s : State) (c : Nat) : State := (s.core c).ctxs.foldl (fun s x => s.enters c x.1) s

/-- The next cycle begins. -/
def State.tick (s : State) : State :=
  let s := s.traceCycle 0
  let s := s.traceCycle 1
  let s := { s with now := s.now + 1, scan := 0 }.timeBase
  let cs := s.cores.map (·.1)
  let s := cs.foldl State.sibCycle s
  let cycle (e : Nat × CoreState) : Nat × CoreState := (e.1, e.2.cycle s.now)
  let s := { s with cores := s.cores.map cycle }
  let s := cs.foldl State.coreWaits s
  let s := s.octants.foldl State.vectorCycle s
  let s := cs.foldl State.matrixCycle s
  let s := cs.foldl State.engineCycle s
  let s := cs.foldl State.coreEnters s
  s.keyedCycle.releases.genAnswers.tlbActs.restarts

/-- What the module still answers once the rails are off: a cold reset, and reads of BAR0 (R395). -/
def Post.answered (p : Post) : Bool := p.ev == .coldReset || (p.ev == .hostMemoryAccess && p.args.b == 2)

/-- What happens once the rails are off (R395): what is due and still answered, else time passes; nothing, where nothing that
is answered will come. -/
def State.afterTrip (s : State) : Option Todo :=
  match takeDue s.now (s.inputs.filter fun p => s.now < p.due || p.answered) with
  | some (p, ps) => some (.run p.ev { s with inputs := ps, ev := p.args })
  | none => if s.inputs.any Post.answered then some (.pass { s with now := s.now + 1, scan := 0 }.timeBase) else none

end Sys2Proof.Machine
end

