-- ==== Sys2Proof/Machine/Boundaries.lean ====
section
/-! DEFINITION. The boundary: host accesses and commands, the management window, scale-up ports, requests of other
devices, HBM repair, the power manager, start-up, resets, attestation and the change of a tenant (R376 to R400). -/
namespace Sys2Proof.Machine

/-- Change the module beyond the cores. -/
def State.modMd (s : State) (f : Module → Module) : State := { s with md := f s.md }
/-- Something leaves for the host. -/
def State.outHost (s : State) (o : HostOut) : State := s.modMd fun m => { m with toHost := m.toHost ++ [o] }

/-- Ticks of the time base in 10 µs, 20 µs, 500 ms, 1 ms and 10 s (R11, R388, R394, R396, R399). -/
def sampleTicks : Nat := 10500
def trainTicks : Nat := 21000
def quoteTicks : Nat := 525000000
def recoverTicks : Nat := 1050000
def failTicks : Nat := 10500000000

/-! ### The management window (R384) -/

/-- DSTAT (R384). -/
def State.dstat (s : State) : Nat :=
  b2n s.md.ready + 2 * b2n s.md.failed + 4 * b2n s.viral + 8 * b2n s.md.trip + 2 ^ 8 * (s.md.step % 256) + 2 ^ 16 * s.clock

/-- The boot record: the start count and the options in the header, an entry per step, and the reports of symbol positions
that a repair table had no room for (R392, R397). -/
def Module.bootRecord (m : Module) : List Byte :=
  let header := (toBytes 8 m.starts ++ m.options ++ List.replicate 56 0).take 64
  let entries := (List.range 12).flatMap fun k => toBytes 8 (SMap.get 0 m.boot (k + 1))
  let reports := m.third.flatMap fun e => toBytes 4 e.1 ++ toBytes 4 e.2
  (header ++ entries ++ reports ++ List.replicate 4096 0).take 4096

/-- A byte of BAR0; a name the table does not give reads 0 (R384). -/
def State.bar0 (s : State) (off : Nat) : Byte :=
  let m := s.md
  let reg (v lo : Nat) : Byte := BitVec.ofNat 8 (v / 256 ^ (off - lo))
  if off < 8 then reg s.dstat 0
  else if off < 0x10 then reg s.vir 8
  else if 0x18 ≤ off ∧ off < 0x20 then reg m.plim 0x18
  else if 0x20 ≤ off ∧ off < 0x28 then reg m.hdrop 0x20
  else if 0x100 ≤ off ∧ off < 0x1100 then
    match SMap.find m.notify ((off - 0x100) / 16) with
    | none => 0
    | some n => (toBytes 8 n.addr ++ toBytes 8 n.lg).getD ((off - 0x100) % 16) 0
  else if 0x100000 ≤ off ∧ off < 0x101000 then m.bootRecord.getD (off - 0x100000) 0
  else if 0x101000 ≤ off ∧ off < 0x103000 then
    let slot := (off - 0x101000) / 32
    let n := Nat.min 256 m.eventCount
    match (List.range n).find? fun k => (m.eventCount - 1 - k) % 256 == slot with
    | none => 0
    | some k => (m.events.getD k []).getD ((off - 0x101000) % 32) 0
  else if 0x103000 ≤ off ∧ off < 0x103008 then reg m.eventCount 0x103000
  else if 0x200000 ≤ off ∧ off < 0x300000 then m.attest.getD (off - 0x200000) 0
  else if 0x1000000 ≤ off ∧ off < 0x5000000 then
    let p := (off - 0x1000000) / 0x40000
    s.gbyte (Config.hostRegion p + 0x40000 + (off - 0x1000000) % 0x40000)
  else 0

/-! ### Host accesses (R377, R378) -/

/-- A link has been granted the frames of a range (R378). -/
def Module.granted (m : Module) (link a n : Nat) : Bool :=
  m.grants.contains (link, a / 2 ^ 21) && m.grants.contains (link, (a + n - 1) / 2 ^ 21)

/-- R378: HOST_MEMORY_ACCESS, through BAR4 or a read of BAR0: the link, the kind (0 a read, 1 a write, 2 a read of BAR0),
the length of a read, the offset, and the bytes of a write. -/
def State.hostAccess (s : State) (link kind len off : Nat) (data : List Byte) : State :=
  if kind = 2 then s.outHost (.data link ((List.range len).map fun i => s.bar0 (off + i)))
  else if s.viral then (if kind = 0 then s.outHost (.abort link) else s)
  else
    let n := if kind = 0 then len else data.length
    if 2 ^ 39 < off + n ∨ !s.md.granted link off n then
      let s := s.modMd fun m => { m with hdrop := Nat.min (m.hdrop + 1) (2 ^ 64 - 1) }
      if kind = 0 then s.outHost (.data link (List.replicate n 0xFF)) else s
    else if kind = 0 then s.outHost (.data link (s.gbytes off n))
    else s.gputBytes none off data

def execHostMemoryAccess (s : State) : Res := .next (s.hostAccess s.ev.a s.ev.b s.ev.c s.ev.w.toNat s.ev.data)

/-! ### Command windows (R379, R380) -/

/-- Add 1 to a 64-bit count of a host region. -/
def State.addCount (s : State) (a : Nat) : State := s.gwrite none a 8 ((s.gread a 8 + 1) % 2 ^ 64)

/-- A write is a command: 64 bytes at offset 0, with a sequence number and its zero fields zero (R380). -/
def isCommand (off : Nat) (data : List Byte) : Bool :=
  off == 0 && data.length == 64 && ofBytes (data.take 4) != 0 && ofBytes ((data.drop 6).take 2) == 0
    && ofBytes (data.drop 48) == 0

/-- A link reaches the window of a partition: both do where they are bonded, else the one that the partition is bound to (R376). -/
def State.linkReaches (s : State) (link p : Nat) : Bool := s.md.bonded || link % 2 == Config.linkOf (p % 256) % 2

/-- R380: HOST_COMMAND, for a link, a window, an offset, the length of a read (0 for a write) and the bytes written. -/
def State.hostCommand (s : State) (link p off len : Nat) (data : List Byte) : State :=
  let base := Config.hostRegion (p % 256)
  if !s.linkReaches link p then (if len = 0 then s else s.outHost (if s.viral then .abort link else .data link (List.replicate len 0)))
  else if 0 < len then
    if s.viral then s.outHost (.abort link)
    else s.outHost (.data link ((List.range len).map fun i =>
      if 0x40 ≤ off + i ∧ off + i ≤ 0x4FF then s.gbyte (base + off + i) else 0))
  else if s.viral then s
  else if s.md.tenant || !isCommand off data then s.addCount (base + 0x50)
  else
    let placed := s.gread (base + 0x40) 8
    if s.gread (base + 0x48) 8 + 16 ≤ placed then s.addCount (base + 0x58)
    else
      let slot := data.take 48 ++ toBytes 8 s.tb ++ toBytes 1 link ++ data.drop 57
      (s.gputBytes none (base + 0x100 + 64 * (placed % 16)) slot).gwrite none (base + 0x40) 8 ((placed + 1) % 2 ^ 64)

def execHostCommand (s : State) : Res := .next (s.hostCommand s.ev.a s.ev.b s.ev.c s.ev.w.toNat s.ev.data)

/-- R383: NOTIFY_REGISTER, for a partition's window, n and a ring address; address 0 unregisters. -/
def State.notifyRegister (s : State) (p n addr : Nat) : State :=
  if addr = 0 then s.modMd fun m => { m with notify := SMap.del m.notify p }
  else if p < 256 ∧ addr % 64 = 0 ∧ 4 ≤ n ∧ n ≤ 16 then s.modMd fun m => { m with notify := SMap.put m.notify p ⟨addr, n, 0⟩ }
  else s

def execNotifyRegister (s : State) : Res := .next (s.notifyRegister s.ev.a s.ev.b s.ev.w.toNat)

/-! ### Scale-up ports (R385 to R388) -/

/-- A port that is down holds nothing (R387, R388). -/
def Port.goDown (v : Port) : Port := { v with down := true, width := 0, sent := [], queue := [], training := false, inbox := [] }

/-- A port goes down: the requests that wait on it will end with cause 18, and the branches through it end (R261, R387). -/
def State.portFails (s : State) (p : Nat) : State :=
  let s := s.setPort p (s.port p).goDown
  let lost (r : Req) : Req := if r.left = 1 ∧ r.remote.map portTo = some p then { r with left := 2 } else r
  let s := { s with reqs := SMap.mapVals s.reqs lost }
  s.xfers.foldl (fun s e => (List.range e.2.branches.length).foldl (fun s b =>
    match e.2.branches[b]? with
    | some v => if v.ended = 0 ∧ v.dev.map portTo = some p then s.endBranch e.1 b 2 else s
    | none => s) s) s

/-- A port sends its unacknowledged flits again; after 64 replays without progress it goes down; none leaves in the viral state
(R387, R389). -/
def State.replay (s : State) (p : Nat) : State :=
  let v := s.port p
  if v.down || v.sent.isEmpty || s.viral then s
  else if 64 ≤ v.replays then s.portFails p
  else
    let s := s.setPort p { v with replays := v.replays + 1, since := s.tb }
    let s := v.sent.foldl (fun s f => s.outFlit p { f with ack := v.got }) s
    s.postAt (s.cycleOf (s.tb + replayTicks)) 0 .replayTimeout ⟨p, 0, 0, 0, []⟩

/-- R387: REPLAY_TIMEOUT, for a port. -/
def State.replayTimeout (s : State) (p : Nat) : State :=
  let v := s.port p
  if v.down || v.sent.isEmpty || v.training then s
  else if s.tb < v.since + replayTicks then s.postAt (Nat.max (s.now + 1) (s.cycleOf (v.since + replayTicks))) 0 .replayTimeout
    ⟨p, 0, 0, 0, []⟩
  else s.replay p

def execReplayTimeout (s : State) : Res := .next (s.replayTimeout s.ev.a)

/-- An ACK covers the flits up to a sequence number (R387). -/
def Port.acked (v : Port) (seq tb : Nat) : Port :=
  if v.sent.any fun f => f.seq == seq then
    { v with sent := ((v.sent.dropWhile fun f => f.seq != seq).drop 1), replays := 0, since := tb }
  else v

/-- A flit without data leaves a port: an acknowledgement 2, or a NAK 3, with the last sequence number received in order (R386,
R387). -/
def State.linkFlit (s : State) (p typ : Nat) : State :=
  s.outFlit p { seq := (s.port p).tx, typ := typ, ack := (s.port p).got, src := s.did }

/-- The request of this device that the answer of another belongs to ends with what the answer says (R121, R387, R389). -/
def State.answered (s : State) (src tag cause : Nat) (v : Word) : State :=
  match SMap.find s.reqs tag with
  | none => s
  | some r =>
    if r.remote = some src ∧ r.left = 1 then
      let s := s.answer r r.kind.returns (extend r.width r.signed v.toNat) (if cause = 0 then none else some cause)
      if cause = 0 then s.sendArrival r else s
    else s

/-- The branches that another device says have ended (R254, R261 to R263). -/
def State.branchEnds (s : State) (src core slot how : Nat) : State :=
  s.xfers.foldl (fun s e => (List.range e.2.branches.length).foldl (fun s b =>
    match e.2.branches[b]? with
    | some v => if v.dev == some src && v.core == core && v.slot == slot && v.ended == 0 && (how != 1 || v.got == e.2.w)
      then s.endBranch e.1 b how else s
    | none => s) s) s

/-- What an accepted data flit for this device brings: on channel 0 a request of its device, once its payloads are whole, and on
channel 1 an answer or the end of a branch; management flits do nothing to the machine (R385, R386, R389). -/
def State.flitBrings (s : State) (p src vc : Nat) (pay : List Byte) : State :=
  match vc with
  | 0 =>
    let all := SMap.get [] (s.port p).inbox src ++ pay
    let keep (bs : List Byte) : State := s.setPort p { s.port p with inbox := SMap.set [] (s.port p).inbox src bs }
    match Config.payRequest all with
    | none => keep all
    | some (part, c, a, data) => (keep []).post (unitChan 2 p) .remoteRequest ⟨src, part, c, word a, data⟩
  | 1 =>
    match Config.payResponse pay with
    | [2, tag, _, cause, v] => s.answered src tag cause (word v)
    | [4, core, slot, how] => if 1 ≤ how ∧ how ≤ 3 then s.branchEnds src core slot how else s
    | _ => s
  | _ => s

/-- R386, R387: FLIT_RECEIVE, for a port and the 256 bytes of a flit: one whose CRC is bad or whose number is not the next is
discarded and answered with a NAK; any other is accepted: what its ACK covers makes room for what waits, a data flit is
acknowledged and, where it names this device, brings what it carries, and a NAK has the port replay. -/
def State.flitReceive (s : State) (p : Nat) (data : List Byte) : State :=
  let v := s.port p
  let w := ofBytes (data.take 8)
  let good := ofBytes ((data.drop 248).take 8) = Config.crc64 (data.take 248) % 2 ^ 64
  if v.down || v.training || data.length ≠ 256 then s
  else if !good || bitsOf w 0 12 != v.rx then s.linkFlit p 3
  else
    let s := (s.setPort p (v.acked (bitsOf w 16 12) s.tb)).drainPort p 512
    match bitsOf w 12 4 with
    | 1 =>
      let s := (s.setPort p { s.port p with rx := (v.rx + 1) % 4096 }).linkFlit p 2
      if bitsOf w 32 9 = s.did then s.flitBrings p (bitsOf w 41 9) (bitsOf w 28 2) ((data.drop 8).take 240) else s
    | 3 => s.replay p
    | _ => s

def execFlitReceive (s : State) : Res := .next (s.flitReceive s.ev.a s.ev.data)

/-- The width and the first lane that the failed lanes leave (R388). -/
def widthFor (failed : Nat) : Nat × Nat :=
  let ok (lo n : Nat) : Bool := bitsOf failed lo n == 0
  if ok 0 16 then (16, 0) else if ok 0 8 then (8, 0) else if ok 8 8 then (8, 8)
  else match [0, 4, 8, 12].find? fun q => ok q 4 with
    | some q => (4, q)
    | none => (0, 0)

/-- A port trains again at the width its lanes allow (R388). -/
def State.train (s : State) (p : Nat) (v : Port) : State :=
  let w := widthFor v.failed
  if w.1 = 0 then (s.setPort p v).portFails p
  else
    let s := s.setPort p { v with width := w.1, lane := w.2, training := true, down := false }
    (s.postAt (s.cycleOf (s.tb + 1 + s.freeN 0 % trainTicks)) 0 .portRetrainDone ⟨p, 0, 0, 0, []⟩).renew

/-- R388: LANE_FAILURE, for a port and a lane: a lane in use makes the port narrow and retrain. -/
def State.laneFailure (s : State) (p lane : Nat) : State :=
  let v := s.port p
  let v' := { v with failed := v.failed ||| 2 ^ (lane % 16) }
  if v.down || v.lane + v.width ≤ lane % 16 || lane % 16 < v.lane then s.setPort p v' else s.train p v'

def execLaneFailure (s : State) : Res := .next (s.laneFailure s.ev.a s.ev.b)

/-- R388: PORT_RETRAIN_DONE, for a port: unacknowledged flits are replayed, and data traffic goes on. -/
def State.retrainDone (s : State) (p : Nat) : State :=
  let v := s.port p
  if !v.training then s
  else ((s.setPort p { v with training := false, replays := 0, since := s.tb }).replay p).drainPort p 512

def execPortRetrainDone (s : State) : Res := .next (s.retrainDone s.ev.a)

/-- R388: PORT_RESET, for a port and the lanes that the training finds bad: it may widen again. -/
def execPortReset (s : State) : Res :=
  .next (s.train s.ev.a { s.port s.ev.a with failed := s.ev.b % 2 ^ 16, replays := 0 })

/-! ### Requests of other devices (R117, R261, R389) -/

/-- A request as it stands in an event: its kind (0 load, 1 store, 2 atomic, 3 reduction, 4 write-back, 5 a PRELAY section, 6 a
watch), its operation, width, sign and format, its generation, the number that its device gave it, and its operands. -/
structure Away where
  kind : Nat
  op : Nat
  width : Nat
  signed : Bool
  float : Bool
  gen : Nat
  tag : Nat
  v : Nat
  u : Nat

def Away.read (c : Nat) (bs : List Byte) : Away :=
  { kind := bitsOf c 0 3, op := bitsOf c 3 4, width := 2 ^ bitsOf c 7 2, signed := bitsOf c 9 1 == 1, float := bitsOf c 10 1 == 1
    gen := bitsOf c 16 16, tag := c / 2 ^ 32, v := ofBytes (bs.take 8), u := ofBytes ((bs.drop 8).take 8) }

/-- A request that has been translated performs at the home slice of its line (R123, R146, R149). -/
def State.awayPerforms (s : State) (q : Away) (pa : Nat) : State × Word :=
  let old := s.gread pa q.width
  match q.kind with
  | 0 => (s, extend q.width q.signed old)
  | 1 => (s.gwrite none pa q.width q.v, 0)
  | 2 => (s.gupdate none pa q.width old (atomicNew q.op q.width q.signed old q.v q.u), extend q.width q.signed old)
  | 3 => (s.gwrite none pa q.width (redNew q.op q.float q.width q.signed old q.v), 0)
  | _ => (s, 0)

/-- The branch of another device's transfer that a core and slot of this device receive, the newest. -/
def State.relayed (s : State) (dev src core slot : Nat) : Option Nat :=
  ((s.xfers.filter fun e => e.2.dev == some dev && e.2.core == src
    && e.2.branches.any fun v => v.core == core && v.slot == slot && v.ended == 0).map (·.1)).getLast?

/-- A section of a PRELAY for a core of this device: the first one makes the branch, refused unless the core runs a gang of the
partition that the sender's is bound to; a later one of a branch that has ended is discarded, and the sender told (R254, R261,
R263). -/
def State.relaySection (s : State) (dev : Nat) (b : Option Binding) (w : Nat) (data : List Byte) : State :=
  let core := bitsOf w 0 11
  let slot := bitsOf w 11 4
  let sec := bitsOf w 15 5
  let width := bitsOf w 20 5
  let ks := bitsOf w 25 4
  let src := bitsOf w 29 11
  if sec = 0 then
    if (s.core core).gang.isSome && b.map (·.part) == some (s.partOf core) then
      let i := s.newId
      let x : Xfer := { core := src, dev := some dev, gang := (s.core core).gang, w := width, ks := ks
                        branches := [{ core := core, slot := slot }] }
      (s.useId.putXfer i x).postAt s.now 0 .sectionArrival ⟨i, 0, sec, 0, data⟩
    else s.tellBranch dev core slot 2
  else match s.relayed dev src core slot with
  | some i => s.postAt s.now 0 .sectionArrival ⟨i, 0, sec, 0, data⟩
  | none => s.tellBranch dev core slot 3

/-- The permissions that a request of another device needs, by its kind: RD for a load or a watch, WR for a store or a reduction, both
for an atomic, WR of any page for a write-back; none where the kind names no access (R119, R140, R141). -/
def Away.need (q : Away) : Option Nat :=
  match q.kind with | 0 => some 1 | 6 => some 1 | 1 => some 2 | 3 => some 2 | 2 => some 3 | 4 => some 18 | _ => none

/-- A request that has its place: a watch is answered at once where the word differs, else it stays at the slice; any other performs
and is answered (R123, R140, R389). -/
def State.awayAt (s : State) (dev part asid : Nat) (q : Away) (pa : Nat) : State :=
  if q.kind = 6 ∧ s.gread pa 8 = q.v then s.watchAdd ⟨q.tag, 2048, 0, asid, pa, false, some (dev, part)⟩
  else
    let (s, v) := s.awayPerforms q pa
    s.answerAway dev part q.tag 0 v

/-- R389: REMOTE_REQUEST, for a device, a partition, the request, its address and its operands: it is translated in the
address space bound to the sender's partition, or refused: cause 18 without a binding or a translation, 17 for a stale
generation. -/
def State.remoteRequest (s : State) (dev part c a : Nat) (data : List Byte) : State :=
  let q := Away.read c data
  if q.kind = 5 then s.relaySection dev (SMap.find s.md.bindings (bindKey dev part)) a data
  else match SMap.find s.md.bindings (bindKey dev part), q.need with
  | some b, some need =>
    if q.gen ≠ (s.space b.asid).gen then s.answerAway dev part q.tag 17 0
    else
      match s.xlateWalk b.asid (a % 2 ^ 42) need with
      | .error _ => s.answerAway dev part q.tag 18 0
      | .ok (pa, s) =>
        if facetBase ≤ pa ∨ a % (if q.kind = 6 then 8 else q.width) ≠ 0 then s.answerAway dev part q.tag 18 0
        else
          (s.addCounts b.asid (a % 2 ^ 42 / 65536) (countOne (0, 0, 0) (need / 2 % 2 == 1) true)).awayAt dev part b.asid q pa
  | _, _ => s.answerAway dev part q.tag 18 0

def execRemoteRequest (s : State) : Res := .next (s.remoteRequest s.ev.a s.ev.b s.ev.c s.ev.w.toNat s.ev.data)

/-! ### HBM repair (R392) -/

/-- A symbol position goes into the repair table of a rank, if it has room; a third is reported. -/
def Module.enter (m : Module) (rank pos : Nat) : Module :=
  let t := SMap.get [] m.repair rank
  if t.contains pos then m
  else if t.length < 2 then { m with repair := SMap.put m.repair rank (t ++ [pos]) }
  else { m with third := if m.third.contains (rank, pos) then m.third else m.third ++ [(rank, pos)] }

/-- The corrections of a pass: a line and a symbol position in each 9 bytes. -/
def corrections : Nat → List Byte → List (Nat × Nat)
  | 0, _ => []
  | n + 1, bs => (ofBytes (bs.take 8), ofBytes ((bs.drop 8).take 1)) :: corrections n (bs.drop 9)

/-- The symbol positions that a pass corrected in 16 distinct lines or more (R392). -/
def oftenCorrected (cs : List (Nat × Nat)) : List Nat :=
  (List.range 68).filter fun p => 16 ≤ ((cs.filter fun e => e.2 == p).map (·.1)).eraseDups.length

/-- R392: HBM_SCRUB_PASS, for a slice, one of its eight ranks, and the lines and symbol positions that the pass corrected: no byte
changes, and what was corrected in 16 distinct lines is entered. -/
def execHbmScrubPass (s : State) : Res :=
  .next (s.modMd fun m => (oftenCorrected (corrections (s.ev.data.length / 9) s.ev.data)).foldl (fun m p =>
    m.enter (8 * s.ev.a + s.ev.b % 8) p) m)

/-! ### The power manager (R12, R394, R395) -/

/-- A power event record (R394). -/
def powerRecord (tb before after power cause : Nat) : List Byte :=
  toBytes 8 tb ++ toBytes 2 before ++ toBytes 2 after ++ toBytes 4 power ++ toBytes 1 cause ++ List.replicate 15 0

/-- A record is appended to the power event ring (R394). -/
def State.powerEvent (s : State) (before after power cause : Nat) : State :=
  s.modMd fun m => { m with events := (powerRecord s.tb before after power cause :: m.events).take 256, eventCount := m.eventCount + 1 }

/-- The clock goes one step down, but not below 525 MHz, or up, and the step is recorded (R12, R394). -/
def State.clockDown (s : State) (power cause : Nat) : State :=
  if 15 ≤ s.clk then s else { s with clk := s.clk + 1 }.powerEvent s.clock (s.clock - 35) power cause
def State.clockUp (s : State) (power : Nat) : State :=
  if s.clk = 0 then s else { s with clk := s.clk - 1 }.powerEvent s.clock (s.clock + 35) power 2

/-- What a sample of power, in mW, and of the hottest sensor, in °C, does: a step down for the temperature, for the limit, or because
a limit was written below the power, until the power falls below it; a step up after 1 ms below 95 %; from 115 °C on the rails go off
(R12, R394, R395). -/
def State.sampled (s : State) (power temp : Nat) : State :=
  let limit := s.md.plim * 1000
  let since := if power * 100 < 95 * limit then some (s.md.lowSince.getD s.tb) else none
  let lowered := s.md.lowered && limit ≤ power
  let off := s.md.trip
  let s := s.modMd fun m => { m with power := power, lowSince := since, lowered := lowered, trip := m.trip || 115 ≤ temp }
  if off then s
  else if 105 ≤ temp then s.clockDown power 3
  else if lowered then s.clockDown power 4
  else if limit < power then s.clockDown power 1
  else match since with
    | some t => if t + recoverTicks ≤ s.tb then s.clockUp power else s
    | none => s

/-- R394: POWER_SAMPLE: the next sample follows 10 µs later; what the sensors read is free. -/
def execPowerSample (s : State) : Res :=
  let s' := (s.sampled (s.freeN 0 % 2 ^ 32) (s.freeN 1)).renew
  .next (s'.postAt (s'.cycleOf (s'.tb + sampleTicks)) 0 .powerSample {})

/-- R384, R394: PLIM_WRITE: a limit of 800 to 2,000 W is taken, any other value is ignored; one below the present power lowers the
clock by a step, and again at the samples that follow. -/
def execPlimWrite (s : State) : Res :=
  let v := s.ev.w.toNat
  let low := decide (v * 1000 < s.md.power)
  let s' := s.modMd fun m => { m with plim := v, lowered := low }
  .next (if v < 800 ∨ 2000 < v then s else if low && !s.md.trip then s'.clockDown s.md.power 4 else s')

/-! ### Start-up (R396 to R398) -/

/-- The firmware images of a slot of the non-volatile store (R396, R398). -/
def Module.firmware (m : Module) (slot : Nat) : List Image := SMap.get [{}] m.images slot

/-- The fields of a boot-record entry (R397). -/
def bootState (e : Nat) : Nat := bitsOf e 0 3
def bootAlt (e : Nat) : Bool := bitsOf e 3 1 == 1
def bootPin (e : Nat) : Bool := bitsOf e 4 1 == 1
def bootPm (e : Nat) : Bool := bitsOf e 5 1 == 1
def skippable (k : Nat) : Bool := 7 ≤ k && k ≤ 10

/-- How a step is to be done: primary, alternate or not at all, by the previous start's entry (R397). -/
inductive Method where
  | primary | alternate | skip
  deriving DecidableEq, Repr

def methodOf (k e : Nat) : Method :=
  if k = 12 then .primary
  else if bootPin e then (if bootPm e then .alternate else .primary)
  else if bootState e = 1 ∨ bootState e = 3 then
    if !bootAlt e then .alternate else if skippable k then .skip else .primary
  else .primary

def Module.entry (m : Module) (k : Nat) : Nat := SMap.get 0 m.boot k
def Module.setEntry (m : Module) (k e : Nat) : Module := { m with boot := SMap.set 0 m.boot k (e % 2 ^ 64) }

/-- The entry as a step begins: running, by a method, one try more (R397). -/
def beginEntry (e : Nat) (alt : Bool) : Nat :=
  putBits (putBits (putBits e 0 3 1) 3 1 (b2n alt)) 8 8 (Nat.min 255 (bitsOf e 8 8 + 1))
/-- The entry as a step ends (R397). -/
def endEntry (e state code : Nat) : Nat := putBits (putBits e 0 3 state) 16 16 code

/-- The start goes on with a step after a free time. -/
def State.nextStep (s : State) (k phase : Nat) : State := (s.postAt (s.now + 1 + s.freeN 0) 0 .startUp ⟨k, phase, 0, 0, []⟩).renew

/-- The start fails: DSTAT.SF, and a cold reset 10 s later (R396). -/
def State.startFails' (s : State) : State :=
  (s.modMd fun m => { m with failed := true }).postAt (s.cycleOf (s.tb + failTicks)) 0 .startFailedReset {}

/-- The firmware images of a slot verify: every signature is good under the fused root key, and no security version is below the
fused minimum (R398). -/
def Module.verifies (m : Module) (slot : Nat) : Bool :=
  (m.firmware slot).all fun i => Config.signed m.rootKey i.bytes && m.minVersion ≤ i.version

/-- What a step must find to succeed: images that verify (2), all lanes of every port where its method is the primary one (10) (R396,
R398). -/
def State.canDo (s : State) (k : Nat) (alt : Bool) : Bool :=
  match k with
  | 2 => s.md.verifies (b2n alt)
  | 10 => alt || (List.range 16).all fun p => (s.port p).failed == 0
  | _ => true

/-- What a step that succeeded leaves: the image slot that runs (2), repaired positions out of their tables (7), ports trained (10),
the module ready (12) (R388, R392, R396, R398). -/
def State.stepDone (s : State) (k : Nat) (alt : Bool) : State :=
  match k with
  | 7 => if alt then s else s.modMd fun m => { m with repair := [] }
  | 2 => s.modMd fun m => { m with slot := b2n alt }
  | 10 => (List.range 16).foldl (fun s p =>
      let v := s.port p
      let w := widthFor v.failed
      s.setPort p (if w.1 = 0 then v.goDown else { v with width := w.1, lane := w.2, training := false, down := false })) s
  | 12 => s.modMd fun m => { m with ready := true, warm := false }
  | _ => s

/-- The module as a start begins: the domain has assigned its number, and the boot record's options have chosen the mode of the
links; a warm start keeps its number (R5, R376, R384). -/
def State.begun (s : State) : State :=
  let s := if s.md.warm then s else { s with did := Config.device s.md.starts % 320 }
  s.modMd fun m => { m with starts := m.starts + 1, bonded := Config.bonded m.options }

/-- A step that a warm start leaves as it is: the links stay trained (R384). -/
def Module.keepsLinks (m : Module) (k : Nat) : Bool := m.warm && 8 ≤ k && k ≤ 10 && bootState (m.entry k) == 2

/-- A host link came up in this start (R396). -/
def Module.linkUp (m : Module) : Bool := bootState (m.entry 8) == 2 || bootState (m.entry 9) == 2

/-- After a step: the next one, unless no link is up after step 9, or the last is done (R396). -/
def State.afterStep (s : State) (k : Nat) : State :=
  if k = 9 ∧ !s.md.linkUp then s.startFails' else if 12 ≤ k then s else s.nextStep (k + 1) 0

/-- R396, R397: START_UP: a step, 1 where none is named, as it begins (phase 0) or ends (phase 1); whether a step
that can be done succeeds, and the code of a failure, are free. -/
def State.startStep (s : State) (k phase : Nat) : State :=
  let e := s.md.entry k
  if phase = 0 then
    let s := s.modMd fun m => { m with step := k, ready := false }
    let s := if k = 1 then s.begun.postAt (s.cycleOf (s.tb + sampleTicks)) 0 .powerSample {} else s
    if s.md.keepsLinks k then s.afterStep k
    else match methodOf k e with
    | .skip => (s.modMd fun m => m.setEntry k (putBits e 0 3 4)).afterStep k
    | .primary => (s.modMd fun m => m.setEntry k (beginEntry e false)).nextStep k 1
    | .alternate => (s.modMd fun m => m.setEntry k (beginEntry e true)).nextStep k 1
  else
    let s' := s.renew
    if s.freeB 1 && s.canDo k (bootAlt e) then ((s'.modMd fun m => m.setEntry k (endEntry e 2 0)).stepDone k (bootAlt e)).afterStep k
    else
      let s := s'.modMd fun m => m.setEntry k (endEntry e 3 (s.freeN 2 % 2 ^ 16))
      if skippable k then s.afterStep k else s.startFails'

def execStartUp (s : State) : Res := .next (s.startStep (if s.ev.a = 0 then 1 else s.ev.a) s.ev.b)

/-- The module right after a reset, its boot record kept; `m` says what else of the module beyond the cores stays. -/
def State.restarted (s : State) (m : Module) : State :=
  { State.reset with
    now := s.now, fresh := s.fresh, nextId := s.nextId, inputs := s.inputs, md := m, cal := [⟨s.now + 1, 0, .startUp, {}⟩] }

/-- What every reset keeps: the boot record, the store of images, the fuses, the lanes that have failed, the result of the last tenant
change, and what has already left (R388, R397 to R399). -/
def Module.afterReset (m : Module) : Module :=
  { images := m.images, rootKey := m.rootKey, minVersion := m.minVersion, tenantSts := m.tenantSts, tenantErrs := m.tenantErrs
    tenantTest := m.tenantTest, starts := m.starts, options := m.options, boot := m.boot, third := m.third, repair := m.repair
    ports := SMap.mapVals m.ports fun v => { failed := v.failed }, toHost := m.toHost, toPorts := m.toPorts }

/-- R384: COLD_RESET. -/
def execColdReset (s : State) : Res := .next (s.restarted s.md.afterReset)

/-- A port goes on after a warm reset: it trains to the end, or replays what is not acknowledged (R384, R387, R388). -/
def State.portGoesOn (s : State) (p : Nat) : State :=
  let v := s.port p
  if v.training then (s.postAt (s.cycleOf (s.tb + 1 + s.freeN 0 % trainTicks)) 0 .portRetrainDone ⟨p, 0, 0, 0, []⟩).renew
  else if v.sent.isEmpty then s
  else (s.setPort p { v with since := s.tb }).postAt (s.cycleOf (s.tb + replayTicks)) 0 .replayTimeout ⟨p, 0, 0, 0, []⟩

/-- R384: WARM_RESET: the links stay trained, and the device keeps its number; no effect once the rails are off (R395). -/
def execWarmReset (s : State) : Res :=
  .next (if s.md.trip then s
    else
      let t := s.restarted { s.md.afterReset with ports := s.md.ports, warm := true }
      (s.md.ports.map (·.1)).foldl State.portGoesOn { t with did := s.did })

/-- R396: START_FAILED_RESET. -/
def execStartFailedReset (s : State) : Res := .next (if s.md.failed then s.restarted s.md.afterReset else s)

/-- R397: BOOT_RECORD_PIN_WRITE, for a step, PIN and PM. -/
def execBootRecordPinWrite (s : State) : Res :=
  let k := s.ev.a
  .next (if 1 ≤ k ∧ k ≤ 12 then
    s.modMd fun m => m.setEntry k (putBits (putBits (m.entry k) 4 1 (s.ev.b % 2)) 5 1 (s.ev.c % 2)) else s)

/-! ### Attestation and tenants (R399, R400) -/

/-- The SHAKE256 digests of the running firmware images, 64 bytes each (R399). -/
def Module.digests (m : Module) : List Byte :=
  (m.firmware m.slot).flatMap fun i => (List.range 64).map (Config.digestByte i.bytes)

/-- The quote over a nonce (R399). -/
def State.quote (s : State) (nonce : List Byte) : List Byte :=
  let m := s.md
  let body := nonce ++ m.digests ++ m.bootRecord ++ toBytes 8 m.starts ++ toBytes 8 s.tb
    ++ toBytes 4 m.tenantSts ++ toBytes 4 m.tenantErrs ++ toBytes 8 m.tenantTest
  body ++ (List.range 49856).map (Config.signatureByte body)

/-- Bytes written into the attestation mailbox, 1 MiB (R384). -/
def mailbox (box : List Byte) (off : Nat) (bs : List Byte) : List Byte :=
  (box.take off ++ List.replicate (off - box.length) 0 ++ bs ++ box.drop (off + bs.length)).take 0x100000

/-- R384, R399: QUOTE_REQUEST, or a write into the mailbox that requests none, at an offset: a nonce of 32 bytes stands in the
mailbox, and the quote follows within 500 ms. -/
def State.quoteRequest (s : State) (plain written off : Nat) (nonce : List Byte) : State :=
  if written = 1 then s.modMd fun m => { m with attest := mailbox m.attest 0 (s.quote nonce) }
  else if plain = 1 then s.modMd fun m => { m with attest := mailbox m.attest off nonce }
  else if nonce.length ≠ 32 then s
  else ((s.modMd fun m => { m with attest := mailbox m.attest 0 nonce }).postAt (s.cycleOf (s.tb + 1 + s.freeN 0 % quoteTicks)) 0 .quoteRequest
    ⟨0, 0, 1, 0, nonce⟩).renew

def execQuoteRequest (s : State) : Res := .next (s.quoteRequest s.ev.b s.ev.c s.ev.w.toNat s.ev.data)

/-- The next stage of a tenant change. -/
def State.tenantNext (s : State) (stage : Nat) : State := (s.postAt (s.now + 1 + s.freeN 0) 0 .tenantChange ⟨stage, 0, 0, 1, []⟩).renew

/-- Every gang that is not being killed yet is killed (R344, R400). -/
def State.killAll (s : State) : State :=
  s.gangs.foldl (fun s e => if e.2.fail then s else s.postAt s.now 0 .kill ⟨e.1, 0, 0, 0, []⟩) s

/-- R400: the stages of a tenant change: kills, of a gang that a start still on its way places too, and releases (no start that
waits is left), the scrub, the host's regions, the firmware, the health test, the quote; a firmware check whose images verify and the
health test end as they may. -/
def State.tenantStage (s : State) (stage : Nat) : State :=
  match stage with
  | 0 =>
    let s := s.modMd fun m => { m with ready := false, tenant := true }
    s.killAll.tenantNext 1
  | 1 =>
    let s := { s with sched := s.sched.filter fun (e : Nat × SchedReq) => e.2.stage != SchedStage.waiting }
    if s.gangs.isEmpty then (s.units.foldl (fun s e => s.freeUnit e.1) s).tenantNext 2
    else s.killAll.postAt (s.now + 1) 0 .tenantChange ⟨1, 0, 0, 1, []⟩
  | 2 =>
    let errs := s.freeN 1 % 65536
    let s := s.scrubDevice
    (s.modMd fun m => { m with tenantSts := 0, tenantErrs := errs }).tenantNext 3
  | 3 =>
    let inRegion (a : Nat) : Bool := (List.range 256).any fun p => Config.hostRegion p ≤ a && a < Config.hostRegion p + 0x80000
    ((s.zeroBytes inRegion).modMd fun m => { m with notify := [], grants := [], bindings := [] }).tenantNext 4
  | 4 => if s.freeB 1 && s.md.verifies s.md.slot then s.renew.tenantNext 5 else s.renew.modMd fun m => { m with failed := true }
  | 5 =>
    let s' := s.renew.modMd fun m => { m with tenantTest := b2n (s.freeB 1) }
    if s.freeB 1 then s'.tenantNext 6 else s'.modMd fun m => { m with failed := true }
  | _ => s.modMd fun m => { m with ready := true, tenant := false }

/-- R400: TENANT_CHANGE, for a stage and the value written: only 1 starts one, and none starts while one runs or the module has
failed. -/
def execTenantChange (s : State) : Res :=
  .next (if s.ev.w ≠ 1 ∨ (s.ev.a = 0 ∧ (s.md.tenant ∨ s.md.failed)) then s else s.tenantStage s.ev.a)

end Sys2Proof.Machine
end

