-- ==== Sys2Proof/Machine/Yield.lean ====
section
/-! DEFINITION. Which contexts of a core are ready, by the words they would issue, and yield (R18, R370). -/
namespace Sys2Proof.Machine

/-- A local access of the current context of `w` bytes is held back: by an earlier one, by the octant network, or, where it
writes, by the guard of a matrix entry (R116, R192). -/
def State.localHeld (s : State) (addr w : Nat) (write : Bool) : Bool :=
  match s.target s.cc addr w w with
  | .error _ => false
  | .ok (c, a) => !s.localFree c || (write && s.guarded c a w)

/-- The same for the rows of an accumulator that mrd writes or mwr reads, of elements of `e` bytes (R201). -/
def State.rowsHeld (s : State) (addr e n : Nat) (write : Bool) : Bool :=
  match s.target s.cc addr e (32 * n * e) with
  | .error _ => false
  | .ok (c, a) => !s.localFree c || (write && s.guarded c a (32 * n * e))

/-- An atomic of the current context is held back: on a local store, as a local write; else while ldc is full (R129, R142). -/
def State.atomicHeld (s : State) (card : Bool) (a : Opnd) (l : BitVec 1) : Bool :=
  if l = 1 then s.localHeld (s.opn a) ((atomFmt card s.cur.pfx).w / 8) true else !s.ldRoom

/-- An interlock or a full queue holds back a word of the current context: the conditions under which the meaning of the word
does not let it issue (R18, R75). -/
def State.heldWord (s : State) (i : Instr) : Bool :=
  let w := (memFmt s.cur.pfx).w / 8
  match i with
  | .div .. | .divc .. | .rem .. | .remc .. => s.now < s.curCore.divAt
  | .fdiv .. | .fsqrt .. => !s.rootFree
  | .ld _ _ b o => s.localHeld (s.offAddr b o) w false
  | .st _ _ b o => s.localHeld (s.offAddr b o) w true
  | .ldx _ _ a b => s.localHeld (s.idxAddr a b) w false
  | .stx _ _ a b => s.localHeld (s.idxAddr a b) w true
  | .lsr .. => !s.localFree s.cc
  | .waitc _ n k => s.opn n < s.cur.counter k.toNat
  | .ldg .. | .ldgx .. | .ldgAcq .. | .barm .. | .kprobe .. | .kins .. | .kups .. | .krem .. | .knew .. | .kdel .. | .kpub ..
  | .kcfg .. | .kstat .. | .facq .. | .cclr .. | .cdec .. | .cback .. | .cprop .. | .ctrail .. | .cval .. | .cconf .. | .wrd ..
  | .halt .. => !s.ldRoom
  | .kiter _ _ _ b => !s.ldRoom || s.localWaits (s.opn b)
  | .cwr _ _ _ b | .clrn _ _ _ b => !s.ldRoom || s.localWaits (fld (s.opnd b) 0 24)
  | .stg .. | .stgRel .. | .wbk .. | .red .. | .wres .. => !s.stRoom
  | .wwr _ _ a b =>
    !s.stRoom || (match s.windowTarget (s.opnd a) windowNeed (s.opn b) with
      | .error _ => false
      | .ok (c, _) => 0x100000 ≤ s.opn b && s.guarded c (s.opn b - 0x100000) 8)
  | .aadd _ _ a _ _ l | .aand _ _ a _ _ l | .aor _ _ a _ _ l | .axor _ _ a _ _ l | .amin _ _ a _ _ l | .amax _ _ a _ _ l
  | .aswp _ _ a _ _ l | .acas _ _ a _ _ l => s.atomicHeld false a l
  | .aincw _ _ a _ _ l | .abadd _ _ a _ _ l => s.atomicHeld true a l
  | .vadd .. | .vsub .. | .vmul .. | .vfma .. | .vmin .. | .vmax .. | .vabs .. | .vneg .. | .vand .. | .vor .. | .vxor .. | .vshl ..
  | .vshr .. | .vsar .. | .vcmp .. | .vsel .. | .vcvt .. | .vperm .. | .vbcast .. | .vred .. | .vscan .. | .vld .. | .vst ..
  | .vldx .. | .vstx .. | .vidx .. | .vrcp .. | .vrsqrt .. | .vexp2 .. | .vdot4 .. | .vmovsWrite .. | .vmovsRead .. => !s.vroom
  | .mma _ _ a _ _ p _ => !s.mroom false (p == 1) (s.opn a)
  | .mmr _ _ a _ _ => !s.mroom true false (s.opn a)
  | .mtile _ d _ _ _ => s.localWaits (s.opn d)
  | .mzero _ c p => !s.accFree c.toNat (p == 1)
  | .mrd _ d r c p =>
    let fd := s.cur.pfx.fd
    let e := if fd = 9 ∨ fd = 10 then 2 else if p = 1 ∧ fd = 4 then 8 else 4
    !s.accFree c.toNat (p == 1) || s.rowsHeld (s.opn d) e (rowsOf (s.opnd r)).length true
  | .mwr _ d r c p =>
    !s.accFree c.toNat (p == 1) || s.rowsHeld (s.opn d) (if p = 1 then 8 else 4) (rowsOf (s.opnd r)).length false
  | .mcommit .. => !s.commitFree
  | .fpush _ _ a _ => s.localWaits (s.opn a)
  | .pland _ _ a _ =>
    !s.localFree s.cc || (match s.ownPlace (s.opn a) with | some o => s.guarded s.cc o 64 | none => false)
  | .syncC .. | .syncX .. => !(s.cur.workDone && s.localDone)
  | .xmit _ b o => s.localWaits (s.opnd b + 8 * sext10 o).toNat
  | .xsel _ b k o => s.localHeld (s.opnd b + 8 * o.signExtend 64).toNat 8 true || (SMap.get [] s.curCore.ex.queues k.toNat).isEmpty
  | .fans .. | .frel .. | .frecall .. | .gen .. | .tlbi .. | .scrub .. => !s.cur.drained
  | .launch .. | .gdone .. => !s.cur.settled
  | .schsel _ _ a _ => s.localWaits (s.opn a)
  | .hstart .. => !s.localMade
  | .hexit _ => !(s.cur.workDone && s.localMade)
  | .hjoin _ a =>
    let t := s.curCore.ctx (s.opn a)
    1 ≤ s.opn a && s.opn a ≤ 10 && t.status != .free && (t.status != .ended || s.now ≤ t.issuedAt)
  | .srr _ _ n => n == 0 && !s.cur.fixedArrived
  | _ => false

/-- The next expansion of an mtile of the current context is held back (R200). -/
def State.heldTile (s : State) : Bool :=
  match s.cur.wait with
  | .tile a _ pl _ _ words =>
    let d := TileDesc.ofNat words
    (match s.target s.cc a 32 32 with
      | .error _ => false
      | .ok (c, o) => !s.mroom false pl (tileAddr d.a0 ((d.done / d.na : Nat) * d.aks)) || s.guarded c (o + 22) 2)
  | _ => true

/-- A context is ready: neither its stall count nor a wait holds back its next word, and no interlock or full queue does; a word
whose fetch misses is held by nothing of these (R18). -/
def State.isReady (s : State) (c x : Nat) : Bool :=
  let t := s.ctxAt c x
  if t.expanding s.now then !({ s with cc := c, cx := x } : State).heldTile
  else t.couldIssue s.now && (match s.contextTurn c x with
    | .run i s' => !s'.heldWord i
    | .pass _ => true)

/-- R370: yield: the context waits until each other context of its core that is ready in this cycle has issued, at most 11
cycles. -/
def execYield (S : Stall) (s : State) : Res :=
  s.issue {} fun s =>
    let others := (s.curCore.ctxs.filter fun e => e.1 != s.cx && s.isReady s.cc e.1).map (·.1)
    (s.finish S).park (.others others (s.now + 11))

end Sys2Proof.Machine
end

