-- ==== Sys2Proof/Machine/Dispatch.lean ====
section
/-! DEFINITION. The dispatch of an instruction, word or event, to its meaning: one arm per constructor. -/
namespace Sys2Proof.Machine

def exec (i : Instr) (s : State) : Host.Outcome State Fault Refusal :=
  match i with
  | .add S d a b => Sys2Proof.Machine.execAdd S d a b s
  | .sub S d a b => Sys2Proof.Machine.execSub S d a b s
  | .and S d a b => Sys2Proof.Machine.execAnd S d a b s
  | .or S d a b => Sys2Proof.Machine.execOr S d a b s
  | .xor S d a b => Sys2Proof.Machine.execXor S d a b s
  | .andn S d a b => Sys2Proof.Machine.execAndn S d a b s
  | .shl S d a b => Sys2Proof.Machine.execShl S d a b s
  | .shr S d a b => Sys2Proof.Machine.execShr S d a b s
  | .sar S d a b => Sys2Proof.Machine.execSar S d a b s
  | .rot S d a b => Sys2Proof.Machine.execRot S d a b s
  | .min S d a b => Sys2Proof.Machine.execMin S d a b s
  | .minc S d a b => Sys2Proof.Machine.execMinc S d a b s
  | .max S d a b => Sys2Proof.Machine.execMax S d a b s
  | .maxc S d a b => Sys2Proof.Machine.execMaxc S d a b s
  | .sel S d a b => Sys2Proof.Machine.execSel S d a b s
  | .mul S d a b => Sys2Proof.Machine.execMul S d a b s
  | .mulh S d a b => Sys2Proof.Machine.execMulh S d a b s
  | .mulhc S d a b => Sys2Proof.Machine.execMulhc S d a b s
  | .div S d a b => Sys2Proof.Machine.execDiv S d a b s
  | .divc S d a b => Sys2Proof.Machine.execDivc S d a b s
  | .rem S d a b => Sys2Proof.Machine.execRem S d a b s
  | .remc S d a b => Sys2Proof.Machine.execRemc S d a b s
  | .clz S d a => Sys2Proof.Machine.execClz S d a s
  | .ctz S d a => Sys2Proof.Machine.execCtz S d a s
  | .popc S d a => Sys2Proof.Machine.execPopc S d a s
  | .bswap S d a => Sys2Proof.Machine.execBswap S d a s
  | .mov S d a => Sys2Proof.Machine.execMov S d a s
  | .cmp S d a b c => Sys2Proof.Machine.execCmp S d a b c s
  | .addi S d a imm => Sys2Proof.Machine.execAddi S d a imm s
  | .andi S d a imm => Sys2Proof.Machine.execAndi S d a imm s
  | .ori S d a imm => Sys2Proof.Machine.execOri S d a imm s
  | .xori S d a imm => Sys2Proof.Machine.execXori S d a imm s
  | .shli S d a imm => Sys2Proof.Machine.execShli S d a imm s
  | .shri S d a imm => Sys2Proof.Machine.execShri S d a imm s
  | .sari S d a imm => Sys2Proof.Machine.execSari S d a imm s
  | .li S d imm => Sys2Proof.Machine.execLi S d imm s
  | .lsh S d imm => Sys2Proof.Machine.execLsh S d imm s
  | .br S a c o => Sys2Proof.Machine.execBr S a c o s
  | .bcEq S a b o => Sys2Proof.Machine.execBcEq S a b o s
  | .bcNe S a b o => Sys2Proof.Machine.execBcNe S a b o s
  | .bcLt S a b o => Sys2Proof.Machine.execBcLt S a b o s
  | .bcLtc S a b o => Sys2Proof.Machine.execBcLtc S a b o s
  | .bcLe S a b o => Sys2Proof.Machine.execBcLe S a b o s
  | .bcLec S a b o => Sys2Proof.Machine.execBcLec S a b o s
  | .j S o => Sys2Proof.Machine.execJ S o s
  | .jal S o => Sys2Proof.Machine.execJal S o s
  | .jr S d a => Sys2Proof.Machine.execJr S d a s
  | .stall S imm => Sys2Proof.Machine.execStall S imm s
  | .fadd S d a b => Sys2Proof.Machine.execFadd S d a b s
  | .fsub S d a b => Sys2Proof.Machine.execFsub S d a b s
  | .fmul S d a b => Sys2Proof.Machine.execFmul S d a b s
  | .fdiv S d a b => Sys2Proof.Machine.execFdiv S d a b s
  | .fsqrt S d a => Sys2Proof.Machine.execFsqrt S d a s
  | .fmin S d a b => Sys2Proof.Machine.execFmin S d a b s
  | .fmax S d a b => Sys2Proof.Machine.execFmax S d a b s
  | .fneg S d a => Sys2Proof.Machine.execFneg S d a s
  | .fclass S d a => Sys2Proof.Machine.execFclass S d a s
  | .fma S d a b => Sys2Proof.Machine.execFma S d a b s
  | .fcmp S d a b c => Sys2Proof.Machine.execFcmp S d a b c s
  | .cvt S d a => Sys2Proof.Machine.execCvt S d a s
  | .bxenc S d a b => Sys2Proof.Machine.execBxenc S d a b s
  | .bxdec S d a b => Sys2Proof.Machine.execBxdec S d a b s
  | .bxexp S d a => Sys2Proof.Machine.execBxexp S d a s
  | .ld S d b o => Sys2Proof.Machine.execLd S d b o s
  | .st S v b o => Sys2Proof.Machine.execSt S v b o s
  | .ldx S d a b => Sys2Proof.Machine.execLdx S d a b s
  | .stx S v a b => Sys2Proof.Machine.execStx S v a b s
  | .ldg S d b o => Sys2Proof.Machine.execLdg S d b o s
  | .stg S v b o => Sys2Proof.Machine.execStg S v b o s
  | .ldgAcq S d a c => Sys2Proof.Machine.execLdgAcq S d a c s
  | .stgRel S v a c => Sys2Proof.Machine.execStgRel S v a c s
  | .lsr S b z n p => Sys2Proof.Machine.execLsr S b z n p s
  | .pref S a => Sys2Proof.Machine.execPref S a s
  | .waitc S n k => Sys2Proof.Machine.execWaitc S n k s
  | .waitv S v a => Sys2Proof.Machine.execWaitv S v a s
  | .wbk S a => Sys2Proof.Machine.execWbk S a s
  | .ldgx S d a b => Sys2Proof.Machine.execLdgx S d a b s
  | .aadd S d a o c l => Sys2Proof.Machine.execAadd S d a o c l s
  | .aand S d a o c l => Sys2Proof.Machine.execAand S d a o c l s
  | .aor S d a o c l => Sys2Proof.Machine.execAor S d a o c l s
  | .axor S d a o c l => Sys2Proof.Machine.execAxor S d a o c l s
  | .amin S d a o c l => Sys2Proof.Machine.execAmin S d a o c l s
  | .amax S d a o c l => Sys2Proof.Machine.execAmax S d a o c l s
  | .aswp S d a o c l => Sys2Proof.Machine.execAswp S d a o c l s
  | .acas S d a o c l => Sys2Proof.Machine.execAcas S d a o c l s
  | .aincw S d a o c l => Sys2Proof.Machine.execAincw S d a o c l s
  | .abadd S d a o c l => Sys2Proof.Machine.execAbadd S d a o c l s
  | .red S d a x o c => Sys2Proof.Machine.execRed S d a x o c s
  | .barm S d a => Sys2Proof.Machine.execBarm S d a s
  | .bwait S d a p => Sys2Proof.Machine.execBwait S d a p s
  | .vadd S d a b k => Sys2Proof.Machine.execVadd S d a b k s
  | .vsub S d a b k => Sys2Proof.Machine.execVsub S d a b k s
  | .vmul S d a b k => Sys2Proof.Machine.execVmul S d a b k s
  | .vfma S d a b k => Sys2Proof.Machine.execVfma S d a b k s
  | .vmin S d a b k => Sys2Proof.Machine.execVmin S d a b k s
  | .vmax S d a b k => Sys2Proof.Machine.execVmax S d a b k s
  | .vabs S d a => Sys2Proof.Machine.execVabs S d a s
  | .vneg S d a => Sys2Proof.Machine.execVneg S d a s
  | .vand S d a b k => Sys2Proof.Machine.execVand S d a b k s
  | .vor S d a b k => Sys2Proof.Machine.execVor S d a b k s
  | .vxor S d a b k => Sys2Proof.Machine.execVxor S d a b k s
  | .vshl S d a b k => Sys2Proof.Machine.execVshl S d a b k s
  | .vshr S d a b k => Sys2Proof.Machine.execVshr S d a b k s
  | .vsar S d a b k => Sys2Proof.Machine.execVsar S d a b k s
  | .vcmp S d a b k m => Sys2Proof.Machine.execVcmp S d a b k m s
  | .vsel S d a b k => Sys2Proof.Machine.execVsel S d a b k s
  | .vcvt S d a => Sys2Proof.Machine.execVcvt S d a s
  | .vperm S d a b k => Sys2Proof.Machine.execVperm S d a b k s
  | .vbcast S d b => Sys2Proof.Machine.execVbcast S d b s
  | .vred S d a b m => Sys2Proof.Machine.execVred S d a b m s
  | .vscan S d a b m => Sys2Proof.Machine.execVscan S d a b m s
  | .vld S d a b k m => Sys2Proof.Machine.execVld S d a b k m s
  | .vst S d a b k m => Sys2Proof.Machine.execVst S d a b k m s
  | .vldx S d a b => Sys2Proof.Machine.execVldx S d a b s
  | .vstx S d a b => Sys2Proof.Machine.execVstx S d a b s
  | .vidx S a b k m => Sys2Proof.Machine.execVidx S a b k m s
  | .vsetvl S d a => Sys2Proof.Machine.execVsetvl S d a s
  | .vmovsWrite S d a b => Sys2Proof.Machine.execVmovsWrite S d a b s
  | .vmovsRead S d a b => Sys2Proof.Machine.execVmovsRead S d a b s
  | .vrcp S d a => Sys2Proof.Machine.execVrcp S d a s
  | .vrsqrt S d a => Sys2Proof.Machine.execVrsqrt S d a s
  | .vexp2 S d a => Sys2Proof.Machine.execVexp2 S d a s
  | .vdot4 S d a b => Sys2Proof.Machine.execVdot4 S d a b s
  | .mma S c a b x p m => Sys2Proof.Machine.execMma S c a b x p m s
  | .mmr S c a b x => Sys2Proof.Machine.execMmr S c a b x s
  | .mtile S d x p m => Sys2Proof.Machine.execMtile S d x p m s
  | .mtileExpansion => Sys2Proof.Machine.execMtileExpansion s
  | .mzero S c p => Sys2Proof.Machine.execMzero S c p s
  | .mrd S d r c p => Sys2Proof.Machine.execMrd S d r c p s
  | .mwr S d r c p => Sys2Proof.Machine.execMwr S d r c p s
  | .msk S a => Sys2Proof.Machine.execMsk S a s
  | .mcommit S d => Sys2Proof.Machine.execMcommit S d s
  | .mwaitb S a => Sys2Proof.Machine.execMwaitb S a s
  | .mstat S d a => Sys2Proof.Machine.execMstat S d a s
  | .kprobe S d a e => Sys2Proof.Machine.execKprobe S d a e s
  | .kins S d a e => Sys2Proof.Machine.execKins S d a e s
  | .kups S d a e => Sys2Proof.Machine.execKups S d a e s
  | .krem S d a e => Sys2Proof.Machine.execKrem S d a e s
  | .knew S d a b => Sys2Proof.Machine.execKnew S d a b s
  | .kdel S d a => Sys2Proof.Machine.execKdel S d a s
  | .kpub S d a b => Sys2Proof.Machine.execKpub S d a b s
  | .kcfg S d a b => Sys2Proof.Machine.execKcfg S d a b s
  | .kiter S d a b => Sys2Proof.Machine.execKiter S d a b s
  | .kstat S d a b => Sys2Proof.Machine.execKstat S d a b s
  | .fpush S d a f => Sys2Proof.Machine.execFpush S d a f s
  | .fpop S d f => Sys2Proof.Machine.execFpop S d f s
  | .fpeek S d f => Sys2Proof.Machine.execFpeek S d f s
  | .fstat S d f => Sys2Proof.Machine.execFstat S d f s
  | .pland S d a l => Sys2Proof.Machine.execPland S d a l s
  | .pcnt S d l => Sys2Proof.Machine.execPcnt S d l s
  | .pwait S d a l => Sys2Proof.Machine.execPwait S d a l s
  | .pcancel S d l => Sys2Proof.Machine.execPcancel S d l s
  | .syncC S d a c => Sys2Proof.Machine.execSyncC S d a c s
  | .syncX S d c => Sys2Proof.Machine.execSyncX S d c s
  | .xmit S b o => Sys2Proof.Machine.execXmit S b o s
  | .xsel S b k o => Sys2Proof.Machine.execXsel S b k o s
  | .ssrd S d a => Sys2Proof.Machine.execSsrd S d a s
  | .ulog S d a o => Sys2Proof.Machine.execUlog S d a o s
  | .facq S d a c k => Sys2Proof.Machine.execFacq S d a c k s
  | .fsur S d a => Sys2Proof.Machine.execFsur S d a s
  | .fans S n => Sys2Proof.Machine.execFans S n s
  | .frel S d a => Sys2Proof.Machine.execFrel S d a s
  | .frecall S d a => Sys2Proof.Machine.execFrecall S d a s
  | .cwr S d a b => Sys2Proof.Machine.execCwr S d a b s
  | .cclr S d a b => Sys2Proof.Machine.execCclr S d a b s
  | .clrn S d a b => Sys2Proof.Machine.execClrn S d a b s
  | .cdec S d a b => Sys2Proof.Machine.execCdec S d a b s
  | .cback S d a b => Sys2Proof.Machine.execCback S d a b s
  | .cprop S d a b => Sys2Proof.Machine.execCprop S d a b s
  | .ctrail S d a b => Sys2Proof.Machine.execCtrail S d a b s
  | .cval S d a b => Sys2Proof.Machine.execCval S d a b s
  | .cconf S d a b => Sys2Proof.Machine.execCconf S d a b s
  | .launch S d a => Sys2Proof.Machine.execLaunch S d a s
  | .hstart S d a o => Sys2Proof.Machine.execHstart S d a o s
  | .hexit S => Sys2Proof.Machine.execHexit S s
  | .hjoin S a => Sys2Proof.Machine.execHjoin S a s
  | .gdone S d a m => Sys2Proof.Machine.execGdone S d a m s
  | .schsel S d a b => Sys2Proof.Machine.execSchsel S d a b s
  | .trap S n => Sys2Proof.Machine.execTrap S n s
  | .eret S => Sys2Proof.Machine.execEret S s
  | .halt S d a => Sys2Proof.Machine.execHalt S d a s
  | .yield S => Sys2Proof.Machine.execYield S s
  | .srr S d n => Sys2Proof.Machine.execSrr S d n s
  | .srw S v n => Sys2Proof.Machine.execSrw S v n s
  | .wrd S d a b => Sys2Proof.Machine.execWrd S d a b s
  | .wwr S v a b => Sys2Proof.Machine.execWwr S v a b s
  | .wres S d a b => Sys2Proof.Machine.execWres S d a b s
  | .gen S d a => Sys2Proof.Machine.execGen S d a s
  | .tlbi S d a b => Sys2Proof.Machine.execTlbi S d a b s
  | .scrub S d a => Sys2Proof.Machine.execScrub S d a s
  | .rpt S m c t p => Sys2Proof.Machine.execRpt S m c t p s
  | .pfx S a b d r => Sys2Proof.Machine.execPfx S a b d r s
  | .illegalWordHalt => Sys2Proof.Machine.execIllegalWordHalt s
  | .fetchFault => Sys2Proof.Machine.execFetchFault s
  | .inOrderCheck => Sys2Proof.Machine.execInOrderCheck s
  | .resultArrival => Sys2Proof.Machine.execResultArrival s
  | .storeAcknowledgement => Sys2Proof.Machine.execStoreAcknowledgement s
  | .trapEntry => Sys2Proof.Machine.execTrapEntry s
  | .interrupt => Sys2Proof.Machine.execInterrupt s
  | .timerCompare => Sys2Proof.Machine.execTimerCompare s
  | .tcmpWrite => Sys2Proof.Machine.execTcmpWrite s
  | .ipendWrite => Sys2Proof.Machine.execIpendWrite s
  | .translationWalk => Sys2Proof.Machine.execTranslationWalk s
  | .globalAccessAtSlice => Sys2Proof.Machine.execGlobalAccessAtSlice s
  | .releaseDepart => Sys2Proof.Machine.execReleaseDepart s
  | .watchArrival => Sys2Proof.Machine.execWatchArrival s
  | .atomicAtSlice => Sys2Proof.Machine.execAtomicAtSlice s
  | .reductionAtSlice => Sys2Proof.Machine.execReductionAtSlice s
  | .barrierArrival => Sys2Proof.Machine.execBarrierArrival s
  | .vectorEntryBegin => Sys2Proof.Machine.execVectorEntryBegin s
  | .gatheringPointBegin => Sys2Proof.Machine.execGatheringPointBegin s
  | .vectorEntryRetire => Sys2Proof.Machine.execVectorEntryRetire s
  | .matrixEntryBegin => Sys2Proof.Machine.execMatrixEntryBegin s
  | .matrixEntryCompletion => Sys2Proof.Machine.execMatrixEntryCompletion s
  | .keyedOperationAccept => Sys2Proof.Machine.execKeyedOperationAccept s
  | .combiningBufferWrite => Sys2Proof.Machine.execCombiningBufferWrite s
  | .splitStep => Sys2Proof.Machine.execSplitStep s
  | .facetMigration => Sys2Proof.Machine.execFacetMigration s
  | .mapUnitSurrender => Sys2Proof.Machine.execMapUnitSurrender s
  | .copy => Sys2Proof.Machine.execCopy s
  | .copyl => Sys2Proof.Machine.execCopyl s
  | .gather => Sys2Proof.Machine.execGather s
  | .gpre => Sys2Proof.Machine.execGpre s
  | .hotset => Sys2Proof.Machine.execHotset s
  | .codecCompress => Sys2Proof.Machine.execCodecCompress s
  | .codecExpand => Sys2Proof.Machine.execCodecExpand s
  | .codecBlockEncode => Sys2Proof.Machine.execCodecBlockEncode s
  | .codecBlockDecode => Sys2Proof.Machine.execCodecBlockDecode s
  | .pbcast => Sys2Proof.Machine.execPbcast s
  | .pgather => Sys2Proof.Machine.execPgather s
  | .prscat => Sys2Proof.Machine.execPrscat s
  | .prelay => Sys2Proof.Machine.execPrelay s
  | .commandCompletion => Sys2Proof.Machine.execCommandCompletion s
  | .engineBlockSurrender => Sys2Proof.Machine.execEngineBlockSurrender s
  | .sectionArrival => Sys2Proof.Machine.execSectionArrival s
  | .prscatChunkArrival => Sys2Proof.Machine.execPrscatChunkArrival s
  | .cancelAtRouter => Sys2Proof.Machine.execCancelAtRouter s
  | .syncCRelease => Sys2Proof.Machine.execSyncCRelease s
  | .syncXRelease => Sys2Proof.Machine.execSyncXRelease s
  | .exchangeWordArrival => Sys2Proof.Machine.execExchangeWordArrival s
  | .exchangeTimeout => Sys2Proof.Machine.execExchangeTimeout s
  | .uncorrectableError => Sys2Proof.Machine.execUncorrectableError s
  | .rollback => Sys2Proof.Machine.execRollback s
  | .viralEntry => Sys2Proof.Machine.execViralEntry s
  | .arbitration => Sys2Proof.Machine.execArbitration s
  | .routineEntry => Sys2Proof.Machine.execRoutineEntry s
  | .routineOverrun => Sys2Proof.Machine.execRoutineOverrun s
  | .finishDeadline => Sys2Proof.Machine.execFinishDeadline s
  | .clauseOperationAtArray => Sys2Proof.Machine.execClauseOperationAtArray s
  | .gangStart => Sys2Proof.Machine.execGangStart s
  | .switchOut => Sys2Proof.Machine.execSwitchOut s
  | .preemptionStamp => Sys2Proof.Machine.execPreemptionStamp s
  | .resume => Sys2Proof.Machine.execResume s
  | .kill => Sys2Proof.Machine.execKill s
  | .gangCompletion => Sys2Proof.Machine.execGangCompletion s
  | .cycleBudgetExpiry => Sys2Proof.Machine.execCycleBudgetExpiry s
  | .debugHaltLanding => Sys2Proof.Machine.execDebugHaltLanding s
  | .ipost => Sys2Proof.Machine.execIpost s
  | .traceStart => Sys2Proof.Machine.execTraceStart s
  | .traceArm => Sys2Proof.Machine.execTraceArm s
  | .traceStamp => Sys2Proof.Machine.execTraceStamp s
  | .traceStop => Sys2Proof.Machine.execTraceStop s
  | .traceEnd => Sys2Proof.Machine.execTraceEnd s
  | .injectScalar => Sys2Proof.Machine.execInjectScalar s
  | .injectVector => Sys2Proof.Machine.execInjectVector s
  | .injectMatrix => Sys2Proof.Machine.execInjectMatrix s
  | .hostMemoryAccess => Sys2Proof.Machine.execHostMemoryAccess s
  | .hostCommand => Sys2Proof.Machine.execHostCommand s
  | .warmReset => Sys2Proof.Machine.execWarmReset s
  | .coldReset => Sys2Proof.Machine.execColdReset s
  | .plimWrite => Sys2Proof.Machine.execPlimWrite s
  | .tenantChange => Sys2Proof.Machine.execTenantChange s
  | .notifyRegister => Sys2Proof.Machine.execNotifyRegister s
  | .quoteRequest => Sys2Proof.Machine.execQuoteRequest s
  | .flitReceive => Sys2Proof.Machine.execFlitReceive s
  | .replayTimeout => Sys2Proof.Machine.execReplayTimeout s
  | .laneFailure => Sys2Proof.Machine.execLaneFailure s
  | .portRetrainDone => Sys2Proof.Machine.execPortRetrainDone s
  | .remoteRequest => Sys2Proof.Machine.execRemoteRequest s
  | .hbmScrubPass => Sys2Proof.Machine.execHbmScrubPass s
  | .powerSample => Sys2Proof.Machine.execPowerSample s
  | .startUp => Sys2Proof.Machine.execStartUp s
  | .startFailedReset => Sys2Proof.Machine.execStartFailedReset s
  | .portReset => Sys2Proof.Machine.execPortReset s
  | .resumeStamp => Sys2Proof.Machine.execResumeStamp s
  | .bootRecordPinWrite => Sys2Proof.Machine.execBootRecordPinWrite s

end Sys2Proof.Machine
end

