-- ==== Sys2Proof/Machine/Step.lean ====
section
/-! DEFINITION. One step of the machine: the event that is due, else the next word of the cycle, else the next cycle. -/
namespace Sys2Proof.Machine

/-- What a core or the clock does next, where no event is due. -/
def State.turn (s : State) : Todo :=
  match s.scanCores s.cores with
  | some t => t
  | none => .pass s.tick

/-- ONE STEP. -/
def step (s : State) : Host.Outcome State Fault Refusal :=
  if s.md.trip then
    match s.afterTrip with
    | some (.run i s) => exec i s
    | some (.pass s) => .next s
    | none => .fault .railsOff
  else match s.dueEvent with
  | some (i, s) => exec i s
  | none =>
    match s.turn with
    | .run i s => exec i s
    | .pass s => .next s

/-! ### A program placed from outside -/

/-- Where a word placed from outside stands: a page of code of address space 1. -/
def placedVa : Nat := 0x10000
def placedPa : Nat := 0x10000

/-- The chain and the descriptor of a gang on octant 0, as a launch leaves them (R331 to R336). -/
def placedGang : Gang :=
  { chain := { asid := 1, ssc := 3, sup := 0 }, descr := { ngx := 8, ngy := 1, ngz := 1, goct := 1, entry := placedVa },
    octs := [0], groups := [(0, {})] }

/-- Core 0 with its control context about to issue the word placed, and that page in its translation cache. -/
def placedCore : CoreState :=
  { ctxs := [(0, { status := .running, pc := BitVec.ofNat 52 placedVa })], gang := some 1,
    tlb := [⟨1, 0, placedVa, 65536, placedPa + 0x13F, 0, []⟩] }

/-- The bytes of a word that was `nbits` long, the bits above them 0, lowest first (R24, R26). -/
def placedBytes (nbits w : Nat) : List Byte := toBytes 4 (w % 2 ^ nbits % 2 ^ 32)

/-- The state with an instruction stored where the next step fetches: nothing is due, a gang runs on octant 0, and its
core 0 issues that word next. -/
def State.withFetchWord (s : State) (nbits w : Nat) : State :=
  { s with cal := [], inputs := [], scan := 0, gangs := SMap.put s.gangs 1 placedGang,
           cores := SMap.put s.cores 0 placedCore, mem := Mem.putBytes s.mem placedPa (placedBytes nbits w) }

end Sys2Proof.Machine
end

