-- ==== Sys2Proof/Safety.lean ====
section
/-! DEFINITION. The terms that claims are stated in: a word that nothing holds back, what a result looks like to the words
after it, and the invariants of a safe run. -/
namespace Sys2Proof.Machine

/-! ### A word that nothing but its own entry holds back -/

/-- No prefix is latched, the context is in no exchange phase, and the operands have arrived where st.SB asks for them
(R38, R73, R289). -/
def State.clear (s : State) (reads : List Opnd) : Prop :=
  s.cur.prefixed = false ∧ s.inExchange = false ∧ (bit s.cur.st 7 && reads.any s.cur.pending) = false

/-- The same for a word that may issue in an exchange phase too (R289). -/
def State.clearAny (s : State) (reads : List Opnd) : Prop :=
  s.cur.prefixed = false ∧ (bit s.cur.st 7 && reads.any s.cur.pending) = false

/-- The same for a word that takes a prefix, with a latched prefix, or none, that it accepts (R38, R77). -/
def State.clearPfx (s : State) (accepts : Pfx → Bool) (reads : List Opnd) : Prop :=
  accepts s.cur.pfx = true ∧ s.inExchange = false ∧ (bit s.cur.st 7 && reads.any s.cur.pending) = false

/-- The current context after its word has issued, but for what the word itself does: the program counter or the frame has
moved on, the prefix is consumed, and the next word waits for the stall count (R25, R38, R79). -/
def Ctx.issued (t : Ctx) (now : Nat) (S : Stall) : Ctx :=
  { t.advance with st := clearPrefix t.advance.st, readyAt := now + 1 + S.toNat, issuedAt := now }

/-- `t` is `s` with its current context replaced by `c` and `k` identifiers used up: no other context, no core-wide state,
no memory and nothing else has changed. -/
def OnlyCur (s : State) (c : Ctx) (k : Nat) (t : State) : Prop :=
  t = { s.setCtx s.cc s.cx c with nextId := s.nextId + k }

/-! ### What a fixed-latency result looks like to the words after it (R66 to R74) -/

/-- The context `c` is the context `b` after a word with destination code `d` whose result `v` is readable from cycle
`at_` on, 2 cycles later in a register of the slow partition, with its sticky flags; but for that result the word leaves
the context as `b'`. -/
structure Delivered (b b' c : Ctx) (d : Opnd) (v : Word) (at_ flags : Nat) : Prop where
  /-- nothing but the queue and the pending results differs from `b'` -/
  frame : c = { b' with head := c.head, pend := c.pend }
  /-- the queue has moved by one -/
  head : c.head = b.head - 1
  /-- the result is q1 from its cycle on -/
  queue : ∀ n, at_ ≤ n → (c.settle n).q 1 = v
  /-- before it, q1 reads what its slot held -/
  early : ∀ n, n < at_ → (c.settle n).q 1 = b.q 16
  /-- the named register holds the result; g0 and a push-only code name none -/
  reg : ∀ r n, destReg d = some r → at_ + (if 16 ≤ r then 2 else 0) ≤ n → (c.settle n).g r = v
  /-- before it, the register reads as it did -/
  stale : ∀ r n, destReg d = some r → n < at_ + (if 16 ≤ r then 2 else 0) → (c.settle n).g r = b.g r
  /-- every other register holds what it would have held -/
  others : ∀ r n, destReg d ≠ some r → (c.settle n).g r = (b.settle n).g r
  /-- so does every older place of the queue, one further on -/
  older : ∀ k n, 1 ≤ k → k ≤ 15 → (c.settle n).q (k + 1) = (b.settle n).q k
  /-- the sticky flags are set with the result -/
  flags : ∀ n, (c.settle n).st = if at_ ≤ n then (b'.settle n).st ||| word (flags % 32) else (b'.settle n).st

/-- The step answers a next state in which only the current context has changed: it is `b'` but for the delivery of a
result. -/
def GivesIn (r : Res) (s : State) (b' : Ctx) (d : Opnd) (v : Word) (at_ flags : Nat) : Prop :=
  ∃ c t, r = .next t ∧ OnlyCur s c 1 t ∧ Delivered s.cur b' c d v at_ flags

/-- The same for a word after which the next word follows. -/
def Gives (r : Res) (s : State) (S : Stall) (d : Opnd) (v : Word) (at_ flags : Nat) : Prop :=
  GivesIn r s (s.cur.issued s.now S) d v at_ flags

/-- The context after a jump: the target is not ready before two cycles and the stall count have passed (R71). -/
def Ctx.jumped (t : Ctx) (target : BitVec 52) (now : Nat) (S : Stall) : Ctx :=
  { t with pc := target, readyAt := now + 2 + S.toNat, issuedAt := now }

/-- When a result of latency `L` is readable: 2 cycles later where a source lies in the slow partition (R70, R424). -/
def State.readable (s : State) (L : Nat) (reads : List Opnd) : Nat := s.now + L + (if reads.any slowCode then 2 else 0)

/-! ### Addresses of local and global accesses (R28, R113, R130, R135) -/

/-- Where a local access of a core goes, by its address (spec/06_memory.md): a store and an offset in it, or nowhere. -/
def localPlace (core addr : Nat) : Option (Nat × Nat) :=
  if addr < 0x60000 then some (core, addr)
  else if 0x800000 ≤ addr ∧ addr < 0xC00000 ∧ (addr - 0x800000) % 0x80000 < 0x60000 then
    some (core / 8 * 8 + (addr - 0x800000) / 0x80000, (addr - 0x800000) % 0x80000)
  else none

/-- The address of a local or global access of M format: base plus the sign-extended offset times the width. -/
def offsetAddress (s : State) (b : Opnd) (o : BitVec 10) : Nat :=
  (s.opnd b + BitVec.ofInt 64 (o.toInt * ((memFmt s.cur.pfx).w / 8 : Nat))).toNat

/-- The address of an indexed access: base plus the index times the width. -/
def indexAddress (s : State) (a b : Opnd) : Nat :=
  (s.opnd a + BitVec.ofNat 64 ((s.opnd b).toNat * ((memFmt s.cur.pfx).w / 8))).toNat

/-- The causes that a local access of a width at an address meets, the lowest first. -/
def localFault (s : State) (addr w : Nat) : Option Nat :=
  if addr % w ≠ 0 then some 1
  else match localPlace s.cc addr with
    | none => some 2
    | some (_, a) => if s.rbe s.cc = true ∧ 0x58000 ≤ a then some 3 else none

/-- The region descriptors of a store begin at rows, as lsr leaves them (R138). -/
def regionsAligned (rs : SMap Region) : Prop := ∀ n, (SMap.get {} rs n).base % 256 = 0

/-! ### Accesses to global memory (R117 to R123, R129 to R136) -/

/-- Where a global access that may go ahead goes: through the translation cache to this device, or to another device of the
domain by the number in its address. -/
def goesTo (s : State) (addr align need : Nat) (d : Dest) : Prop :=
  globalCause addr align = none ∧
    ((addr < 2 ^ 51 ∧ ∃ pa leaf, s.xlateCur addr need = .hit pa leaf ∧ d = .here pa)
      ∨ (2 ^ 51 ≤ addr ∧ d = .away (addr / 2 ^ 42 % 512)))

/-- What a global access does that may not go ahead: an exact trap with the lowest cause, or the wait for a walk. -/
def heldUp (s : State) (addr align need : Nat) (r : Res) : Prop :=
  (∀ k, globalCause addr align = some k → r = .next (s.exact k addr))
  ∧ (globalCause addr align = none → addr < 2 ^ 51 →
      (∀ k, s.xlateCur addr need = .bad k → r = .next (s.exact k addr))
      ∧ (s.xlateCur addr need = .miss → r = .next (s.startWalk s.cc s.cx addr need)))

/-- The request of the current context for an access. -/
def request (s : State) (kind : ReqKind) (addr w : Nat) (d : Dest) : Req :=
  { kind := kind, core := s.cc, ctx := s.cx, id := s.nextId, va := addr, width := w, asid := s.asidOf s.cc,
    gen := (s.space (s.asidOf s.cc)).gen, pc := s.cur.pc.toNat, src := s.groupKey s.cc, at_ := s.now,
    pa := match d with | .here pa => pa | .away _ => addr
    remote := match d with | .here _ => none | .away v => some v }

/-- How an access is counted in ldc or stc. -/
def counted (id : Nat) (d : Dest) (load : Bool) : Outst :=
  match d with
  | .here pa => ⟨id, some (homeOf pa), false, load⟩
  | .away _ => ⟨id, none, true, load⟩

/-- What a write of the page-table entries in the current core's translation cache may put into the calendar: the responses to
watches on their lines, and, for watches of other devices, the replay of the port to one (R140, R387, R389). -/
def Woken (s : State) (q : List Post) : Prop :=
  ∀ p ∈ q, ∃ n, ∃ w ∈ SMap.get [] s.watches n, w.barrier = false
    ∧ (w.away = none → p.ev = .resultArrival ∧ p.args = ⟨w.core, w.ctx, w.id, 0, []⟩)
    ∧ (∀ d, w.away = some d → p.ev = .replayTimeout ∧ p.args = ⟨portTo d.1, 0, 0, 0, []⟩)
    ∧ ∃ e ∈ s.curCore.tlb, w.pa / 64 = e.leafAt / 64 ∨ w.pa / 64 = (e.leafAt + 7) / 64

/-- In `t` the request `r` is on its way to the event that performs it: a release is held, and so is an access behind a
held one of its context; any other has left. -/
structure Sent (s t : State) (ev : Instr) (r : Req) : Prop where
  listed : ∃ ws, SMap.find t.reqs r.id = some { r with waitsFor := r.waitsFor ++ ws }
  release : r.scope ≠ none → t.held = s.held ++ [r.id] ∧ ∃ q, Woken s q ∧ t.cal = s.cal ++ q
  leaves : r.scope = none → ∃ q, Woken s q ∧ ((t.held = s.held ++ [r.id] ∧ t.cal = s.cal ++ q) ∨
    (t.held = s.held ∧ ∃ p, t.cal = s.cal ++ q ++ [p] ∧ p.ev = ev ∧ p.args.a = r.id ∧ s.now < p.due))

/-- A long-operation result is pending in `c` for the destination `d` of a word issued in `b` (R71). -/
def pendingFor (b c : Ctx) (d : Opnd) (id : Nat) : Prop :=
  c.head = b.head - 1
  ∧ c.pend = b.pend.map (·.yield (b.head - 1).toNat (destReg d)) ++
      [{ id := id, slot := some (b.head - 1).toNat, reg := destReg d }]

/-- Between `s` and `t` the issue of a global access has changed nothing but the current context, its core's translation
cache, the D bits of the page-table entries cached there, the watches on their lines and the flits that answer those of other
devices, the requests, the calendar, the free values used, and UNR. -/
structure AccessFrame (s t : State) : Prop where
  cores : ∀ c, c ≠ s.cc → t.core c = s.core c
  ctxs : ∀ x, x ≠ s.cx → t.ctxAt s.cc x = s.ctxAt s.cc x
  core : t.curCore = { s.curCore with ctxs := t.curCore.ctxs, tlb := t.curCore.tlb }
  bytes : ∀ a, (∀ e ∈ s.curCore.tlb, ¬ (e.leafAt ≤ a ∧ a < e.leafAt + 8)) → t.gbyte a = s.gbyte a
  id : t.nextId = s.nextId + 1
  now : t.now = s.now
  cc : t.cc = s.cc
  cx : t.cx = s.cx

/-! ### What a word leaves alone -/

/-- Between `s` and `t` nothing has changed outside the current core, and there no other context. -/
structure Within (s t : State) : Prop where
  cores : ∀ c, c ≠ s.cc → t.core c = s.core c
  ctxs : ∀ x, x ≠ s.cx → t.ctxAt s.cc x = s.ctxAt s.cc x
  rest : t = { s with cores := t.cores, nextId := t.nextId }

/-- The same for a word that writes the current core's store: with rollback its undo log may overflow, which marks the
gang's superstep (R292). -/
structure WithinStore (s t : State) : Prop where
  cores : ∀ c, c ≠ s.cc → t.core c = s.core c
  ctxs : ∀ x, x ≠ s.cx → t.ctxAt s.cc x = s.ctxAt s.cc x
  rest : t = { s with cores := t.cores, nextId := t.nextId, gangs := t.gangs }

/-- No earlier access of the current context to the store of a core is on its way. -/
def settled (s : State) (core : Nat) : Prop := ∀ b ∈ s.curCore.sibs, ¬ (b.ctx = s.cx ∧ b.target = core)

/-- The store of a core at an address holds these bytes of a value, low byte first. -/
def holds (s : State) (core addr w v : Nat) : Prop :=
  ∀ i, i < w → (s.core core).lbyte (addr + i) = BitVec.ofNat 8 (v / 256 ^ i)

/-! ### Results that arrive (R68 to R72, R356) -/

/-- The context `c` is `b` after the result of a number has arrived with a value: the slot and the register that its producer still
owns hold it, a register of the slow partition two cycles later. -/
structure Landed (b c : Ctx) (now id : Nat) (v : Word) : Prop where
  frame : c = { b with pend := c.pend, slots := c.slots, regs := c.regs }
  pend : c.pend = b.pend.filter (·.id != id) ++
    (match b.pend.find? (fun p => p.id == id) with | some p => p.slowPart v now | none => [])
  none : b.pend.find? (fun p => p.id == id) = none → c = b
  slots : ∀ p, b.pend.find? (fun p => p.id == id) = some p →
    ∀ k, SMap.get 0 c.slots k = if p.slot = some k then v else SMap.get 0 b.slots k
  regs : ∀ p, b.pend.find? (fun p => p.id == id) = some p →
    ∀ n, c.g n = if p.reg = some n ∧ n ≠ 0 ∧ n < 16 then v else b.g n

/-- A result of a number belongs in the trap frame of its context: it was pending as the handler or the routine was entered. -/
def Ctx.framed (t : Ctx) (id : Nat) (p : Pend) : Prop :=
  (t.ih = true ∨ t.rt = true) ∧ t.pend.find? (fun p => p.id == id) = some p ∧ (p.frSlot ≠ none ∨ p.frReg ≠ none)

/-! ### Operations that leave for a unit -/

/-- Between `s` and `t` neither a byte of memory, nor another core or context, nor anything else of the current core has
changed. -/
structure Alone (s t : State) : Prop where
  cores : ∀ c, c ≠ s.cc → t.core c = s.core c
  ctxs : ∀ x, x ≠ s.cx → t.ctxAt s.cc x = s.ctxAt s.cc x
  core : t.curCore = { s.curCore with ctxs := t.curCore.ctxs }
  mem : t.mem = s.mem
  now : t.now = s.now
  cc : t.cc = s.cc
  cx : t.cx = s.cx

/-- One event more is in the calendar of `t`, after a delay. -/
def Goes (s t : State) (ev : Instr) (args : Ev) : Prop :=
  ∃ p, t.cal = s.cal ++ [p] ∧ p.ev = ev ∧ p.args = args ∧ s.now < p.due

/-- The current context after a word whose operation is counted in ldc under `id` and whose result is pending in `d`. -/
def Counted (s : State) (c : Ctx) (S : Stall) (d : Opnd) (id : Nat) : Prop :=
  pendingFor s.cur c d id
  ∧ c = { s.cur.issued s.now S with head := c.head, pend := c.pend, ld := s.cur.ld ++ [⟨id, none, false, false⟩] }

/-- The response `x` to a context is on its way, and no other has left. -/
def Answered (s t : State) (core ctx id : Nat) (x : Resp) : Prop :=
  t.resps = SMap.put s.resps id x ∧ Goes s t .resultArrival ⟨core, ctx, id, 0, []⟩

/-! ### Float values and their rounding (R91 to R95), as numbers -/

/-- `v` is a finite number of a sign and of the value `x` (R91). -/
def FVal.Is (v : FVal) (neg : Bool) (x : ℚ) : Prop :=
  ∃ (m : Nat) (e : Int), v = .fin neg m e ∧ x = (if neg then -1 else 1) * (m : ℚ) * (2 : ℚ) ^ e

/-- The magnitude that a bit pattern without its sign stands for; patterns from the infinity's on go on as if the exponent had no end
(R91). -/
def FFmt.mag (f : FFmt) (k : Nat) : ℚ :=
  if k < 2 ^ f.fb then (k : ℚ) * (2 : ℚ) ^ (1 - (f.bias : Int) - f.fb)
  else ((2 ^ f.fb + k % 2 ^ f.fb : Nat) : ℚ) * (2 : ℚ) ^ ((k / 2 ^ f.fb : Nat) - (f.bias : Int) - f.fb)

/-- A mode that rounds a number of a sign toward zero (R94). -/
def towardZero (rm : Nat) (neg : Bool) : Bool := rm == 1 || (rm == 2 && !neg) || (rm == 3 && neg)

/-- `r` is the magnitude `x`, of a sign, rounded to a format under a mode, with its flags; `below q` says that `q < x` and `above q` that
`x < q` (R94, R95).  The pattern `k` is the nearest one, the even one of two, for RNE; the one at or below `x` for a mode that rounds
toward zero; the one at or above it for another. -/
def FFmt.Rounds (f : FFmt) (rm : Nat) (neg : Bool) (below above : ℚ → Prop) (r : Flagged) : Prop :=
  let down := towardZero rm neg = true
  let mid (k : Nat) : ℚ := (f.mag k + f.mag (k + 1)) / 2
  let least : ℚ := (2 : ℚ) ^ (1 - (f.bias : Int))
  let inf := f.expMask * 2 ^ f.fb
  let sign := if neg then 2 ^ (f.eb + f.fb) else 0
  ∃ k : Nat,
    (rm = 0 → ¬ below (mid k) ∧ (¬ above (mid k) → k % 2 = 0)
      ∧ (k ≠ 0 → ¬ above (mid (k - 1)) ∧ (¬ below (mid (k - 1)) → k % 2 = 0)))
    ∧ (down → ¬ above (f.mag k) ∧ above (f.mag (k + 1)))
    ∧ (rm ≠ 0 → ¬ down → ¬ below (f.mag k) ∧ (k ≠ 0 → below (f.mag (k - 1))))
    ∧ (inf ≤ k → r = (sign + (if down then inf - 1 else inf), flagOF + flagNX))
    ∧ (k < inf →
      let exact := ¬ below (f.mag k) ∧ ¬ above (f.mag k)
      let tiny := if rm = 0 then above (least * (1 - (2 : ℚ) ^ (-(f.fb : Int) - 2))) else if down then above least
        else ¬ below (least * (1 - (2 : ℚ) ^ (-(f.fb : Int) - 1)))
      r.1 = sign + k ∧ (exact → r.2 = 0) ∧ (¬ exact → tiny → r.2 = flagUF + flagNX) ∧ (¬ exact → ¬ tiny → r.2 = flagNX))

/-- `r` is the number `x`, not 0, rounded to a format under a mode, with its flags. -/
def FFmt.RoundsTo (f : FFmt) (rm : Nat) (x : ℚ) (r : Flagged) : Prop := f.Rounds rm (decide (x < 0)) (· < |x|) (|x| < ·) r

/-- `z` is the number `x` rounded to a whole one under a mode (R94). -/
def RoundsInt (rm : Nat) (x : ℚ) (z : Int) : Prop :=
  (rm = 0 → |(z : ℚ) - x| ≤ 1 / 2 ∧ (|(z : ℚ) - x| = 1 / 2 → z % 2 = 0))
  ∧ (rm = 1 → z = if 0 ≤ x then ⌊x⌋ else ⌈x⌉) ∧ (rm = 2 → z = ⌊x⌋) ∧ (rm = 3 → z = ⌈x⌉)

/-! ### Trap frames (R355, R356) -/

/-- The word of a context's trap frame at an index. -/
def State.frameWord (s : State) (core ctx i : Nat) : Word :=
  BitVec.ofNat 64 (ofBytes ((s.core core).lbytes ((s.core core).tfa.toNat + 512 * ctx + 8 * i) 8))

/-- The context `c` holds what the trap frame of a context of a core holds in `s`. -/
structure Restored (s : State) (core ctx : Nat) (c : Ctx) : Prop where
  regs : ∀ n, 1 ≤ n → n ≤ 31 → c.g n = s.frameWord core ctx n
  queue : ∀ k, k < 16 → c.q (k + 1) = s.frameWord core ctx (32 + k)
  st : c.st = s.frameWord core ctx 48
  pc : c.pc = (s.frameWord core ctx 49).setWidth 52
  vl : c.vl = (s.frameWord core ctx 53).toNat

/-- The trap frame of a context of a core in `t` holds the context `c`, a trap record and an address. -/
structure Saved (t : State) (core ctx : Nat) (c : Ctx) (trec taddr : Word) : Prop where
  regs : ∀ n, n < 32 → t.frameWord core ctx n = c.g n
  queue : ∀ k, k < 16 → t.frameWord core ctx (32 + k) = c.q (k + 1)
  st : t.frameWord core ctx 48 = c.st
  pc : t.frameWord core ctx 49 = c.pc.setWidth 64
  trec : t.frameWord core ctx 50 = trec
  taddr : t.frameWord core ctx 51 = taddr
  vl : c.vl < 2 ^ 64 → (t.frameWord core ctx 53).toNat = c.vl

/-- No store of a core takes part in rollback's undo log at an address range, and its mapping is whole. -/
def State.frameFits (s : State) (core ctx : Nat) : Prop :=
  regionsAligned (s.core core).regions ∧
    (s.rbe core = true → (s.core core).tfa.toNat + 512 * ctx + 512 ≤ 0x58000)

/-! ### Engine commands (R229 to R237) -/

/-- In `t` the command of a core goes on as `c`, in a later cycle. -/
def Continues (s t : State) (core : Nat) (c : Cmd) : Prop :=
  ∃ n, s.now < n ∧ t.findCmd core c.id = some { c with nextAt := n }

/-- In `t` the command of a core has ended with a status and a detail, and its completion is on its way. -/
def EndsWith (t : State) (core : Nat) (c : Cmd) (sts det : Nat) : Prop :=
  t.findCmd core c.id = some { c with ended := true, sts := sts, det := det }
    ∧ ∃ p ∈ t.cal, p.ev = .commandCompletion ∧ p.args = ⟨core, c.id, 0, 0, []⟩

/-- The store of a core holds these bytes from an address on. -/
def HoldsBytes (t : State) (core addr : Nat) (bs : List Byte) : Prop :=
  ∀ i, i < bs.length → (t.core core).lbyte (addr + i) = bs.getD i 0

/-- The store of a core reads as before outside a range (and, with rollback, below the undo log). -/
def OutsideSame (s t : State) (core addr n : Nat) : Prop :=
  ∀ y, (s.rbe core = true → y < 0x58000) → (y < addr ∨ addr + n ≤ y) → (t.core core).lbyte y = (s.core core).lbyte y

/-- The contexts of every core are as before. -/
def CtxsSame (s t : State) : Prop := ∀ c, (t.core c).ctxs = (s.core c).ctxs

/-- A range of a core's store that an agent can write now: inside the store, below the undo log, not guarded by a matrix entry
of its octant. -/
def State.openRange (s : State) (core addr n : Nat) : Prop :=
  regionsAligned (s.core core).regions ∧ s.matrixBusy core = false ∧
    addr + n ≤ (if s.rbe core then 0x58000 else 0x60000)

/-! ### Traps and fault messages (R354 to R357, R361) -/

/-- A fault message about a context has been sent to the supervisor core of a partition, whose FIFO 15 had room. -/
def Reported (s t : State) (part core ctx cause kind : Nat) : Prop :=
  let sup := (s.part part).sup
  (s.core sup).fifo15.length < 64 →
    ∃ e : Word, (t.core sup).fifo15 = (s.core sup).fifo15 ++ [e]
      ∧ e.toNat % 2 ^ 11 = core % 2 ^ 11 ∧ e.toNat / 2 ^ 11 % 16 = ctx % 16 ∧ e.toNat / 2 ^ 15 % 256 = cause % 256
      ∧ e.toNat / 2 ^ 23 % 16 = kind ∧ e.toNat / 2 ^ 63 = 1

/-- In `t` a context of a core has entered its handler from the context `c`, with a trap record and an address: its state is
saved, and nothing else has changed. -/
structure Entered (s t : State) (core ctx : Nat) (c : Ctx) (trec taddr : Word) : Prop where
  saved : Saved t core ctx c trec taddr
  ih : (t.ctxAt core ctx).ih = true
  record : (t.ctxAt core ctx).trec = trec ∧ (t.ctxAt core ctx).taddr = taddr
  pc : (t.ctxAt core ctx).pc = (s.core core).tvec.setWidth 52
  clean : (t.ctxAt core ctx).prefixed = false ∧ (t.ctxAt core ctx).inFrame = false ∧ (t.ctxAt core ctx).wait = .none
  st : ∀ i, i ≠ 9 → i ≠ 62 → (t.ctxAt core ctx).st.getLsbD i = c.st.getLsbD i
  regs : ∀ n, (t.ctxAt core ctx).g n = c.g n
  queue : ∀ k, (t.ctxAt core ctx).q k = c.q k
  vl : (t.ctxAt core ctx).vl = c.vl
  ready : s.now + 32 < (t.ctxAt core ctx).readyAt
  cores : ∀ d, d ≠ core → t.core d = s.core d
  ctxs : ∀ y, y ≠ ctx → t.ctxAt core y = s.ctxAt core y
  mem : t.mem = s.mem
  store : OutsideSame s t core ((s.core core).tfa.toNat + 512 * ctx) 512

/-- A context of a core takes a trap, as the context `c` once its fixed-latency results have arrived. While the context's local
accesses are on their way, or a guarded range holds the frame that it would write, the trap waits, and nothing else changes (R74,
R192). Else a surrender routine overruns; inside a handler, or without a vector, the context halts and is reported; and any other
enters its handler. -/
def Traps (s : State) (core ctx : Nat) (c : Ctx) (cause : Nat) (trec taddr : Word) (r : Res) : Prop :=
  (s.ctxAt core ctx).entering = false →
    (s.entryHeld core ctx = true → ∃ t, r = .next t ∧ (∃ i, (t.ctxAt core ctx).wait = .entry (some i) ∧ i.cause = cause)
      ∧ (∀ x, x ≠ ctx → t.ctxAt core x = s.ctxAt core x) ∧ (∀ d, d ≠ core → t.core d = s.core d) ∧ t.mem = s.mem
      ∧ (t.core core).ls = (s.core core).ls ∧ (t.ctxAt core ctx).regs = (s.ctxAt core ctx).regs
      ∧ (t.ctxAt core ctx).ih = (s.ctxAt core ctx).ih)
    ∧ (s.entryHeld core ctx = false →
      (c.rt = true → ∃ t, r = .next t ∧ ∃ p ∈ t.cal, p.ev = .routineOverrun ∧ p.args = ⟨core, 0, 0, 0, []⟩)
      ∧ (c.rt = false → (c.ih = true ∨ (s.core core).tvec = 0) →
          ∃ t, r = .next t ∧ (t.core core).ls = (s.core core).ls ∧ Reported s t (s.partOf core) core ctx cause 1
            ∧ t.ctxAt core ctx =
                { c with trec := trec, taddr := taddr, status := .halted, hk := 3, hp := false, haltMk := 1, haltCause := cause
                         haltBack := 0, haltWord := (t.ctxAt core ctx).haltWord, wait := .none })
      ∧ (c.rt = false → c.ih = false → (s.core core).tvec ≠ 0 → s.frameFits core ctx →
          ∃ t, r = .next t ∧ Entered s t core ctx c trec taddr))

/-- A trap record of a kind and a cause, with nothing else in it. -/
def plainRecord (kind cause : Nat) : Word := BitVec.ofNat 64 (cause % 256 + 256 * kind)

/-- Between `s` and `t` nothing but one context has changed. -/
def OnlyCtx (s : State) (core ctx : Nat) (c : Ctx) (t : State) : Prop := t = s.setCtx core ctx c

/-- The tables of the cores and of their contexts are in canonical form. -/
def State.listedOnce (s : State) : Prop := SMap.rising 0 s.cores = true ∧ ∀ e ∈ s.cores, SMap.rising 0 e.2.ctxs = true

/-! ### The invariant of a step -/

/-- Global memory, every local store and every store saved with a gang that is out are in canonical form. -/
def State.canonical (s : State) : Prop :=
  Mem.wf s.mem = true ∧ (∀ e ∈ s.cores, Mem.wf e.2.ls = true) ∧ ∀ g ∈ s.gangs, ∀ e ∈ g.2.saved, Mem.wf e.2.ls = true

end Sys2Proof.Machine
end

