-- ==== Sys2Proof/Certificates/Slice0/Obligations.lean ====
section
/-! DEFINITION. The statements for the provers. -/
open Sys2Proof Sys2Proof.Machine

/-! ### Scalar results -/

/-- Every integer operation of majors 0x00 to 0x02 but the divisions delivers the result of its table to the queue and to its
destination, at its latency, sets no flag and changes nothing else. Every immediate operation of majors 0x04 to 0x0C delivers
the result of its table. A division whose core's divider is free delivers its quotient or remainder after 24 cycles, the edge
cases included, and keeps the divider busy for them; while the divider is busy, a division has not issued
(spec/04_scalar.md). -/
def Obligations.IntegerOperationsDeliverTheirResults : Prop :=
  (∀ (s : State) (S : Stall) (d a b : Opnd) (c : BitVec 4),
    let x := s.opnd a
    let y := s.opnd b
    let n := y.toNat % 64
    let one := s.readable 1 [a, b]
    let three := s.readable 3 [a, b]
    let un := s.readable 1 [a]
    (s.clear [a, b] →
      Gives (exec (.add S d a b) s) s S d (x + y) one 0
      ∧ Gives (exec (.sub S d a b) s) s S d (x - y) one 0
      ∧ Gives (exec (.and S d a b) s) s S d (x &&& y) one 0
      ∧ Gives (exec (.or S d a b) s) s S d (x ||| y) one 0
      ∧ Gives (exec (.xor S d a b) s) s S d (x ^^^ y) one 0
      ∧ Gives (exec (.andn S d a b) s) s S d (x &&& ~~~y) one 0
      ∧ Gives (exec (.shl S d a b) s) s S d (x <<< n) one 0
      ∧ Gives (exec (.shr S d a b) s) s S d (x >>> n) one 0
      ∧ Gives (exec (.sar S d a b) s) s S d (x.sshiftRight n) one 0
      ∧ Gives (exec (.rot S d a b) s) s S d (x <<< n ||| x >>> (64 - n)) one 0
      ∧ Gives (exec (.min S d a b) s) s S d (if x.toInt < y.toInt then x else y) one 0
      ∧ Gives (exec (.minc S d a b) s) s S d (if x.toNat < y.toNat then x else y) one 0
      ∧ Gives (exec (.max S d a b) s) s S d (if x.toInt > y.toInt then x else y) one 0
      ∧ Gives (exec (.maxc S d a b) s) s S d (if x.toNat > y.toNat then x else y) one 0
      ∧ Gives (exec (.mul S d a b) s) s S d (x * y) three 0
      ∧ Gives (exec (.mulh S d a b) s) s S d (BitVec.ofInt 64 (x.toInt * y.toInt / 2 ^ 64)) three 0
      ∧ Gives (exec (.mulhc S d a b) s) s S d (BitVec.ofNat 64 (x.toNat * y.toNat / 2 ^ 64)) three 0
      ∧ (c.toNat = 0 → Gives (exec (.cmp S d a b c) s) s S d (if x = y then 1 else 0) one 0)
      ∧ (c.toNat = 1 → Gives (exec (.cmp S d a b c) s) s S d (if x ≠ y then 1 else 0) one 0)
      ∧ (c.toNat = 2 → Gives (exec (.cmp S d a b c) s) s S d (if x.toInt < y.toInt then 1 else 0) one 0)
      ∧ (c.toNat = 3 → Gives (exec (.cmp S d a b c) s) s S d (if x.toNat < y.toNat then 1 else 0) one 0)
      ∧ (c.toNat = 4 → Gives (exec (.cmp S d a b c) s) s S d (if x.toInt ≤ y.toInt then 1 else 0) one 0)
      ∧ (c.toNat = 5 → Gives (exec (.cmp S d a b c) s) s S d (if x.toNat ≤ y.toNat then 1 else 0) one 0))
    ∧ (s.clear [a, b, 0x20] →
      Gives (exec (.sel S d a b) s) s S d (if s.cur.q 1 ≠ 0 then x else y) one 0)
    ∧ (s.clear [a] →
      (∀ k v, (∀ i : Nat, x.getMsbD i = true → k ≤ i) → (k = 64 ∨ x.getMsbD k = true) → v = BitVec.ofNat 64 k →
          Gives (exec (.clz S d a) s) s S d v un 0)
      ∧ (∀ k v, (∀ i : Nat, x.getLsbD i = true → k ≤ i) → (k = 64 ∨ x.getLsbD k = true) → v = BitVec.ofNat 64 k →
          Gives (exec (.ctz S d a) s) s S d v un 0)
      ∧ Gives (exec (.popc S d a) s) s S d (BitVec.ofNat 64 ((List.range 64).countP x.getLsbD)) un 0
      ∧ (∀ v : Word, (∀ i, i < 8 → v.extractLsb' (8 * i) 8 = x.extractLsb' (56 - 8 * i) 8) →
          Gives (exec (.bswap S d a) s) s S d v un 0)
      ∧ Gives (exec (.mov S d a) s) s S d x un 0))
  ∧ (∀ (s : State) (S : Stall) (d a k : Opnd) (i : BitVec 10) (j : BitVec 16),
    let x := s.opnd a
    let e : Word := BitVec.ofInt 64 i.toInt
    let src : Opnd := if d = 0x3F then 0x20 else d
    let un := s.readable 1 [a]
    (s.clear [a] →
      Gives (exec (.addi S d a i) s) s S d (x + e) un 0
      ∧ Gives (exec (.andi S d a i) s) s S d (x &&& e) un 0
      ∧ Gives (exec (.ori S d a i) s) s S d (x ||| e) un 0
      ∧ Gives (exec (.xori S d a i) s) s S d (x ^^^ e) un 0
      ∧ Gives (exec (.shli S d a k) s) s S d (x <<< k.toNat) un 0
      ∧ Gives (exec (.shri S d a k) s) s S d (x >>> k.toNat) un 0
      ∧ Gives (exec (.sari S d a k) s) s S d (x.sshiftRight k.toNat) un 0)
    ∧ (s.clear [] → Gives (exec (.li S d j) s) s S d (BitVec.ofInt 64 j.toInt) (s.now + 1) 0)
    ∧ (s.clear [src] →
      Gives (exec (.lsh S d j) s) s S d (BitVec.ofNat 64 ((s.opnd src).toNat * 2 ^ 16 + j.toNat)) (s.readable 1 [src]) 0))
  ∧ (∀ (s : State) (S : Stall) (d a b : Opnd),
    let x := s.opnd a
    let y := s.opnd b
    let s' := s.modCurCore fun k => { k with divAt := s.now + 24 }
    let at_ := s.readable 24 [a, b]
    (s.clear [a, b] → s.curCore.divAt ≤ s.now →
      Gives (exec (.div S d a b) s) s' S d
        (if y = 0 then 0xFFFFFFFFFFFFFFFF else BitVec.ofInt 64 (Int.tdiv x.toInt y.toInt)) at_ 0
      ∧ Gives (exec (.divc S d a b) s) s' S d
        (if y = 0 then 0xFFFFFFFFFFFFFFFF else BitVec.ofNat 64 (x.toNat / y.toNat)) at_ 0
      ∧ Gives (exec (.rem S d a b) s) s' S d (if y = 0 then x else BitVec.ofInt 64 (Int.tmod x.toInt y.toInt)) at_ 0
      ∧ Gives (exec (.remc S d a b) s) s' S d (if y = 0 then x else BitVec.ofNat 64 (x.toNat % y.toNat)) at_ 0)
    ∧ (s.clear [a, b] → s.now < s.curCore.divAt →
      exec (.div S d a b) s = .next s.hold ∧ exec (.divc S d a b) s = .next s.hold
      ∧ exec (.rem S d a b) s = .next s.hold ∧ exec (.remc S d a b) s = .next s.hold))

/-- Every float, conversion and block instruction of majors 0x1B to 0x1D that accepts its prefix delivers the rounded
result of its entry with its flags, in the formats of the prefix; fdiv and fsqrt use the divide-root unit for 18 cycles
(spec/05_formats.md).
The model's choices it rests on: log entry 173. -/
def Obligations.FloatOperationsDeliverTheirResults : Prop :=
  ∀ (s : State) (S : Stall) (d a b : Opnd) (c : BitVec 4),
    let p := s.cur.pfx
    let rm := s.cur.rm
    let F := (arithFmts p).1
    let G := (arithFmts p).2.1
    let H := (arithFmts p).2.2
    let x := F.read (s.opnd a).toNat
    let y := G.read (s.opnd b).toNat
    let z := H.read (s.cur.q 1).toNat
    let gives (i : Instr) (L : Nat) (reads : List Opnd) (r : Flagged) : Prop :=
      Gives (exec i s) s S d (BitVec.ofNat 64 r.1) (s.readable L reads) r.2
    let s' := s.modCurCore fun k => { k with rootAt := s.now + 18 }
    (s.clearPfx arithAccepts [a, b] →
      gives (.fadd S d a b) 4 [a, b] (H.add rm x y)
      ∧ gives (.fsub S d a b) 4 [a, b] (H.sub rm x y)
      ∧ gives (.fmul S d a b) 4 [a, b] (H.mul rm x y)
      ∧ gives (.fmin S d a b) 2 [a, b] (H.min rm x y)
      ∧ gives (.fmax S d a b) 2 [a, b] (H.max rm x y)
      ∧ (s.curCore.rootAt ≤ s.now →
          Gives (exec (.fdiv S d a b) s) s' S d (BitVec.ofNat 64 (H.div rm x y).1) (s.readable 18 [a, b]) (H.div rm x y).2)
      ∧ (s.now < s.curCore.rootAt → exec (.fdiv S d a b) s = .next s.hold))
    ∧ (s.clearPfx sqrtAccepts [a] →
        (s.curCore.rootAt ≤ s.now →
          Gives (exec (.fsqrt S d a) s) s' S d (BitVec.ofNat 64 (H.sqrt rm x).1) (s.readable 18 [a]) (H.sqrt rm x).2)
        ∧ (s.now < s.curCore.rootAt → exec (.fsqrt S d a) s = .next s.hold))
    ∧ (s.clearPfx arithAccepts [a, b, 0x20] → gives (.fma S d a b) 4 [a, b] (H.fma rm x y z))
    ∧ (s.clearPfx quietAccepts [a] →
        gives (.fneg S d a) 1 [a] ((s.opnd a).toNat % 2 ^ F.width ^^^ 2 ^ (F.width - 1), 0)
        ∧ gives (.fclass S d a) 1 [a] (F.classMask (s.opnd a).toNat, 0)
        ∧ gives (.bxexp S d a) 2 [a] (blockExp [x], 0))
    ∧ (s.clearPfx fcmpAccepts [a, b] →
        gives (.fcmp S d a b c) 2 [a, b] (if (fcmpCond c.toNat x y).1 then 1 else 0, (fcmpCond c.toNat x y).2))
    ∧ (s.clearPfx cvtAccepts [a] →
        let src := if p.fa = 0 then Fmt.int ⟨64, true⟩ else srcFmt p.fa
        let dst := if p.fd = 0 then Fmt.float f32 else dstFmt p.fd
        let r := convert src dst rm (s.opnd a).toNat
        Gives (exec (.cvt S d a) s) s S d r.1 (s.readable 2 [a]) r.2)
    ∧ (s.clearPfx bxencAccepts [a, b] →
        let r := encElem x ((s.opnd b).toNat % 256) (blockOr8 p.fb) (if p.ro = 2 then 1 else 0)
        Gives (exec (.bxenc S d a b) s) s S d (BitVec.ofInt 64 r.1) (s.readable 2 [a, b]) r.2)
    ∧ (s.clearPfx bxdecAccepts [a, b] →
        let w := blockOr8 p.fa
        gives (.bxdec S d a b) 2 [a, b]
          ((dstFloatOf p.fd f32).write rm (decElem (sgn w (s.opnd a).toNat) ((s.opnd b).toNat % 256) w)))

/-- What the float formats and their operations give, as numbers: a pattern reads as its IEEE value; sums, products, fused products,
quotients and roots of numbers of the formats are the exact result rounded once under the mode, with NX, UF and OF; exact zeros keep
their sign; NaNs give the canonical NaN, with NV where one is signalling; the invalid cases give it with NV, a division by zero an
infinity with DZ. Comparisons, conversions, the block exponent, the mantissas of a block, the reciprocal, the reciprocal root, the power
of two and the four-element product are those numbers too (spec/05_formats.md, spec/08_vector.md). -/
def Obligations.FloatValuesAreRounded : Prop :=
  let formats : List FFmt := [f32, bf16, f16]
  ∀ (F G f : FFmt) (n m k rm : Nat), F ∈ formats → G ∈ formats → f ∈ formats → rm < 4 →
    let a := F.read n
    let b := G.read m
    let c := f.read k
    let nan : Nat := f.expMask * 2 ^ f.fb + 2 ^ (f.fb - 1)
    let sign (neg : Bool) : Nat := if neg then 2 ^ (f.eb + f.fb) else 0
    let infinity (neg : Bool) : Nat := sign neg + f.expMask * 2 ^ f.fb
    let zeroed (na nb : Bool) : Bool := if na = nb then na else rm == 2
    let nv (vs : List FVal) : Nat := if .nan true ∈ vs then 16 else 0
    let finite (v : FVal) : Prop := ∃ s x, v.Is s x
    -- reading
    (let s := n.testBit (F.eb + F.fb)
      let e := n / 2 ^ F.fb % 2 ^ F.eb
      let x := F.mag (n % 2 ^ (F.eb + F.fb))
      (e ≠ 2 ^ F.eb - 1 → a.Is s (if s then -x else x))
      ∧ (e = 2 ^ F.eb - 1 → n % 2 ^ F.fb = 0 → a = .inf s)
      ∧ (e = 2 ^ F.eb - 1 → n % 2 ^ F.fb ≠ 0 → a = .nan (!n.testBit (F.fb - 1))))
    -- finite operands
    ∧ (∀ na x, a.Is na x →
      (x ≠ 0 → f.RoundsTo rm x (f.write rm a))
      ∧ (x = 0 → f.write rm a = (sign na, 0))
      ∧ (0 < x → f.Rounds rm false (fun q => q < 0 ∨ q * q < x) (fun q => 0 ≤ q ∧ x < q * q) (f.sqrt rm a))
      ∧ (x = 0 → f.sqrt rm a = (sign na, 0)) ∧ (x < 0 → f.sqrt rm a = (nan, 16))
      ∧ (∀ nb y, b.Is nb y →
        (x + y ≠ 0 → f.RoundsTo rm (x + y) (f.add rm a b)) ∧ (x + y = 0 → f.add rm a b = (sign (zeroed na nb), 0))
        ∧ (x - y ≠ 0 → f.RoundsTo rm (x - y) (f.sub rm a b)) ∧ (x - y = 0 → f.sub rm a b = (sign (zeroed na !nb), 0))
        ∧ (x * y ≠ 0 → f.RoundsTo rm (x * y) (f.mul rm a b)) ∧ (x * y = 0 → f.mul rm a b = (sign (na != nb), 0))
        ∧ (x ≠ 0 → y ≠ 0 → f.RoundsTo rm (x / y) (f.div rm a b)) ∧ (x = 0 → y ≠ 0 → f.div rm a b = (sign (na != nb), 0))
        ∧ (x ≠ 0 → y = 0 → f.div rm a b = (infinity (na != nb), 8)) ∧ (x = 0 → y = 0 → f.div rm a b = (nan, 16))
        ∧ f.min rm a b = f.write rm (if x < y ∨ x = y ∧ na = true then a else b)
        ∧ f.max rm a b = f.write rm (if y < x ∨ x = y ∧ na = false then a else b)
        ∧ (∀ i, fcmpCond i a b =
            (if i = 0 then decide (x = y) else if i = 1 then decide (x ≠ y) else if i = 2 then decide (x < y)
              else if i = 3 then decide (x ≤ y) else false, 0))
        ∧ ∀ nc z, c.Is nc z →
          (x * y + z ≠ 0 → f.RoundsTo rm (x * y + z) (f.fma rm a b c))
          ∧ (x * y + z = 0 → f.fma rm a b c = (sign (zeroed (na != nb) nc), 0))))
    -- NaN operands
    ∧ ((a.isNan = true ∨ b.isNan = true) →
      (∀ r ∈ [f.add rm a b, f.sub rm a b, f.mul rm a b, f.div rm a b], r = (nan, nv [a, b]))
      ∧ f.min rm a b = (nan, nv [a, b]) ∧ f.max rm a b = (nan, nv [a, b])
      ∧ (∀ i, fcmpCond i a b = (decide (i = 1 ∨ 4 ≤ i), if i = 2 ∨ i = 3 then 16 else nv [a, b])))
    ∧ (a.isNan = true → f.write rm a = (nan, nv [a]) ∧ f.sqrt rm a = (nan, nv [a]))
    ∧ ((a.isNan = true ∨ b.isNan = true ∨ c.isNan = true) → (∀ s, ¬ (a = .inf s ∧ b.isZero = true) ∧ ¬ (b = .inf s ∧ a.isZero = true)) →
        f.fma rm a b c = (nan, nv [a, b, c]))
    -- infinities
    ∧ (∀ s, a = .inf s →
      f.write rm a = (infinity s, 0) ∧ (f.sqrt rm a = if s then (nan, 16) else (infinity false, 0))
      ∧ (∀ u, b = .inf u → f.add rm a b = (if s = u then (infinity s, 0) else (nan, 16))
          ∧ f.sub rm a b = (if s = u then (nan, 16) else (infinity s, 0))
          ∧ f.mul rm a b = (infinity (s != u), 0) ∧ f.div rm a b = (nan, 16)
          ∧ f.min rm a b = (infinity (s || u), 0) ∧ f.max rm a b = (infinity (s && u), 0)
          ∧ ∀ i, fcmpCond i a b = (if i = 0 then s == u else if i = 1 then s != u else if i = 2 then s && !u
              else if i = 3 then s || !u else false, 0))
      ∧ (∀ u y, b.Is u y → f.add rm a b = (infinity s, 0) ∧ f.add rm b a = (infinity s, 0) ∧ f.sub rm a b = (infinity s, 0)
          ∧ f.sub rm b a = (infinity !s, 0) ∧ f.div rm a b = (infinity (s != u), 0) ∧ f.div rm b a = (sign (s != u), 0)
          ∧ (f.mul rm a b = if y = 0 then (nan, 16) else (infinity (s != u), 0)) ∧ f.mul rm b a = f.mul rm a b
          ∧ (y = 0 → f.fma rm a b c = (nan, 16) ∧ f.fma rm b a c = (nan, 16))
          ∧ f.min rm a b = (if s then (infinity true, 0) else f.write rm b) ∧ f.max rm a b = (if s then f.write rm b else (infinity false, 0))
          ∧ f.min rm b a = f.min rm a b ∧ f.max rm b a = f.max rm a b
          ∧ (∀ i, fcmpCond i a b = (if i = 1 then true else if i = 2 ∨ i = 3 then s else false, 0))
          ∧ ∀ i, fcmpCond i b a = (if i = 1 then true else if i = 2 ∨ i = 3 then !s else false, 0))
      ∧ (∀ u x y, (b = .inf u ∨ b.Is u y ∧ y ≠ 0) → (c = .inf x ∨ ∃ z, c.Is x z) →
          f.fma rm a b c = (if c = .inf x ∧ x ≠ (s != u) then (nan, 16) else (infinity (s != u), 0))))
    ∧ (∀ s, c = .inf s → finite a → finite b → f.fma rm a b c = (infinity s, 0))
    -- classes
    ∧ (let e := n / 2 ^ F.fb % 2 ^ F.eb
      let s := n.testBit (F.eb + F.fb)
      let frac := n % 2 ^ F.fb
      F.classMask n = if e = 2 ^ F.eb - 1 then (if frac = 0 then (if s then 1 else 128) else if n.testBit (F.fb - 1) then 512 else 256)
        else if e = 0 then (if frac = 0 then (if s then 8 else 16) else if s then 4 else 32) else if s then 2 else 64)
    -- conversions
    ∧ convert (.float F) (.float f) rm n = (BitVec.ofNat 64 (f.write rm a).1, (f.write rm a).2)
    ∧ (∀ (w u : IFmt), w.w ∈ [8, 16, 32, 64] → u.w ∈ [8, 16, 32, 64] →
      let low (i : IFmt) : Int := if i.signed then -(2 : Int) ^ (i.w - 1) else 0
      let high (i : IFmt) : Int := if i.signed then (2 : Int) ^ (i.w - 1) - 1 else (2 : Int) ^ i.w - 1
      let z := w.read n
      (low w ≤ z ∧ z ≤ high w ∧ ((2 : Int) ^ w.w) ∣ z - n)
      ∧ (∃ y, low u ≤ y ∧ y ≤ high u ∧ ((2 : Int) ^ u.w) ∣ z - y ∧ convert (.int w) (.int u) rm n = (BitVec.ofInt 64 y, 0))
      ∧ (∃ r, convert (.int w) (.float f) rm n = (BitVec.ofNat 64 r.1, r.2) ∧ (z = 0 → r = (0, 0)) ∧ (z ≠ 0 → f.RoundsTo rm (z : ℚ) r))
      ∧ (a.isNan = true → convert (.float F) (.int w) rm n = (0, 16))
      ∧ (∀ s, a = .inf s → convert (.float F) (.int w) rm n = (BitVec.ofInt 64 (if s then low w else high w), 16))
      ∧ (∀ s x, a.Is s x → ∃ y, RoundsInt rm x y ∧ convert (.float F) (.int w) rm n =
          (if high w < y then (BitVec.ofInt 64 (high w), 16) else if y < low w then (BitVec.ofInt 64 (low w), 16)
            else (BitVec.ofInt 64 y, if (y : ℚ) = x then 0 else 1))))
    -- block formats
    ∧ (∀ vs : List FVal, (∃ v ∈ vs, ∀ s x, ¬ v.Is s x) → blockExp vs = 255)
    ∧ (∀ vs : List FVal, (∀ v ∈ vs, ∃ s, v.Is s 0) → blockExp vs = 0)
    ∧ (∀ (vs : List FVal) (t : Int), (∀ v ∈ vs, ∃ s x, v.Is s x ∧ |x| < (2 : ℚ) ^ (t + 1)) → (∃ v ∈ vs, ∃ s x, v.Is s x ∧ (2 : ℚ) ^ t ≤ |x|) →
        blockExp vs = (if t + 128 < 0 then 0 else if 254 < t + 128 then 254 else (t + 128).toNat))
    ∧ (∀ (E w : Nat), 2 ≤ w → w ≤ 8 →
      let low : Int := -(2 : Int) ^ (w - 1)
      let high : Int := (2 : Int) ^ (w - 1) - 1
      (∀ r, encElem a 255 w r = (0, 0))
      ∧ (∀ z, decElem z 255 w = .nan false)
      ∧ (E < 255 → rm < 2 → (a.isNan = true → encElem a E w rm = (0, 16))
        ∧ (∀ s, a = .inf s → encElem a E w rm = (if s then low else high, 5))
        ∧ (∀ s x, a.Is s x → ∃ z, RoundsInt rm (x * (2 : ℚ) ^ ((w : Int) - 1 + 127 - E)) z ∧
            let y := if high < z then high else if z < low then low else z
            (encElem a E w rm).1 = y
            ∧ (encElem a E w rm).2 = (if z < low ∨ high < z then 5 else if (z : ℚ) = x * (2 : ℚ) ^ ((w : Int) - 1 + 127 - E) then 0 else 1)
                + (if x ≠ 0 ∧ y = 0 then 2 else 0)))
      ∧ (E < 255 → ∀ z : Int, (decElem z E w).Is (decide (z < 0)) ((z : ℚ) * (2 : ℚ) ^ ((E : Int) - 127 - ((w : Int) - 1)))))
    -- lanes
    ∧ (∀ s x, (f32.read n).Is s x →
      (x ≠ 0 → f32.RoundsTo rm (1 / x) (laneRcp rm (f32.read n)))
      ∧ (x = 0 → laneRcp rm (f32.read n) = ((if s then 0xFF800000 else 0x7F800000), 8)
          ∧ laneRsqrt rm (f32.read n) = ((if s then 0xFF800000 else 0x7F800000), 8))
      ∧ (0 < x → f32.Rounds rm false (fun q => q < 0 ∨ q * q * x < 1) (fun q => 0 ≤ q ∧ 1 < q * q * x) (laneRsqrt rm (f32.read n)))
      ∧ (x < 0 → laneRsqrt rm (f32.read n) = (0x7FC00000, 16))
      ∧ (∀ j : Int, x = j → -1024 < j → j < 1024 → f32.RoundsTo rm ((2 : ℚ) ^ j) (laneExp2 rm (f32.read n)))
      ∧ (1024 ≤ x → laneExp2 rm (f32.read n) = (if rm = 1 ∨ rm = 2 then 0x7F7FFFFF else 0x7F800000, 5))
      ∧ (x ≤ -1024 → laneExp2 rm (f32.read n) = (if rm = 3 then 1 else 0, 3))
      ∧ (-1024 < x → x < 1024 → (∀ j : Int, x ≠ j) → ∃ y : ℚ, 0 < y ∧ (y : ℝ) ≤ (2 : ℝ) ^ (x : ℝ)
          ∧ (2 : ℝ) ^ (x : ℝ) < (y : ℝ) * (1 + (2 : ℝ) ^ (-200 : ℤ))
          ∧ f32.Rounds rm false (· ≤ y) (y < ·) (laneExp2 rm (f32.read n))))
    ∧ (∀ s, f32.read n = .inf s → laneRcp rm (f32.read n) = ((if s then 0x80000000 else 0), 0)
        ∧ laneRsqrt rm (f32.read n) = (if s then (0x7FC00000, 16) else (0, 0))
        ∧ laneExp2 rm (f32.read n) = ((if s then 0 else 0x7F800000), 0))
    ∧ (∀ q, f32.read n = .nan q → ∀ r ∈ [laneRcp rm (f32.read n), laneRsqrt rm (f32.read n), laneExp2 rm (f32.read n)],
        r = (0x7FC00000, if q then 16 else 0))
    ∧ (∀ (xs ys : List FVal) (ps : List (ℚ × Bool)) (acc : FVal) (z : ℚ) (nz : Bool),
        xs.length = ps.length → ys.length = ps.length → acc.Is nz z →
        (∀ i p, ps[i]? = some p → ∃ x y nx ny, (xs.getD i acc).Is nx x ∧ (ys.getD i acc).Is ny y ∧ p = (x * y, nx != ny)) →
        let sum := (ps.map (·.1)).sum + z
        (sum ≠ 0 → f32.RoundsTo rm sum (dotF rm xs ys acc))
        ∧ (sum = 0 → dotF rm xs ys acc =
            (if nz = true ∧ (∀ p ∈ ps, p.2 = true) ∨ rm = 2 ∧ ¬ (nz = false ∧ ∀ p ∈ ps, p.2 = false) then 0x80000000 else 0, 0)))

/-! ### Control -/

/-- A branch that compares two operands and whose condition holds goes to its target, four times the offset from its own
address, not ready before two cycles and the stall count have passed; else the next word follows.  Nothing but the context's
own course changes. j, jal and jr go to their targets; jal and jr deliver the address of the next word, jal to g31; a jr to
an address that is no multiple of 4 traps with cause 91 and does nothing else (spec/04_scalar.md). -/
def Obligations.BranchesAndJumpsGoToTheirTargets : Prop :=
  (∀ (s : State) (S : Stall) (a b : Opnd) (o : BitVec 10),
    let x := s.opnd a
    let y := s.opnd b
    let target : BitVec 52 := BitVec.ofInt 52 (s.cur.pc.toNat + 4 * o.toInt)
    let goes (i : Instr) (taken : Prop) : Prop :=
      ∃ t, exec i s = .next t
        ∧ (taken → OnlyCur s (s.cur.jumped target s.now S) 0 t) ∧ (¬ taken → OnlyCur s (s.cur.issued s.now S) 0 t)
    (s.clear [a, b] →
      goes (.bcEq S a b o) (x = y) ∧ goes (.bcNe S a b o) (x ≠ y)
      ∧ goes (.bcLt S a b o) (x.toInt < y.toInt) ∧ goes (.bcLtc S a b o) (x.toNat < y.toNat)
      ∧ goes (.bcLe S a b o) (x.toInt ≤ y.toInt) ∧ goes (.bcLec S a b o) (x.toNat ≤ y.toNat)))
  ∧ (∀ (s : State) (S : Stall) (d a : Opnd) (o : BitVec 22),
    let target : BitVec 52 := BitVec.ofInt 52 (s.cur.pc.toNat + 4 * o.toInt)
    let x := s.opnd a
    let link : Word := BitVec.ofNat 64 ((s.cur.pc.toNat + 4) % 2 ^ 52)
    (s.clear [] →
      (∃ t, exec (.j S o) s = .next t ∧ OnlyCur s (s.cur.jumped target s.now S) 0 t)
      ∧ GivesIn (exec (.jal S o) s) s (s.cur.jumped target s.now S) 0x1F link (s.now + 1) 0)
    ∧ (s.clear [a] →
      (x.toNat % 4 = 0 →
        GivesIn (exec (.jr S d a) s) s (s.cur.jumped (x.setWidth 52) s.now S) d link (s.readable 1 [a]) 0)
      ∧ (x.toNat % 4 ≠ 0 → exec (.jr S d a) s = .next (s.exact 91 x.toNat))))

/-- stall holds back the next word by its count beyond its stall count; pfx latches its fields for the next word; neither
does anything else. add, mul, div, addi, j and eret, which take no prefix, halt their context with cause 7 where one is latched; fadd,
fma, ld and ldg, which take one, halt it with cause 6 where they do not accept the codes; each sends the fault message of an illegal
word. That a word consumes the prefix is stated with each word's result; what the codes say to which word, with that word
(spec/02_encoding.md, spec/04_scalar.md). -/
def Obligations.PrefixesAreLatchedOrRefused : Prop :=
  (∀ (s : State) (S : Stall) (n : BitVec 16) (fa fb : BitVec 6) (fd : BitVec 4) (ro : BitVec 2),
    s.cur.prefixed = false → 
    (∃ t, exec (.stall S n) s = .next t
      ∧ OnlyCur s { s.cur.issued s.now S with readyAt := s.now + 1 + S.toNat + n.toNat } 0 t)
    ∧ (s.inExchange = false →
      ∃ t, exec (.pfx S fa fb fd ro) s = .next t ∧ OnlyCur s { s.cur.issued s.now S with st := t.cur.st } 0 t
        ∧ t.cur.pfx = ⟨fa.toNat, fb.toNat, fd.toNat, ro.toNat⟩ ∧ t.cur.prefixed = true
        ∧ ∀ i, i ≠ 9 → (i < 16 ∨ 34 ≤ i) → t.cur.st.getLsbD i = (s.cur.issued s.now S).st.getLsbD i))
  ∧ (∀ (s : State) (S : Stall) (d a b : Opnd) (i : BitVec 10) (o : BitVec 22),
    (s.cur.prefixed = true →
      exec (.add S d a b) s = .next (s.illegalHalt 7 s.code) ∧ exec (.mul S d a b) s = .next (s.illegalHalt 7 s.code)
      ∧ exec (.div S d a b) s = .next (s.illegalHalt 7 s.code) ∧ exec (.addi S d a i) s = .next (s.illegalHalt 7 s.code)
      ∧ exec (.j S o) s = .next (s.illegalHalt 7 s.code) ∧ exec (.eret S) s = .next (s.illegalHalt 7 s.code))
    ∧ (arithAccepts s.cur.pfx = false →
      exec (.fadd S d a b) s = .next (s.illegalHalt 6 s.code) ∧ exec (.fma S d a b) s = .next (s.illegalHalt 6 s.code))
    ∧ (memAccepts s.cur.pfx = false →
      exec (.ld S d b i) s = .next (s.illegalHalt 6 s.code) ∧ exec (.ldg S d b i) s = .next (s.illegalHalt 6 s.code)))

/-- rpt captures the words after it and begins its frame at word 0 of pass 0, the pc still on it; captured words that may not
stand in a frame, or that do not take the prefix before them, halt it with cause 8; a captured word whose translation is missing waits for its walk, and one that cannot
be fetched takes the fetch fault with the pc on the rpt. On pass k each field of a captured word that the mask selects and that holds an
operand code stands k times the stride further on, a scalar code within its partition and never from g0, a vector code within v0 to
v47; no other bit of the word changes. A context in a frame goes from captured word to captured word, from
pass to pass, and after the last word of the last pass to the word behind the frame; outside a frame it goes to the next word
(spec/02_encoding.md, spec/04_scalar.md).
The model's choices it rests on: log entries 14 and 114. -/
def Obligations.RepeatFramesAreCapturedAndRun : Prop :=
  (∀ (s : State) (S m : BitVec 3) (c t : BitVec 4) (p : BitVec 10), s.clear [] →
    let i : Instr := .rpt S m c t p
    let run := s.fetchRun s.cc (s.cur.pc + 4) (c.toNat + 1)
    (∀ ws, run = .ok ws → frameOk ws = true →
      ∃ (w : Code) (u : State), encode i = some w ∧ exec i s = .next u
        ∧ OnlyCur s { s.cur with frame := ws, frameRpt := w, st := u.cur.st, readyAt := s.now + 1 + S.toNat,
                                 issuedAt := s.now } 0 u
        ∧ u.cur.inFrame = true ∧ u.cur.rfWord = 0 ∧ u.cur.rfPass = 0
        ∧ rptCount w = c.toNat + 1 ∧ rptPasses w = p.toNat + 1 ∧ rptStride w = t.toNat ∧ rptMask w = m.toNat
        ∧ ∀ k, (k < 48 ∨ k = 63) → u.cur.st.getLsbD k = s.cur.st.getLsbD k)
    ∧ (∀ ws, run = .ok ws → frameOk ws = false → exec i s = .next (s.illegalHalt 8 s.code))
    ∧ (∀ va, run = .error (va, .miss) → exec i s = .next (s.startWalk s.cc s.cx va.toNat 4))
    ∧ (∀ va k, run = .error (va, .bad k) →
        exec i s = .next (s.takeTrap s.cc s.cx { kind := 1, cause := k, addr := va.toNat })))
  ∧ (∀ (t : Ctx) (now : Nat) (S : Stall),
    let u := t.issued now S
    let n := rptCount t.frameRpt
    let m := rptPasses t.frameRpt
    u.prefixed = false ∧ u.readyAt = now + 1 + S.toNat
    ∧ (t.inFrame = false → u.pc = t.pc + 4 ∧ u.inFrame = false ∧ u.frame = t.frame)
    ∧ (t.inFrame = true → t.rfWord + 1 < n →
        u.pc = t.pc ∧ u.inFrame = true ∧ u.rfWord = t.rfWord + 1 ∧ u.rfPass = t.rfPass ∧ u.frame = t.frame)
    ∧ (t.inFrame = true → n ≤ t.rfWord + 1 → t.rfPass + 1 < m →
        u.pc = t.pc ∧ u.inFrame = true ∧ u.rfWord = 0 ∧ u.rfPass = t.rfPass + 1 ∧ u.frame = t.frame)
    ∧ (t.inFrame = true → n ≤ t.rfWord + 1 → m ≤ t.rfPass + 1 →
        u.pc = t.pc + BitVec.ofNat 52 (4 * (n + 1)) ∧ u.inFrame = false ∧ u.frame = []))
  ∧ (∀ (rpt w : Code) (k : Nat) (i : Instr), decode w = .instr i →
    let v := staggered rpt w k
    let bits (x : Code) (lo n : Nat) : Nat := x.toNat / 2 ^ lo % 2 ^ n
    let sk := rptStride rpt * k
    let scalar (sel lo : Nat) : Prop :=
      let f := bits w lo 6
      bits v lo 6 = if rptMask rpt / sel % 2 = 1 ∧ 1 ≤ f ∧ f ≤ 0x1F then f / 16 * 16 + (f % 16 + sk) % 16 else f
    let vector (sel lo : Nat) : Prop :=
      let f := bits w lo 6
      bits v lo 6 = if rptMask rpt / sel % 2 = 1 ∧ f ≤ 47 then (f + sk) % 48 else f
    let same (lo n : Nat) : Prop := bits v lo n = bits w lo n
    same 22 10 ∧ same 0 4
    ∧ (frameRoles i = none → v = w)
    ∧ (∀ S d a b r, i ∈ [Instr.add S d a b, .sub S d a b, .and S d a b, .or S d a b, .xor S d a b, .andn S d a b, .shl S d a b,
          .shr S d a b, .sar S d a b, .rot S d a b, .min S d a b, .minc S d a b, .max S d a b, .maxc S d a b, .sel S d a b, .mul S d a b,
          .mulh S d a b, .mulhc S d a b, .div S d a b, .divc S d a b, .rem S d a b, .remc S d a b, .cmp S d a b r, .fadd S d a b,
          .fsub S d a b, .fmul S d a b, .fdiv S d a b, .fmin S d a b, .fmax S d a b, .fma S d a b, .bxenc S d a b, .bxdec S d a b] →
        scalar 4 16 ∧ scalar 2 10 ∧ scalar 1 4)
    ∧ (∀ S d a b r, i = .fcmp S d a b r → scalar 4 16 ∧ scalar 2 10 ∧ scalar 1 4)
    ∧ (∀ S d a n, i ∈ [Instr.clz S d a, .ctz S d a, .popc S d a, .bswap S d a, .mov S d a, .addi S d a n, .andi S d a n, .ori S d a n,
          .xori S d a n, .fsqrt S d a, .fneg S d a, .fclass S d a, .cvt S d a, .bxexp S d a] →
        scalar 4 16 ∧ scalar 2 10 ∧ same 4 6)
    ∧ (∀ S d a n, i ∈ [Instr.shli S d a n, .shri S d a n, .sari S d a n] → scalar 4 16 ∧ scalar 2 10 ∧ same 4 6)
    ∧ (∀ S d n, i ∈ [Instr.li S d n, .lsh S d n] → scalar 4 16 ∧ same 10 6 ∧ same 4 6)
    ∧ (∀ S d a b m, i ∈ [Instr.vadd S d a b m, .vsub S d a b m, .vmul S d a b m, .vfma S d a b m, .vmin S d a b m, .vmax S d a b m,
          .vand S d a b m, .vor S d a b m, .vxor S d a b m, .vshl S d a b m, .vshr S d a b m, .vsar S d a b m, .vsel S d a b m] →
        vector 4 16 ∧ vector 2 10 ∧ (m = 1 → scalar 1 4) ∧ (m ≠ 1 → vector 1 4))
    ∧ (∀ S d a b m r, i = .vcmp S d a b m r → vector 4 16 ∧ vector 2 10 ∧ (m = 1 → scalar 1 4) ∧ (m ≠ 1 → vector 1 4))
    ∧ (∀ S d a, i ∈ [Instr.vabs S d a, .vneg S d a, .vcvt S d a, .vrcp S d a, .vrsqrt S d a, .vexp2 S d a] →
        vector 4 16 ∧ vector 2 10 ∧ same 4 6)
    ∧ (∀ S d b, i = .vbcast S d b → vector 4 16 ∧ same 10 6 ∧ scalar 1 4)
    ∧ (∀ S d a b, i = .vdot4 S d a b → vector 4 16 ∧ vector 2 10 ∧ vector 1 4)
    ∧ (∀ S c a b x y m, i = .mma S c a b x y m → same 16 6 ∧ scalar 2 10 ∧ scalar 1 4)
    ∧ (∀ S x y z r, i = .pfx S x y z r → v = w))

/-! ### Local stores -/

/-- ld and ldx read the width of their format at base plus offset or index: the value of the bytes, extended by its
signedness, is readable after 3 cycles from the own store; a load from a sibling store is sent to its bank and is readable
after 6; a bad address traps exactly.  No byte, register or flag changes but for the result. st and stx write the low bytes
of their value at base plus offset or index: in the own store at issue, every other byte as before (but, with rollback, the
undo log from 0x58000 up); to a sibling store the write is sent to its bank.  A guarded range holds the store back, a bad
address traps exactly, and no register or flag changes (spec/06_memory.md).
The model's choices it rests on: log entries 10 and 11. -/
def Obligations.LocalAccessesReadAndWriteTheirAddress : Prop :=
  (∀ (s : State) (S : Stall) (d a b : Opnd) (o : BitVec 10) (i : Instr) (addr : Nat) (reads : List Opnd),
    (i = .ld S d b o ∧ addr = offsetAddress s b o ∧ reads = [b]
      ∨ i = .ldx S d a b ∧ addr = indexAddress s a b ∧ reads = [a, b]) →
    s.clearPfx memAccepts reads →
    let f := memFmt s.cur.pfx
    let w := f.w / 8
    (∀ k, localFault s addr w = some k → exec i s = .next (s.exact k addr))
    ∧ ∀ c x, localFault s addr w = none → localPlace s.cc addr = some (c, x) →
      (s.localFree c = false → exec i s = .next s.hold)
      ∧ (s.localFree c = true → c = s.cc →
          GivesIn (exec i s) s { s.cur.issued s.now S with localTo := c, localAt := s.now + 2 } d
            (extend w f.signed (ofBytes ((s.core c).lbytes x w))) (s.now + 3) 0)
      ∧ (s.localFree c = true → c ≠ s.cc →
          ∃ t p, exec i s = .next t
            ∧ t = (s.setCore s.cc { (s.curCore.setCtx s.cx t.cur) with
                sibs := s.curCore.sibs ++ [⟨s.now + 3, s.cx, c, x, w, f.signed, .load, 0, 0, s.nextId⟩]
                netAt := s.now + 1 }).useId
            ∧ t.cur = { s.cur.issued s.now S with
                        head := s.cur.head - 1, localTo := c, localAt := s.now + 4,
                        pend := s.cur.pend.map (·.yield (s.cur.head - 1).toNat (destReg d)) ++ [p] }
            ∧ p.id = s.nextId ∧ p.val = none ∧ p.slot = some (s.cur.head - 1).toNat ∧ p.reg = destReg d
            ∧ p.slotAt = s.now + 6 ∧ (∀ r, p.reg = some r → p.regAt = s.now + 6 + (if 16 ≤ r then 2 else 0))))
  ∧ (∀ (s : State) (S : Stall) (v a b : Opnd) (o : BitVec 10) (i : Instr) (addr : Nat) (reads : List Opnd),
    (i = .st S v b o ∧ addr = offsetAddress s b o ∧ reads = [v, b]
      ∨ i = .stx S v a b ∧ addr = indexAddress s a b ∧ reads = [v, a, b]) →
    s.clearPfx memAccepts reads → regionsAligned s.curCore.regions →
    let w := (memFmt s.cur.pfx).w / 8
    (∀ k, localFault s addr w = some k → exec i s = .next (s.exact k addr))
    ∧ ∀ c x, localFault s addr w = none → localPlace s.cc addr = some (c, x) →
      (s.localFree c = false ∨ s.guarded c x w = true → exec i s = .next s.hold)
      ∧ (s.localFree c = true → s.guarded c x w = false → c = s.cc →
          ∃ t, exec i s = .next t
            ∧ (∀ y, (s.rbe c = true → y < 0x58000) → (t.core c).lbyte y =
                if x ≤ y ∧ y < x + w then BitVec.ofNat 8 ((s.opnd v).toNat / 256 ^ (y - x)) else (s.core c).lbyte y)
            ∧ t.cur = { s.cur.issued s.now S with localTo := c, localAt := s.now + 2 }
            ∧ (∀ y, y ≠ s.cx → t.ctxAt s.cc y = s.ctxAt s.cc y) ∧ (∀ d, d ≠ s.cc → t.core d = s.core d)
            ∧ t.mem = s.mem ∧ (t.core c).vec = (s.core c).vec ∧ (t.core c).mat.acc = (s.core c).mat.acc)
      ∧ (s.localFree c = true → s.guarded c x w = false → c ≠ s.cc →
          exec i s = .next (s.setCore s.cc
            { (s.curCore.setCtx s.cx { s.cur.issued s.now S with localTo := c, localAt := s.now + 4 }) with
              sibs := s.curCore.sibs ++ [⟨s.now + 3, s.cx, c, x, w, (memFmt s.cur.pfx).signed, .store,
                (s.opnd v).toNat, 0, 0⟩]
              netAt := s.now + 1 })))

/-- A sibling access performs at the bank of its target: a load takes the bytes it finds there as the value of its pending
result, a store writes them, an atomic does both, and what it finds is its result. lsr sets a region descriptor, from the
word after it on; a base, size or end out of range traps with cause 10 and changes nothing else (spec/07_atomics.md,
spec/06_memory.md).
The model's choices it rests on: log entries 10, 11 and 118. -/
def Obligations.SiblingAccessesAndRegions : Prop :=
  (∀ (s : State) (core : Nat) (b : Sib), regionsAligned (s.core b.target).regions → b.width ≤ 8 →
    let old := ofBytes ((s.core b.target).lbytes b.addr b.width)
    let t := s.sibPerform core b
    (b.op = .load → (∀ y, (t.core b.target).lbyte y = (s.core b.target).lbyte y)
      ∧ t.ctxAt core b.ctx = (s.ctxAt core b.ctx).setVal b.id (extend b.width b.signed old))
    ∧ (∀ n, b.op = .store ∧ n = b.v ∨ (∃ op, b.op = .atomic op ∧ n = atomicNew op b.width b.signed old b.v b.u) →
        ∀ y, (s.rbe b.target = true → y < 0x58000) → (t.core b.target).lbyte y =
          if b.addr ≤ y ∧ y < b.addr + b.width then BitVec.ofNat 8 (n / 256 ^ (y - b.addr)) else (s.core b.target).lbyte y)
    ∧ (∀ op, b.op = .atomic op →
        t.ctxAt core b.ctx = (s.ctxAt core b.ctx).setVal b.id (extend b.width b.signed old))
    ∧ t.mem = s.mem)
  ∧ (∀ (s : State) (S n p : BitVec 3) (b z : Opnd), s.clear [b, z] →
    let base := (s.opnd b).toNat
    let size := (s.opnd z).toNat
    let good := base % 4096 = 0 ∧ base < 0x60000 ∧ size ≤ 96 ∧ base + 4096 * size ≤ 0x60000
    (¬ good → exec (.lsr S b z n p) s = .next (s.exact 10 0))
    ∧ (good → s.localFree s.cc = false → exec (.lsr S b z n p) s = .next s.hold)
    ∧ (good → s.localFree s.cc = true →
        ∃ t, exec (.lsr S b z n p) s = .next t
          ∧ t.cur = { s.cur.issued s.now S with localTo := s.cc, localAt := s.now + 2 }
          ∧ (∀ k, SMap.get {} t.curCore.regions k =
              if k = n.toNat then ⟨base, size, p.toNat⟩ else SMap.get {} s.curCore.regions k)
          ∧ t.curCore.ls = s.curCore.ls ∧ t.mem = s.mem ∧ (∀ d, d ≠ s.cc → t.core d = s.core d)
          ∧ (regionsAligned s.curCore.regions → regionsAligned t.curCore.regions)))

/-! ### Global memory -/

/-- ldg, ldgx and ldg.acq translate their address, count one more load in ldc, leave their result pending and send the
request to the home slice; the next word of an acquire waits for the result.  A bad address traps exactly, a miss waits for
its walk, and a full ldc holds the word back. stg, stg.rel and wbk translate their address, count one more store in stc and
send the request; a release waits for the context's earlier accesses of its scope.  No byte, register or flag changes at
issue (spec/06_memory.md).
The model's choices it rests on: log entries 17, 19, 21, 22 and 116. -/
def Obligations.GlobalAccessesAreCountedAndSent : Prop :=
  (∀ (s : State) (S : Stall) (d a b : Opnd) (o : BitVec 10) (sc : BitVec 3) (i : Instr) (addr : Nat) (f : IFmt) (acq : Bool),
    (i = .ldg S d b o ∧ addr = offsetAddress s b o ∧ f = memFmt s.cur.pfx ∧ acq = false ∧ s.clearPfx memAccepts [b]
      ∨ i = .ldgx S d a b ∧ addr = (s.opnd a + 8 * s.opnd b).toNat ∧ f = ⟨64, false⟩ ∧ acq = false ∧ s.clear [a, b]
      ∨ i = .ldgAcq S d a sc ∧ addr = (s.opnd a).toNat ∧ f = memFmt s.cur.pfx ∧ acq = true ∧ s.clearPfx memAccepts [a]) →
    let w := f.w / 8
    let id := s.nextId
    (32 ≤ s.cur.ld.length → exec i s = .next s.hold)
    ∧ (s.cur.ld.length < 32 → heldUp s addr w 1 (exec i s))
    ∧ (s.cur.ld.length < 32 → ∀ dst, goesTo s addr w 1 dst →
        ∃ t, exec i s = .next t ∧ AccessFrame s t
          ∧ Sent s t .globalAccessAtSlice { request s .load addr w dst with signed := f.signed, acq := acq }
          ∧ pendingFor s.cur t.cur d id
          ∧ t.cur = { s.cur.issued s.now S with
                      head := t.cur.head, pend := t.cur.pend, ld := s.cur.ld ++ [counted id dst true],
                      wait := if acq then .arrival id else s.cur.wait }))
  ∧ (∀ (s : State) (S : Stall) (v a b : Opnd) (o : BitVec 10) (sc : BitVec 3) (i : Instr) (addr w need : Nat) (r : Dest → Req),
    (i = .stg S v b o ∧ addr = offsetAddress s b o ∧ w = (memFmt s.cur.pfx).w / 8 ∧ need = 2 ∧ s.clearPfx memAccepts [v, b]
        ∧ r = (fun d => { request s .store addr w d with v := (s.opnd v).toNat, waitLocal := s.cur.localAt })
      ∨ i = .stgRel S v a sc ∧ addr = (s.opnd a).toNat ∧ w = (memFmt s.cur.pfx).w / 8 ∧ need = 2
        ∧ s.clearPfx memAccepts [v, a]
        ∧ r = (fun d => { request s .store addr w d with
                          v := (s.opnd v).toNat, waitLocal := s.cur.localAt, scope := some sc.toNat,
                          waitsFor := s.cur.releaseWaits sc.toNat s.cc })
      ∨ i = .wbk S a ∧ addr = (s.opnd a).toNat ∧ w = 1 ∧ need = 18 ∧ s.clear [a] ∧ r = request s .wbk addr 1) →
    (64 ≤ s.cur.stq.length → exec i s = .next s.hold)
    ∧ (s.cur.stq.length < 64 → heldUp s addr w need (exec i s))
    ∧ (s.cur.stq.length < 64 → ∀ dst, goesTo s addr w need dst →
        ∃ t, exec i s = .next t ∧ AccessFrame s t ∧ Sent s t .globalAccessAtSlice (r dst)
          ∧ t.cur = { s.cur.issued s.now S with stq := s.cur.stq ++ [counted s.nextId dst false] }))

/-- pref is a hint: with a translation in the cache it sends one request to the home slice; without one its word waits for the
walk; where the translation fails it only goes on.  It never traps and is counted in no counter of its context. waitc goes on where its counter is low enough; else its pc stays and the context waits.
waitv sends a watch of the word's address and parks after the word (spec/06_memory.md).
The model's choices it rests on: log entry 21. -/
def Obligations.PrefetchesAndWaits : Prop :=
  (∀ (s : State) (S : Stall) (a : Opnd), s.clear [a] →
    let addr := (s.opnd a).toNat
    let x := s.xlateCur addr 17
    (∀ pa leaf, x = .hit pa leaf →
      ∃ t, exec (.pref S a) s = .next t ∧ t.cur = s.cur.issued s.now S ∧ AccessFrame s t
        ∧ Sent s t .globalAccessAtSlice (request s .pref addr 1 (.here pa)))
    ∧ (∀ k, x = .bad k → ∃ t, exec (.pref S a) s = .next t ∧ OnlyCur s (s.cur.issued s.now S) 0 t)
    ∧ (x = .miss → exec (.pref S a) s = .next (s.startWalk s.cc s.cx addr (hintNeed S))))
  ∧ (∀ (s : State) (S k : BitVec 3) (n v a : Opnd),
    (s.clear [n] →
      let limit := (s.opnd n).toNat
      let count := match k.toNat with
        | 0 => s.cur.ld.length | 1 => s.cur.stq.length | 2 => s.cur.enc | 3 => s.cur.mbc | _ => s.cur.vqc
      (count ≤ limit → ∃ t, exec (.waitc S n k) s = .next t ∧ OnlyCur s (s.cur.issued s.now S) 0 t)
      ∧ (limit < count → ∃ t, exec (.waitc S n k) s = .next t
          ∧ OnlyCur s { s.cur with wait := .counter k.toNat limit, readyAt := s.now + 1 + S.toNat, issuedAt := s.now } 0 t))
    ∧ (s.clear [v, a] →
      let addr := (s.opnd a).toNat
      heldUp s addr 8 1 (exec (.waitv S v a) s)
      ∧ ∀ dst, goesTo s addr 8 1 dst →
        ∃ t, exec (.waitv S v a) s = .next t ∧ AccessFrame s t
          ∧ Sent s t .watchArrival { request s .watch addr 8 dst with v := (s.opnd v).toNat }
          ∧ t.cur = { s.cur.issued s.now S with wait := .watch s.nextId }))

/-- Each atomic of its ten on the own store reads the old word, writes the new one and delivers the old, readable after 4
cycles; on a sibling store it is sent to its bank; on global memory it is counted in ldc, its result is pending and its
request is sent, with the order and scope of its word. The new word of each atomic is the one of its table
(spec/07_atomics.md).
The model's choices it rests on: log entry 10. -/
def Obligations.AtomicsReadModifyWrite : Prop :=
  (∀ (s : State) (S : Stall) (d a : Opnd) (o : BitVec 2) (c : BitVec 3) (l : BitVec 1) (i : Instr) (op : Nat) (reads : List Opnd),
    ((i, op) = (.aadd S d a o c l, 0) ∨ (i, op) = (.aand S d a o c l, 1) ∨ (i, op) = (.aor S d a o c l, 2)
      ∨ (i, op) = (.axor S d a o c l, 3) ∨ (i, op) = (.amin S d a o c l, 4) ∨ (i, op) = (.amax S d a o c l, 5)
      ∨ (i, op) = (.aswp S d a o c l, 6) ∨ (i, op) = (.acas S d a o c l, 7) ∨ (i, op) = (.aincw S d a o c l, 8)
      ∨ (i, op) = (.abadd S d a o c l, 9)) →
    reads = (if op = 8 then [a, 0x21] else if op = 7 ∨ op = 9 then [a, 0x20, 0x21] else [a, 0x20]) →
    s.clearPfx (atomAccepts (8 ≤ op)) reads →
    let f := atomFmt (8 ≤ op) s.cur.pfx
    let w := f.w / 8
    let addr := (s.opnd a).toNat
    let v := (s.cur.q 1).toNat % 2 ^ f.w
    let u := (s.cur.q 2).toNat % 2 ^ f.w
    (l = 1 →
      (∀ k, localFault s addr w = some k → exec i s = .next (s.exact k addr))
      ∧ ∀ t x, localFault s addr w = none → localPlace s.cc addr = some (t, x) →
        (s.localFree t = false ∨ s.guarded t x w = true → exec i s = .next s.hold)
        ∧ (s.localFree t = true → s.guarded t x w = false → t = s.cc →
            let old := ofBytes ((s.core t).lbytes x w)
            GivesIn (exec i s) (s.lwrite t x w (atomicNew op w f.signed old v u))
              { s.cur.issued s.now S with localTo := t, localAt := s.now + 2 } d (extend w f.signed old) (s.now + 4) 0)
        ∧ (s.localFree t = true → s.guarded t x w = false → t ≠ s.cc →
            ∃ n, exec i s = .next n
              ∧ n.curCore.sibs = s.curCore.sibs ++ [⟨s.now + 3, s.cx, t, x, w, f.signed, .atomic op, v, u, s.nextId⟩]
              ∧ n.curCore.netAt = s.now + 1
              ∧ n.cur.localTo = t ∧ n.cur.localAt = s.now + 4 ∧ n.cur.head = s.cur.head - 1
              ∧ n.mem = s.mem ∧ (∀ c, c ≠ s.cc → n.core c = s.core c)))
    ∧ (l = 0 →
      (32 ≤ s.cur.ld.length → exec i s = .next s.hold)
      ∧ (s.cur.ld.length < 32 → heldUp s addr w 3 (exec i s))
      ∧ (s.cur.ld.length < 32 → ∀ dst, goesTo s addr w 3 dst →
          let rel := 2 ≤ o.toNat
          let acq := o.toNat % 2 = 1
          ∃ t, exec i s = .next t ∧ AccessFrame s t
            ∧ Sent s t .atomicAtSlice { request s (.atomic op) addr w dst with
                signed := f.signed, v := v, u := u, acq := acq, waitLocal := if rel then s.cur.localAt else 0,
                scope := if rel then some c.toNat else none,
                waitsFor := if rel then s.cur.releaseWaits c.toNat s.cc else [] }
            ∧ pendingFor s.cur t.cur d s.nextId
            ∧ t.cur = { s.cur.issued s.now S with
                        head := t.cur.head, pend := t.cur.pend, ld := s.cur.ld ++ [counted s.nextId dst false],
                        wait := if acq then .arrival s.nextId else s.cur.wait })))
  ∧ (∀ (w old v u : Nat), (w = 4 ∨ w = 8) → old < 2 ^ (8 * w) → v < 2 ^ (8 * w) → u < 2 ^ (8 * w) →
    let x : BitVec (8 * w) := BitVec.ofNat _ old
    let y : BitVec (8 * w) := BitVec.ofNat _ v
    (∀ g : Bool,
      BitVec.ofNat (8 * w) (atomicNew 0 w g old v u) = x + y
      ∧ BitVec.ofNat (8 * w) (atomicNew 1 w g old v u) = x &&& y
      ∧ BitVec.ofNat (8 * w) (atomicNew 2 w g old v u) = x ||| y
      ∧ BitVec.ofNat (8 * w) (atomicNew 3 w g old v u) = x ^^^ y
      ∧ BitVec.ofNat (8 * w) (atomicNew 6 w g old v u) = y
      ∧ atomicNew 7 w g old v u = (if old = u then v else old)
      ∧ atomicNew 8 w g old v u = (if u ≤ old then 0 else old + 1)
      ∧ atomicNew 9 w g old v u = (if old < u then (if old + v ≤ u then old + v else u) else old)
      ∧ ∀ op, atomicNew op w g old v u < 2 ^ (8 * w))
    ∧ BitVec.ofNat (8 * w) (atomicNew 4 w true old v u) = (if y.slt x then y else x)
    ∧ BitVec.ofNat (8 * w) (atomicNew 5 w true old v u) = (if x.slt y then y else x)
    ∧ BitVec.ofNat (8 * w) (atomicNew 4 w false old v u) = (if y.ult x then y else x)
    ∧ BitVec.ofNat (8 * w) (atomicNew 5 w false old v u) = (if x.ult y then y else x))

/-- red sends its reduction, counted in stc, with the barrier object it arrives at; barm is a release at device scope, counted
in ldc with its result pending; bwait sends a watch and parks.  A bad object address traps exactly and a miss waits for its
walk (spec/07_atomics.md).
The model's choices it rests on: log entries 27 and 119. -/
def Obligations.ReductionsAndBarrierObjectsAreSent : Prop :=
  ∀ (s : State) (S : Stall) (d a p : Opnd) (x : BitVec 4) (o : BitVec 2) (c : BitVec 3),
    let addr := (s.opnd a).toNat
    (s.clearPfx (redAccepts x.toNat) (if d = 0 then [a, 0x20] else [a, 0x20, d]) →
      let flt := s.cur.pfx.fa == 0x12
      let f : IFmt := if flt then ⟨32, false⟩ else atomFmt false s.cur.pfx
      let w := f.w / 8
      let obj := if d = 0 then ObjAt.absent else s.objectAt (s.opnd d).toNat 2
      (64 ≤ s.cur.stq.length → exec (.red S d a x o c) s = .next s.hold)
      ∧ (s.cur.stq.length < 64 → heldUp s addr w 2 (exec (.red S d a x o c) s))
      ∧ (s.cur.stq.length < 64 → ∀ dst, goesTo s addr w 2 dst →
          (∀ k, obj = .bad k → exec (.red S d a x o c) s = .next (s.exact k (s.opnd d).toNat))
          ∧ (obj = .miss → exec (.red S d a x o c) s = .next (s.startWalk s.cc s.cx (s.opnd d).toNat 2))
          ∧ ∀ at_, (obj = .absent ∧ at_ = none ∨ ∃ pa, obj = .ok pa ∧ at_ = some pa) →
            ∃ t, exec (.red S d a x o c) s = .next t ∧ AccessFrame s t
              ∧ t.cur = { s.cur.issued s.now S with stq := s.cur.stq ++ [counted s.nextId dst false] }
              ∧ Sent s t .reductionAtSlice { request s (.red x.toNat flt) addr w dst with
                  signed := f.signed, v := (s.cur.q 1).toNat % 2 ^ f.w,
                  waitLocal := if o = 2 then s.cur.localAt else 0,
                  scope := if o = 2 then some c.toNat else none,
                  waitsFor := if o = 2 then s.cur.releaseWaits c.toNat s.cc else []
                  obj := at_ }))
    ∧ (s.clear [a] →
      (32 ≤ s.cur.ld.length → exec (.barm S d a) s = .next s.hold)
      ∧ (s.cur.ld.length < 32 → (∀ k, s.objectAt addr 3 = .bad k → exec (.barm S d a) s = .next (s.exact k addr))
        ∧ (s.objectAt addr 3 = .miss → exec (.barm S d a) s = .next (s.startWalk s.cc s.cx addr 3))
        ∧ ∀ pa, s.objectAt addr 3 = .ok pa →
          ∃ t, exec (.barm S d a) s = .next t ∧ AccessFrame s t ∧ pendingFor s.cur t.cur d s.nextId
            ∧ Sent s t .barrierArrival { request s .barm addr 8 (.here pa) with
                waitLocal := s.cur.localAt, scope := some 3, waitsFor := s.cur.releaseWaits 3 s.cc }
            ∧ t.cur = { s.cur.issued s.now S with
                        head := t.cur.head, pend := t.cur.pend, ld := s.cur.ld ++ [counted s.nextId (.here pa) false] }))
    ∧ (s.clear [a, p] →
      (∀ k, s.objectAt addr 1 = .bad k → exec (.bwait S d a p) s = .next (s.exact k addr))
      ∧ (s.objectAt addr 1 = .miss → exec (.bwait S d a p) s = .next (s.startWalk s.cc s.cx addr 1))
      ∧ ∀ pa, s.objectAt addr 1 = .ok pa →
        ∃ t, exec (.bwait S d a p) s = .next t ∧ AccessFrame s t ∧ pendingFor s.cur t.cur d s.nextId
          ∧ Sent s t .watchArrival { request s .bwatch addr 8 (.here pa) with v := (s.opnd p).toNat }
          ∧ t.cur = { s.cur.issued s.now S with head := t.cur.head, pend := t.cur.pend, wait := .watch s.nextId })

/-- A held request leaves once the accesses it waits for have ended and its local accesses have performed, a release not before the
sibling accesses that its context issued before it, which a guarded range may hold back; until then it stays. A request that arrives
at its home slice joins the queue of its line, from which it performs. There a load answers the bytes it finds, extended by its
format, and changes no byte; a store writes the low
bytes of its value and no other byte; a prefetch changes nothing; a request of a stale generation, or for a facet that its
gang does not hold, is answered with its late fault and does nothing. At the reduction unit of its home slice an atomic
answers the old word and leaves the new one; a reduction leaves its new word and is acknowledged; no other byte changes
(spec/07_atomics.md, spec/06_memory.md, spec/14_negotiation.md).
The model's choices it rests on: log entries 22 and 23. -/
def Obligations.RequestsPerformAtTheirHomeSlice : Prop :=
  (∀ (s : State) (r : Req) (i : Instr), SMap.find s.reqs s.ev.a = some r → r.id = s.ev.a → r.remote = none → r.reached = false →
    (i = .globalAccessAtSlice ∨ i = .atomicAtSlice ∨ i = .reductionAtSlice ∨ i = .barrierArrival ∨ i = .watchArrival) →
    ∃ t p, exec i s = .next t ∧ t.reqs = SMap.put s.reqs r.id { r with reached := true } ∧ t.cal = s.cal ++ [p]
      ∧ p.ev = i ∧ p.args = ⟨r.id, 0, 0, 0, []⟩ ∧ s.now ≤ p.due ∧ t.mem = s.mem ∧ t.cores = s.cores
      ∧ ∀ q ∈ s.cal, q.chan = lineChan r.pa →
          (∀ z, SMap.find s.reqs q.args.a = some z → ¬ (r.kind = .load ∧ z.kind = .store ∧ ¬ (z.core = r.core ∧ z.ctx = r.ctx))) →
          q.due ≤ p.due)
  ∧ (∀ (s : State) (r : Req), SMap.find s.reqs s.ev.a = some r → r.id = s.ev.a → r.remote = none → r.reached = true →
    let answered (t : State) (x : Resp) : Prop :=
      SMap.find t.resps r.id = some x ∧ SMap.find t.reqs r.id = none
        ∧ ∃ p ∈ t.cal, p.args = ⟨r.core, r.ctx, r.id, 0, []⟩ ∧ s.now < p.due
          ∧ p.ev = (if r.kind.returns then .resultArrival else .storeAcknowledgement)
    ∃ t, exec .globalAccessAtSlice s = .next t ∧ t.cores = s.cores
      ∧ (r.kind = .pref → t = { s with reqs := SMap.del s.reqs r.id })
      ∧ (∀ k, s.rejects r = some k → (r.kind = .load ∨ r.kind = .store ∨ r.kind = .wbk) →
          t.mem = s.mem ∧ answered t { fault := some (r.lateFault k) })
      ∧ (s.rejects r = none →
          (r.kind = .load → t.mem = s.mem ∧ answered t { v := extend r.width r.signed (ofBytes (s.gbytes r.pa r.width)) })
          ∧ (r.kind = .wbk → t.mem = s.mem ∧ answered t {})
          ∧ (r.kind = .store → answered t {} ∧ ∀ a, t.gbyte a =
              if r.pa ≤ a ∧ a < r.pa + r.width then BitVec.ofNat 8 (r.v / 256 ^ (a - r.pa)) else s.gbyte a)))
  ∧ (∀ (s : State) (r : Req), SMap.find s.reqs s.ev.a = some r → r.id = s.ev.a → r.remote = none → r.reached = true →
    s.rejects r = none →
    let old := ofBytes (s.gbytes r.pa r.width)
    let wrote (t : State) (n : Nat) : Prop := ∀ a, t.gbyte a =
      if r.pa ≤ a ∧ a < r.pa + r.width then BitVec.ofNat 8 (n / 256 ^ (a - r.pa)) else s.gbyte a
    (∀ op, r.kind = .atomic op →
      ∃ t, exec .atomicAtSlice s = .next t ∧ t.cores = s.cores
        ∧ SMap.find t.resps r.id = some { v := extend r.width r.signed old }
        ∧ wrote t (atomicNew op r.width r.signed old r.v r.u))
    ∧ (∀ op fl, r.kind = .red op fl →
      ∃ t, exec .reductionAtSlice s = .next t ∧ t.cores = s.cores ∧ SMap.find t.resps r.id = some {}
        ∧ wrote t (if fl then (f32.add 0 (f32.read old) (f32.read r.v)).1 else atomicNew op r.width r.signed old r.v 0)
        ∧ (∀ o, r.obj = some o → ∃ q p, SMap.find t.reqs q.id = some q ∧ q.kind = .arrival ∧ q.pa = o ∧ q.width = 8
            ∧ p ∈ t.cal ∧ p.ev = .barrierArrival ∧ p.args.a = q.id)))
  ∧ (∀ (s : State) (r : Req), SMap.find s.reqs s.ev.a = some r →
    let t := s.ctxAt r.core r.ctx
    let may := (s.core r.core).gang = r.src.map (·.1) ∧ r.waitLocal ≤ s.now
      ∧ (r.scope ≠ none → ∀ b ∈ (s.core r.core).sibs, ¬ (b.ctx = r.ctx ∧ b.due < r.at_ + 3))
      ∧ ∀ i ∈ r.waitsFor, (∀ o ∈ t.ld, o.id ≠ i) ∧ (∀ o ∈ t.stq, o.id ≠ i)
    (¬ may → exec .releaseDepart s = .next s)
    ∧ (may → ∃ u p, exec .releaseDepart s = .next u ∧ u.cal = s.cal ++ [p] ∧ p.ev = r.kind.event ∧ p.args.a = s.ev.a
        ∧ s.now < p.due ∧ u.held = s.held.filter (· != s.ev.a) ∧ u.cores = s.cores ∧ u.mem = s.mem ∧ u.reqs = s.reqs))

/-- An arrival adds one to the count of a barrier object; where that reaches its expected count, the count returns to 0 and
the phase turns, and every bwait watch on it is woken.  A barm is answered the phase before and whether it completed. A watch
that arrives wakes its context at once where the word differs from the operand, or where the phase of the object does; else
the slice keeps it (spec/07_atomics.md, spec/06_memory.md).
The model's choices it rests on: log entry 25. -/
def Obligations.BarrierObjectsAndWatches : Prop :=
  (∀ (s : State) (r : Req), SMap.find s.reqs s.ev.a = some r → r.id = s.ev.a → r.reached = true → s.rejects r = none →
    let m := ofBytes (s.gbytes r.pa 8)
    let expected := m % 2 ^ 24
    let count := m / 2 ^ 24 % 2 ^ 24
    let phase := m / 2 ^ 48 % 2
    let done := expected ≤ count + 1
    ∃ t n, exec .barrierArrival s = .next t ∧ t.cores = s.cores
      ∧ (∀ a, t.gbyte a = if r.pa ≤ a ∧ a < r.pa + 8 then BitVec.ofNat 8 (n / 256 ^ (a - r.pa)) else s.gbyte a)
      ∧ n % 2 ^ 24 = expected ∧ n / 2 ^ 49 = m / 2 ^ 49
      ∧ (done → n / 2 ^ 24 % 2 ^ 24 = 0 ∧ n / 2 ^ 48 % 2 = 1 - phase)
      ∧ (¬ done → n / 2 ^ 24 % 2 ^ 24 = count + 1 ∧ n / 2 ^ 48 % 2 = phase)
      ∧ (done → ∀ w ∈ SMap.get [] s.watches (homeOf r.pa), w.barrier = true → w.pa = r.pa → w.away = none →
          w ∉ SMap.get [] t.watches (homeOf r.pa)
          ∧ ∃ p ∈ t.cal, p.ev = .resultArrival ∧ p.args = ⟨w.core, w.ctx, w.id, 0, []⟩)
      ∧ (r.kind = .barm → SMap.find t.resps r.id = some { v := BitVec.ofNat 64 (phase + if done then 2 else 0) }))
  ∧ (∀ (s : State) (r : Req), SMap.find s.reqs s.ev.a = some r → r.id = s.ev.a → r.remote = none → r.reached = true →
    s.rejects r = none →
    let m := ofBytes (s.gbytes r.pa 8)
    let sl := homeOf r.pa
    (r.kind = .watch ∨ r.kind = .bwatch) →
    let wakes := if r.kind = .watch then m ≠ r.v else m / 2 ^ 48 % 2 ≠ r.v % 2
    ∃ t, exec .watchArrival s = .next t ∧ t.mem = s.mem ∧ t.cores = s.cores
      ∧ (wakes → SMap.find t.resps r.id = some { v := if r.kind = .watch then 0 else 1 }
          ∧ ∃ p ∈ t.cal, p.ev = .resultArrival ∧ p.args = ⟨r.core, r.ctx, r.id, 0, []⟩)
      ∧ (¬ wakes → (⟨r.id, r.core, r.ctx, r.asid, r.pa, r.kind == .bwatch, none⟩ : Watch) ∈ SMap.get [] t.watches sl
          ∧ (SMap.get [] t.watches sl).length ≤ Nat.max 64 (SMap.get [] s.watches sl).length))

/-! ### The vector unit -/

/-- Every vector instruction that finds room appends one entry to its core's queue, with the scalar operands, prefix,
rounding mode and vector length it captures at issue and its sequence number, and counts it in vqc; a full queue holds it
back.  No vector register, byte of memory or scalar register changes at issue. vsetvl sets VL to its operand rounded up to a
multiple of 16, from 16 to 128, and delivers it; a vmovs that reads a lane is queued with its result pending
(spec/08_vector.md).
The model's choices it rests on: log entries 123 and 173. -/
def Obligations.VectorInstructionsAreQueuedOrRead : Prop :=
  (∀ (s : State) (S m : BitVec 3) (d a b : Opnd) (k : BitVec 1),
    let vb : Option Opnd := if k = 1 then some b else none
    let val (o : Option Opnd) : Word := (o.map s.opnd).getD 0
    let entry (i : Instr) (s1 s2 : Option Opnd) : VEntry :=
      { seq := s.cur.seqn, ctx := s.cx, ins := i, s1 := val s1, s2 := val s2, fa := s.cur.pfx.fa, fd := s.cur.pfx.fd,
        rm := s.cur.rm, vl := s.cur.vl, at_ := s.now, after := s.cur.localAt }
    let queues (i : Instr) (accepts : Option (Pfx → Bool)) (s1 s2 : Option Opnd) : Prop :=
      (match accepts with
        | some f => s.clearPfx f (s1.toList ++ s2.toList)
        | none => s.clear (s1.toList ++ s2.toList)) →
      (16 ≤ s.curCore.vec.q.length → exec i s = .next s.hold)
      ∧ (s.curCore.vec.q.length < 16 →
          ∃ t, exec i s = .next t ∧ t = s.setCore s.cc { (s.curCore.setCtx s.cx t.cur) with
              vec := { s.curCore.vec with q := s.curCore.vec.q ++ [entry i s1 s2] } }
            ∧ t.cur = { s.cur.issued s.now S with
                        vqc := s.cur.vqc + 1, seqn := (s.cur.seqn + 1) % 65536, seqr := t.cur.seqr })
    queues (.vadd S d a b k) (some vArith) none vb ∧ queues (.vsub S d a b k) (some vArith) none vb
    ∧ queues (.vmul S d a b k) (some vArith) none vb ∧ queues (.vfma S d a b k) (some vArith) none vb
    ∧ queues (.vmin S d a b k) (some vArith) none vb ∧ queues (.vmax S d a b k) (some vArith) none vb
    ∧ queues (.vabs S d a) (some vArith) none none ∧ queues (.vneg S d a) (some vArith) none none
    ∧ queues (.vand S d a b k) none none vb ∧ queues (.vor S d a b k) none none vb ∧ queues (.vxor S d a b k) none none vb
    ∧ queues (.vshl S d a b k) none none vb ∧ queues (.vshr S d a b k) none none vb ∧ queues (.vsar S d a b k) none none vb
    ∧ queues (.vcmp S d a b k m) (some (vCompare m.toNat)) none vb ∧ queues (.vsel S d a b k) none none vb
    ∧ queues (.vcvt S d a) (some vConv) none none ∧ queues (.vperm S d a b k) none none vb
    ∧ queues (.vbcast S d b) none none (some b) ∧ queues (.vred S d a b m) (some (vReduce m.toNat)) none none
    ∧ queues (.vscan S d a b m) (some (vReduce m.toNat)) none none ∧ queues (.vld S d a b k m) none (some a) vb
    ∧ queues (.vst S d a b k m) none (some a) vb ∧ queues (.vldx S d a b) none none (some b)
    ∧ queues (.vstx S d a b) none none (some b) ∧ queues (.vidx S a b k m) none none vb
    ∧ queues (.vrcp S d a) (some vFloat1) none none ∧ queues (.vrsqrt S d a) (some vFloat1) none none
    ∧ queues (.vexp2 S d a) (some vFloat1) none none ∧ queues (.vmovsWrite S d a b) none (some a) (some b)
    ∧ (¬ (dotFloat s.cur.pfx.fa = true ∧ (a = 47 ∨ b = 47)) → queues (.vdot4 S d a b) (some vDot) none none)
    ∧ (dotFloat s.cur.pfx.fa = true → (a = 47 ∨ b = 47) →
        exec (.vdot4 S d a b) s = .next (s.illegalHalt 5 s.code)))
  ∧ (∀ (s : State) (S : Stall) (d a b : Opnd),
    (s.clear [a] →
      ∀ n, (∀ j, 1 ≤ j → j ≤ 8 → ((s.opnd a).toNat ≤ 16 * j ∨ j = 8) → n ≤ 16 * j) → (16 ∣ n ∧ 16 ≤ n ∧ n ≤ 128) →
        (n = 128 ∨ (s.opnd a).toNat ≤ n) →
        GivesIn (exec (.vsetvl S d a) s) s { s.cur.issued s.now S with vl := n } d (BitVec.ofNat 64 n) (s.now + 1) 0)
    ∧ (s.clear [b] →
      (16 ≤ s.curCore.vec.q.length → exec (.vmovsRead S d a b) s = .next s.hold)
      ∧ (s.curCore.vec.q.length < 16 →
          ∃ t, exec (.vmovsRead S d a b) s = .next t ∧ pendingFor s.cur t.cur d s.nextId ∧ t.mem = s.mem
            ∧ t.curCore.vec.q = s.curCore.vec.q ++
                [{ seq := s.cur.seqn, ctx := s.cx, ins := .vmovsRead S d a b, s2 := s.opnd b, fa := s.cur.pfx.fa,
                   fd := s.cur.pfx.fd, rm := s.cur.rm, vl := s.cur.vl, at_ := s.now, after := s.cur.localAt, id := s.nextId }]
            ∧ t.cur = { s.cur.issued s.now S with
                        head := t.cur.head, pend := t.cur.pend, vqc := s.cur.vqc + 1,
                        seqn := (s.cur.seqn + 1) % 65536, seqr := t.cur.seqr })))

/-- When a lane group begins an elementwise entry, each active lane of the group writes the result of its operation, from the
values that the lane held, to its destination register, and the lanes' flags join the entry's; no other lane, register, core, byte or
scalar context changes. The operations of a lane compute their table: on 32-bit elements, on four bytes, in the float formats (whose
values FloatValuesAreRounded says) and from format to format (spec/08_vector.md).
The model's choices it rests on: log entries 29 and 115. -/
def Obligations.ElementwiseEntriesComputeTheirTable : Prop :=
  (∀ (s : State) (e : VEntry) (d : Opnd), let core := s.ev.a
    let g := s.ev.b
    s.findV core (s.ev.c / 65536) (s.ev.c % 65536) = some e → s.vinjected core e = false → (s.core core).vec.failed = false →
    vMem e.ins = false → vMoves e.ins = false → (vUse e.ins e.fa).dst = some d →
    let v := (s.core core).vec
    let u := vUse e.ins e.fa
    let scalar := match e.ins with
      | .vadd _ _ _ _ k | .vsub _ _ _ _ k | .vmul _ _ _ _ k | .vfma _ _ _ _ k | .vmin _ _ _ _ k | .vmax _ _ _ _ k
      | .vand _ _ _ _ k | .vor _ _ _ _ k | .vxor _ _ _ _ k | .vshl _ _ _ _ k | .vshr _ _ _ _ k | .vsar _ _ _ _ k
      | .vcmp _ _ _ _ k _ | .vsel _ _ _ _ k => k == 1
      | .vbcast _ _ _ => true
      | _ => false
    let src (n l : Nat) : Nat := match u.src[n]? with
      | some (c, _) => v.rd l (v.num c l)
      | none => 0
    let nxt (n l : Nat) : Nat := match u.src[n]? with
      | some (c, true) => v.rd l (v.numNext c l)
      | _ => 0
    let made (l : Nat) : Flagged :=
      laneOp e.ins e.fa e.fd e.rm (src 0 l) (if scalar then e.s2.toNat % 2 ^ 32 else src 1 l) (v.rd l (v.num d l)) (nxt 0 l) (nxt 1 l)
    let result (l : Nat) : Nat := (made l).1 % 2 ^ 32
    ∃ t, exec .vectorEntryBegin s = .next t ∧ t.mem = s.mem ∧ (∀ c, c ≠ core → t.core c = s.core c)
      ∧ (t.core core).ctxs = (s.core core).ctxs ∧ (t.core core).ls = (s.core core).ls
      ∧ (t.findV core (s.ev.c / 65536) (s.ev.c % 65536)).map VEntry.flags
          = some (e.flags ||| ((e.lanes g).map fun l => (made l).2).foldl (· ||| ·) 0)
      ∧ (∀ l ∈ e.lanes g, (t.core core).vec.rd l (v.num d l) = result l)
      ∧ (∀ l r, r < 64 → (l ∉ e.lanes g ∨ r ≠ v.num d l) → (t.core core).vec.rd l r = v.rd l r))
  ∧ (∀ (S : BitVec 3) (d a b : Opnd) (k : BitVec 1) (fa fd rm : Nat) (x y z : BitVec 32), fa ≠ 0x12 →
    let op (i : Instr) : BitVec 32 := BitVec.ofNat 32 (laneOp i fa fd rm x.toNat y.toNat z.toNat 0 0).1
    op (.vadd S d a b k) = x + y ∧ op (.vsub S d a b k) = x - y ∧ op (.vmul S d a b k) = x * y
    ∧ op (.vfma S d a b k) = x * y + z ∧ op (.vand S d a b k) = x &&& y ∧ op (.vor S d a b k) = x ||| y
    ∧ op (.vxor S d a b k) = x ^^^ y ∧ op (.vshl S d a b k) = x <<< (y.toNat % 32)
    ∧ op (.vshr S d a b k) = x >>> (y.toNat % 32) ∧ op (.vsar S d a b k) = x.sshiftRight (y.toNat % 32)
    ∧ op (.vneg S d a) = 0 - x ∧ op (.vsel S d a b k) = (if z ≠ 0 then x else y) ∧ op (.vbcast S d b) = y
    ∧ (fa ≠ 7 → op (.vmin S d a b k) = (if x.sle y then x else y) ∧ op (.vmax S d a b k) = (if x.sle y then y else x)
        ∧ op (.vabs S d a) = (if x.slt 0 then 0 - x else x))
    ∧ (fa = 7 → op (.vmin S d a b k) = (if x.ule y then x else y) ∧ op (.vmax S d a b k) = (if x.ule y then y else x)
        ∧ op (.vabs S d a) = x)
    ∧ (∀ m : BitVec 3, m.toNat < 6 → op (.vcmp S d a b k m) =
        if (if m = 0 then x = y else if m = 1 then x ≠ y else if m = 2 then x.toInt < y.toInt else if m = 3 then x.toNat < y.toNat
          else if m = 4 then x.toInt ≤ y.toInt else x.toNat ≤ y.toNat) then 1 else 0)
    ∧ (fa ≤ 1 → op (.vdot4 S d a b) = z + BitVec.ofInt 32
        ((List.range 4).map fun i => (x.extractLsb' (8 * i) 8).toInt * (y.extractLsb' (8 * i) 8).toInt).sum)
    ∧ (fa = 5 → op (.vdot4 S d a b) = z + BitVec.ofNat 32
        ((List.range 4).map fun i => (x.extractLsb' (8 * i) 8).toNat * (y.extractLsb' (8 * i) 8).toNat).sum))
  ∧ (∀ (S m : BitVec 3) (d a b : Opnd) (k : BitVec 1) (fa fd rm : Nat) (x y z x' y' : BitVec 32),
    let op (fa : Nat) (i : Instr) : Flagged := laneOp i fa fd rm x.toNat y.toNat z.toNat x'.toNat y'.toNat
    let u := f32.read x.toNat
    let v := f32.read y.toNat
    let w := f32.read z.toNat
    let two (f : FFmt) (n : BitVec 32) : List FVal := [f.read (n.toNat % 65536), f.read (n.toNat / 65536)]
    let signed (neg : Bool) : Flagged :=
      if u.isNan then (0x7FC00000, if u = .nan true then 16 else 0) else (x.toNat % 2 ^ 31 + if neg then 2 ^ 31 else 0, 0)
    op 0x12 (.vadd S d a b k) = f32.add rm u v ∧ op 0x12 (.vsub S d a b k) = f32.sub rm u v
    ∧ op 0x12 (.vmul S d a b k) = f32.mul rm u v ∧ op 0x12 (.vfma S d a b k) = f32.fma rm u v w
    ∧ op 0x12 (.vmin S d a b k) = f32.min rm u v ∧ op 0x12 (.vmax S d a b k) = f32.max rm u v
    ∧ op 0x12 (.vabs S d a) = signed false ∧ op 0x12 (.vneg S d a) = signed (!x.getLsbD 31)
    ∧ (∀ c, (m.toNat, c) ∈ [(0, 0), (1, 1), (2, 2), (4, 3), (6, 4)] →
        op 0x12 (.vcmp S d a b k m) = (if (fcmpCond c u v).1 then 1 else 0, (fcmpCond c u v).2))
    ∧ op fa (.vrcp S d a) = laneRcp rm u ∧ op fa (.vrsqrt S d a) = laneRsqrt rm u ∧ op fa (.vexp2 S d a) = laneExp2 rm u
    ∧ (let r := convert (if fa = 0 then .int ⟨32, true⟩ else srcFmt fa) (if fd = 0 then .float f32 else dstFmt fd) rm x.toNat
      op fa (.vcvt S d a) = (r.1.toNat % 2 ^ 32, r.2))
    ∧ op 0x10 (.vdot4 S d a b) = dotF rm (two f16 x ++ two f16 x') (two f16 y ++ two f16 y') w
    ∧ op 0x11 (.vdot4 S d a b) = dotF rm (two bf16 x ++ two bf16 x') (two bf16 y ++ two bf16 y') w)

/-- A gathering entry begins in all eight groups at once: every read precedes every write.  vperm takes the lanes that its
operand names, modulo VL; vred writes the tree's result to every active lane, vscan the running results; no inactive lane
changes.  A retiring entry hands its flags to st and lowers vqc (spec/08_vector.md).
The model's choices it rests on: log entries 28, 121 and 124. -/
def Obligations.GatheringPointsAndRetirement : Prop :=
  ∀ (s : State) (e : VEntry) (S : BitVec 3) (d a b : Opnd) (k : BitVec 1) (m : BitVec 3), let core := s.ev.a
    s.findV core (s.ev.c / 65536) (s.ev.c % 65536) = some e → e.vl ≤ 128 → (s.core core).vec.failed = false →
    let v := (s.core core).vec
    let as := (List.range e.vl).map fun l => v.rd l (v.num a l)
    (s.vinjected core e = false → (e.ins = .vperm S d a b k ∨ e.ins = .vred S d a b m ∨ e.ins = .vscan S d a b m) →
      ∃ t, exec .gatheringPointBegin s = .next t ∧ t.mem = s.mem ∧ (∀ c, c ≠ core → t.core c = s.core c)
        ∧ (t.core core).ctxs = (s.core core).ctxs
        ∧ (∀ l, l < e.vl →
            (e.ins = .vperm S d a b k → k = 0 →
              (t.core core).vec.rd l (v.num d l) = as.getD (v.rd l (v.num b l) % e.vl) 0)
            ∧ (e.ins = .vperm S d a b k → k = 1 →
              (t.core core).vec.rd l (v.num d l) = as.getD ((l + e.s2.toNat) % e.vl) 0)
            ∧ (e.ins = .vred S d a b m →
              (t.core core).vec.rd l (v.num d l) = (tree (laneStep m.toNat e.fa e.rm) 7 as).1 % 2 ^ 32)
            ∧ (e.ins = .vscan S d a b m → ∀ x xs, as = x :: xs →
              (t.core core).vec.rd l (v.num d l) =
                (x :: (scan (laneStep m.toNat e.fa e.rm) x xs).1).getD l 0 % 2 ^ 32))
        ∧ (∀ l r, r < 64 → (e.vl ≤ l ∨ r ≠ v.num d l) → (t.core core).vec.rd l r = v.rd l r))
    ∧ ∃ t, exec .vectorEntryRetire s = .next t
        ∧ (t.ctxAt core (s.ev.c / 65536)).st = (s.ctxAt core (s.ev.c / 65536)).st ||| BitVec.ofNat 64 (e.flags % 32)
        ∧ (t.ctxAt core (s.ev.c / 65536)).vqc =
            (s.ctxAt core (s.ev.c / 65536)).vqc - (if e.dropped then 0 else 1)
        ∧ e ∉ (t.core core).vec.q ∧ (t.core core).vec.v = v.v ∧ t.mem = s.mem

/-- When a lane group begins a vector load or store whose active lanes all lie in the core's own store, each lane loads the
word at its address or stores its register there, the highest lane where several name one word, also where a higher lane of a
group that began the entry before has stored it, and nothing else of store, registers or memory changes; where a lane has no target, no lane of the group moves anything and one late fault record waits
for the context, its vqc 0 (spec/08_vector.md).
The model's choices it rests on: log entries 10, 11, 30, 31, 33, 112, 118 and 122. -/
def Obligations.VectorMemoryEntriesMoveWords : Prop :=
  ∀ (s : State) (e : VEntry) (S m : BitVec 3) (d a b : Opnd) (k : BitVec 1), let core := s.ev.a
    let g := s.ev.b
    let ctx := s.ev.c / 65536
    s.findV core ctx (s.ev.c % 65536) = some e → s.vinjected core e = false → (s.core core).vec.failed = false →
    regionsAligned (s.core core).regions →
    let v := (s.core core).vec
    let addr (l : Nat) : Nat := e.addr v l
    let outdone (l : Nat) : Prop := ∃ x ∈ e.wrote, l < x.1 ∧ x.2 = (core, addr l)
    let own := ∀ l ∈ e.lanes g, addr l % 4 = 0 ∧ addr l < 0x60000 ∧ (s.rbe core = true → addr l < 0x58000)
    ((e.ins = .vld S d a b k m ∨ e.ins = .vldx S d a b) → own →
      ∃ t, exec .vectorEntryBegin s = .next t ∧ t.mem = s.mem ∧ (∀ c, c ≠ core → t.core c = s.core c)
        ∧ (t.core core).ls = (s.core core).ls ∧ (t.core core).ctxs = (s.core core).ctxs
        ∧ (∀ l ∈ e.lanes g, (t.core core).vec.rd l (v.num d l) = ofBytes ((s.core core).lbytes (addr l) 4))
        ∧ (∀ l r, r < 64 → (l ∉ e.lanes g ∨ r ≠ v.num d l) → (t.core core).vec.rd l r = v.rd l r))
    ∧ ((e.ins = .vst S d a b k m ∨ e.ins = .vstx S d a b) → own →
      ∃ t, exec .vectorEntryBegin s = .next t ∧ t.mem = s.mem ∧ (∀ c, c ≠ core → t.core c = s.core c)
        ∧ (t.core core).ctxs = (s.core core).ctxs ∧ (t.core core).vec.v = v.v
        ∧ (∀ l ∈ e.lanes g, (∀ l' ∈ e.lanes g, l < l' → addr l' ≠ addr l) → ¬ outdone l →
            ofBytes ((t.core core).lbytes (addr l) 4) = v.rd l (v.num d l))
        ∧ (∀ y, (s.rbe core = true → y < 0x58000) → (∀ l ∈ e.lanes g, addr l ≤ y ∧ y < addr l + 4 → outdone l) →
            (t.core core).lbyte y = (s.core core).lbyte y))
    ∧ (∀ c l x, vMem e.ins = true → s.laneFault core e (e.lanes g) = some (c, l, x) → e.dropped = false →
      ∃ t, exec .vectorEntryBegin s = .next t ∧ t.mem = s.mem ∧ (t.core core).ls = (s.core core).ls
        ∧ (t.core core).vec.v = v.v ∧ (t.ctxAt core e.ctx).vqc = 0
        ∧ ∃ gs, (t.ctxAt core e.ctx).late = (s.ctxAt core e.ctx).late ++
            [{ kind := 3, cause := c, seq := e.seq, det := l, addr := x, groups := gs }])

/-! ### Responses and walks -/

/-- A response that arrives for a context that expects it writes the local bytes it brings, then its value, and a second one where it
brings one, to the queue slot and the register that its producer still owns, a register of g16 to g31 two cycles later; in a handler
or routine the result of the interrupted work goes to the trap frame, to the places that PEND still marks. It lowers ldc or stc, ends
a wait on it, and queues the late fault it carries.  A response that nothing expects changes no context.  For a switched-out gang it
waits; one whose local bytes, or whose frame, fall in a guarded range comes again (spec/04_scalar.md, spec/06_memory.md, spec/17_system.md).
The model's choices it rests on: log entries 25, 42 and 105. -/
def Obligations.ResponsesReachWhatStillExpectsThem : Prop :=
  ∀ (s : State) (i : Instr), (i = .resultArrival ∨ i = .storeAcknowledgement) →
    let core := s.ev.a
    let ctx := s.ev.b
    let id := s.ev.c
    let b := s.ctxAt core ctx
    let r := SMap.get {} s.resps id
    (∀ g, s.absent core ctx id = some g →
      ∃ t, exec i s = .next t ∧ t.cores = s.cores
        ∧ (t.gang g).parked = (s.gang g).parked ++ [⟨s.now, 0, i, ⟨core, ctx, id, 0, []⟩⟩])
    ∧ (s.absent core ctx id = none → (s.landGuarded id = true ∨ s.frameHeld core ctx id = true) →
      ∃ t p, exec i s = .next t ∧ t = { s with cal := s.cal ++ [p] } ∧ s.now + 1 ≤ p.due ∧ p.ev = i
        ∧ p.args = ⟨core, ctx, id, 0, []⟩)
    ∧ (s.absent core ctx id = none → s.landGuarded id = false → s.frameHeld core ctx id = false → b.expects id = false →
      ∃ t, exec i s = .next t ∧ t = { s with resps := SMap.del s.resps id })
    ∧ (s.absent core ctx id = none → s.landGuarded id = false → s.frameHeld core ctx id = false → b.expects id = true →
        let ends (c m : Ctx) : Prop := c = { m with
          ld := b.ld.filter (·.id != id), stq := b.stq.filter (·.id != id), late := b.late ++ r.fault.toList
          wait := if b.wait = .arrival id ∨ b.wait = .watch id then .none else b.wait }
        (∀ p, ¬ b.framed id p) → (∀ j v p, r.also = some (j, v) → ¬ b.framed j p) →
        ∃ t c1 c2, exec i s = .next t ∧ t.mem = s.mem ∧ (∀ x, x ≠ ctx → t.ctxAt core x = s.ctxAt core x)
          ∧ (r.store = none → (∀ c, c ≠ core → t.core c = s.core c) ∧ (t.core core).ls = (s.core core).ls)
          ∧ (∀ k a bs, r.store = some (k, a, bs) → regionsAligned (s.core k).regions →
              (∀ c, c ≠ core → c ≠ k → t.core c = s.core c)
              ∧ ∀ y, (s.rbe k = true → y < 0x58000) → (t.core k).lbyte y =
                  if a ≤ y ∧ y < a + bs.length then bs.getD (y - a) 0 else (s.core k).lbyte y)
          ∧ Landed b c1 s.now id r.v ∧ (r.also = none → c2 = c1) ∧ (∀ j v, r.also = some (j, v) → Landed c1 c2 s.now j v)
          ∧ ends (t.ctxAt core ctx) c2)
    ∧ (s.absent core ctx id = none → s.frameHeld core ctx id = false → b.expects id = true → r.store = none → r.also = none →
        regionsAligned (s.core core).regions → (s.rbe core = true → b.frameAt + 512 ≤ 0x58000) →
      ∀ p, b.framed id p →
        let word (t : State) (k : Nat) : Nat := ofBytes ((t.core core).lbytes (b.frameAt + 8 * k) 8)
        let marked (k : Nat) : Prop := word s 52 / 2 ^ k % 2 = 1
        ∃ t, exec i s = .next t ∧ t.mem = s.mem ∧ (∀ c, c ≠ core → t.core c = s.core c)
          ∧ t.ctxAt core ctx = { b with
              pend := b.pend.filter (·.id != id), ld := b.ld.filter (·.id != id), stq := b.stq.filter (·.id != id)
              late := b.late ++ r.fault.toList, wait := if b.wait = .arrival id ∨ b.wait = .watch id then .none else b.wait }
          ∧ (∀ q, q < 16 → word t (32 + q) = if p.frSlot = some q ∧ marked q then r.v.toNat else word s (32 + q))
          ∧ (∀ n, n < 32 → word t n = if p.frReg = some n ∧ marked (16 + n) then r.v.toNat else word s n)
          ∧ (∀ k, k < 48 → (word t 52 / 2 ^ k % 2 = 1 ↔ marked k ∧ ¬ (p.frSlot = some k ∨ ∃ n, p.frReg = some n ∧ k = 16 + n)))
          ∧ OutsideSame s t core b.frameAt 512)

/-- A walk that finds a leaf of its context's address with the permission asked for fills the core's translation cache with
it, so that the same access then hits, and ends the wait; a walk that an invalidation met keeps what it found for the waiting access
alone, and caches nothing; a walk that finds no leaf, or one without the permission, traps with its cause, and for a hint the word
after it follows; an event whose context no longer waits for it does nothing (spec/06_memory.md, spec/17_system.md).
The model's choices it rests on: log entries 16, 17 and 128. -/
def Obligations.WalksFillTheTranslationCacheOrTrap : Prop :=
  ∀ (s : State) (need : Nat), let core := s.ev.a
    let ctx := s.ev.b
    let va := s.ev.w.toNat
    let asid := s.asidOf core
    let kind := if need / 4 % 2 = 1 then 1 else 0
    let u := s.modCtx core ctx fun t => { t with wait := .none, rewalk := false }
    let fails (k : Nat) : Prop :=
      (need / 32 % 2 = 0 → exec .translationWalk s = .next (u.takeTrap core ctx { kind := kind, cause := k, addr := va }))
      ∧ (need / 32 % 2 = 1 → ∃ t, exec .translationWalk s = .next t ∧ OnlyCtx s core ctx
          { (s.ctxAt core ctx).advance with
            wait := .none, rewalk := false, readyAt := s.now + 1 + need / 64 % 8, issuedAt := s.now } t)
    ((∀ a n, (s.ctxAt core ctx).wait = .walk a n → a ≠ va) → exec .translationWalk s = .next s)
    ∧ ((s.ctxAt core ctx).wait = .walk va need →
      (∀ k, s.walk asid va = .bad k → fails k)
      ∧ (∀ e at_ level used, s.walk asid va = .leaf e at_ level used →
        (∀ k, permit need e = some k → fails k)
        ∧ (permit need e = none →
          ∃ t x, exec .translationWalk s = .next t
            ∧ x.covers asid (s.space asid).gen va = true
            ∧ ptePfn x.leaf = ptePfn e ∧ x.size = leafSize level e ∧ permit need x.leaf = none
            ∧ bitsOf x.leaf 8 1 = 1 ∧ (need / 2 % 2 = 1 → bitsOf x.leaf 9 1 = 1)
            ∧ ((s.ctxAt core ctx).rewalk = true → (t.core core).tlb = (s.core core).tlb
              ∧ t.ctxAt core ctx = { s.ctxAt core ctx with
                  wait := .none, rewalk := false, walked := (s.ctxAt core ctx).walked ++ [(s.now, x)] })
            ∧ ((s.ctxAt core ctx).rewalk = false →
              t.ctxAt core ctx = { s.ctxAt core ctx with wait := .none }
              ∧ (t.core core).tlb.length ≤ Nat.max 64 (s.core core).tlb.length
              ∧ ∃ rest, (t.core core).tlb = x :: rest))))

/-! ### The matrix unit -/

/-- mma and mmr append one entry to their core's queue with the accumulator, tile addresses, formats, modifiers, sequence
number, guard, skip mask and planes of their word, and count it; a full queue holds them back.  An mma of an enabled skip
stream takes its mask from the store at sk.ADDR, which moves on by two; a mask that cannot be read is a late fault of the
entry. No accumulator, byte or register changes at issue. mtile reads its descriptor and begins its expansion, its pc and
prefix staying; a bad address or a malformed descriptor traps exactly.  Each expanded step appends the mma of the tile that
DONE names in the descriptor as it was read, and writes DONE, and the last one, which writes 0, ends the word (spec/09_matrix.md).
The model's choices it rests on: log entries 36, 41, 133 and 137. -/
def Obligations.MatrixInstructionsAreQueued : Prop :=
  (∀ (s : State) (S : Stall) (c : BitVec 3) (a b : Opnd) (x m : BitVec 1),
    let mat := s.curCore.mat
    let fa := if s.cur.pfx.fa = 0 then 0x28 else s.cur.pfx.fa
    let fb := if s.cur.pfx.fb = 0 then fa else s.cur.pfx.fb
    let entry : MEntry :=
      { seq := s.cur.seqn, ctx := s.cx, acc := c.toNat, pair := x = 1, pl := false, mid := false, refine := false,
        a := (s.opnd a).toNat, b := (s.opnd b).toNat, fa := fa, fb := fb, fd := s.cur.pfx.fd, mg := s.cur.st.getLsbD 8,
        skip := 0, at_ := s.now, after := s.cur.localAt }
    let appends (i : Instr) (e : MEntry) (cycles : Nat) (sk : Word) : Prop :=
      ∃ t, exec i s = .next t ∧ Within s t
        ∧ t.curCore.mat.q = mat.q ++ [e] ∧ t.curCore.mat.sk = sk ∧ t.curCore.mat.acc = mat.acc
        ∧ t.curCore.mat.scale = mat.scale ∧ t.curCore.mat.tag = mat.tag ∧ t.curCore.ls = s.curCore.ls
        ∧ t.cur = { s.cur.issued s.now S with
                    mpend := s.cur.mpend + 1, seqn := (s.cur.seqn + 1) % 65536, seqr := t.cur.seqr,
                    readyAt := Nat.max (s.now + 1 + S.toNat) (s.now + cycles), localTo := t.cur.localTo, localAt := t.cur.localAt }
    (s.clearPfx (mmaAccepts (x == 1) false) [a, b] →
      (8 ≤ mat.q.length → exec (.mmr S c a b x) s = .next s.hold ∧ exec (.mma S c a b x 0 m) s = .next s.hold)
      ∧ (mat.q.length < 8 →
        appends (.mmr S c a b x) { entry with refine := true } 1 mat.sk
        ∧ (mat.skOn = false → appends (.mma S c a b x 0 m) { entry with mid := m = 1 } 1 mat.sk)
        ∧ (mat.skOn = true →
          let y := mat.sk.toNat % 2 ^ 24
          let sk := putFld mat.sk 0 24 (y + 2)
          (∀ k, localFault s y 2 = some k → s.localWaits y = false →
            appends (.mma S c a b x 0 m) { entry with mid := m = 1, early := some (k, y) } 1 sk)
          ∧ ∀ t z, localFault s y 2 = none → localPlace s.cc y = some (t, z) →
            (s.localFree t = false → exec (.mma S c a b x 0 m) s = .next s.hold)
            ∧ (s.localFree t = true → settled s t →
              appends (.mma S c a b x 0 m)
                { entry with mid := m = 1, skip := ofBytes ((s.core t).lbytes z 2), after := s.now + (if t = s.cc then 2 else 4) }
                1 sk))))
    ∧ (s.clearPfx (mmaAccepts (x == 1) true) [a, b] → mat.q.length < 8 → mat.skOn = false → (s.opnd a).toNat % 64 = 0 →
        ∀ t z, localFault s (s.opnd a).toNat 64 = none → localPlace s.cc (s.opnd a).toNat = some (t, z) → s.localFree t = true →
          settled s t →
          let n := s.precision t (s.tile t z).slot
          let w := blockWidth fa
          appends (.mma S c a b x 1 m)
            { entry with
              pl := true, mid := m = 1, planes := if n < 2 then 1 else if n - 1 ≤ w then n - 1 else Nat.max 1 w
              early := if n < 2 then some (26, (s.opnd a).toNat) else none, after := s.now + (if t = s.cc then 2 else 4) }
            (if t = s.cc then 2 else 4) mat.sk))
  ∧ (∀ (s : State) (S : Stall) (d : Opnd) (x p m : BitVec 1),
    let addr := (s.opnd d).toNat
    (s.clearPfx (mmaAccepts (x == 1) (p == 1)) [d] → s.localWaits addr = false →
      (∀ k, localFault s addr 32 = some k → exec (.mtile S d x p m) s = .next (s.exact k addr))
      ∧ ∀ t z, localFault s addr 32 = none → localPlace s.cc addr = some (t, z) → settled s t →
        let words := ofBytes ((s.core t).lbytes z 32)
        let g := TileDesc.ofNat words
        let good := g.zeros = true ∧ g.done < g.nk * g.na ∧ ¬ (x = 1 ∧ (g.acc % 2 = 1 ∨ 4 < g.na)) ∧ ¬ (p = 1 ∧ 1 < g.nk)
        (good → ∃ u, exec (.mtile S d x p m) s = .next u ∧ Within s u ∧ u.curCore.mat = s.curCore.mat
          ∧ u.cur = { s.cur with wait := .tile addr (x = 1) (p = 1) (m = 1) (s.now + 1 + S.toNat) words, readyAt := s.now + 3,
                                 issuedAt := s.now, localTo := t, localAt := s.now + (if t = s.cc then 2 else 4) })
        ∧ (¬ good → ∃ v u, exec (.mtile S d x p m) s = .next v ∧ u.cur = s.cur ∧ v = u.exact 27 addr ∧ Within s u))
    ∧ ∀ a px pp pm till words, s.cur.wait = .tile a px pp pm till words → localFault s a 32 = none → localPlace s.cc a = some (s.cc, a) →
        regionsAligned s.curCore.regions → s.curCore.mat.q.length < 8 → s.curCore.mat.skOn = false →
        s.guarded s.cc (a + 22) 2 = false → pp = false →
        let g := TileDesc.ofNat words
        let k : Int := (g.done / g.na : Nat)
        let j := g.done % g.na
        let last := g.done + 1 = g.nk * g.na
        ∃ t e, exec .mtileExpansion s = .next t ∧ t.curCore.mat.q = s.curCore.mat.q ++ [e] ∧ t.mem = s.mem
          ∧ t.curCore.mat.acc = s.curCore.mat.acc ∧ (∀ c, c ≠ s.cc → t.core c = s.core c)
          ∧ e.acc = (if px then g.acc + 2 * j else g.acc + j) % 8 ∧ e.pair = px ∧ e.pl = false ∧ e.mid = pm
          ∧ e.refine = false ∧ e.seq = s.cur.seqn
          ∧ e.a = (BitVec.ofInt 64 ((g.a0 : Int) + k * g.aks)).toNat
          ∧ e.b = (BitVec.ofInt 64 ((g.b0 : Int) + ((j : Int) * g.bns + k * g.bks))).toNat
          ∧ holds t s.cc (a + 22) 2 (if last then 0 else g.done + 1)
          ∧ (∀ y, (s.rbe s.cc = true → y < 0x58000) → (y < a + 22 ∨ a + 24 ≤ y) → t.curCore.lbyte y = s.curCore.lbyte y)
          ∧ (last → t.cur.wait = .none ∧ t.cur.pc = (s.cur.issued s.now 0).pc ∧ t.cur.prefixed = false)
          ∧ (¬ last → t.cur.wait = .tile a px pp pm till (words + 2 ^ 176) ∧ t.cur.pc = s.cur.pc ∧ t.cur.st = s.cur.st)
          ∧ t.cur.regs = s.cur.regs ∧ t.cur.slots = s.cur.slots ∧ t.cur.head = s.cur.head)

/-- The accumulator words wait for the pending entries of their accumulator.  mzero clears an accumulator or a pair, its tag
and its scale; mrd writes the selected rows, converted by FD, to the store and raises the flags; mwr loads them from there;
msk sets the skip stream.  Nothing else of accumulators, store or registers changes. mcommit closes the open batch under the
next number, which it delivers, and counts it in mbc while entries of it are outstanding; with eight batches held it waits
for the oldest.  mwaitb goes on where the batch is absent, frees a complete one with its flags, and else waits at its pc.
mstat delivers the counts and tags of its selector (spec/09_matrix.md).
The model's choices it rests on: log entries 39, 40, 134 and 173. -/
def Obligations.AccumulatorWordsAndBatches : Prop :=
  (∀ (s : State) (S : Stall) (c : BitVec 3) (d r : Opnd) (p : BitVec 1),
    let mat := s.curCore.mat
    let n := c.toNat
    let pair := p == 1
    let el (t : State) (k : Nat) : Elem := SMap.get 0 t.curCore.mat.acc k
    let rows := (List.range ((s.opnd r).toNat / 32 % 32 + 1)).map fun j => ((s.opnd r).toNat + j) % 32
    let addr := (s.opnd d).toNat
    let after (t : State) (cycles : Nat) (flags : Nat → Bool) : Prop :=
      t.cur = { s.cur.issued s.now S with
                readyAt := Nat.max (s.now + 1 + S.toNat) (s.now + cycles), st := t.cur.st, localTo := t.cur.localTo,
                localAt := t.cur.localAt }
      ∧ ∀ i, t.cur.st.getLsbD i = ((s.cur.issued s.now S).st.getLsbD i || (decide (i < 5) && flags i))
    (s.clear [] →
      (s.accFree n pair = false → exec (.mzero S c p) s = .next s.hold)
      ∧ (s.accFree n pair = true → ∃ t, exec (.mzero S c p) s = .next t ∧ Within s t ∧ after t 2 (fun _ => false)
        ∧ (∀ k, el t k = if 1024 * n ≤ k ∧ k < 1024 * (n + 1 + p.toNat) then 0 else el s k)
        ∧ (∀ k, SMap.get 0 t.curCore.mat.tag k = if k = n ∨ (p = 1 ∧ k = n + 1) then 0 else SMap.get 0 mat.tag k)
        ∧ SMap.find t.curCore.mat.scale n = if p = 1 then none else SMap.find mat.scale n))
    ∧ (s.clearPfx (mrdAccepts pair) [d, r] →
      (s.accFree n pair = false → exec (.mrd S d r c p) s = .next s.hold)
      ∧ ∀ w, w = (if s.cur.pfx.fd = 9 ∨ s.cur.pfx.fd = 10 then 2 else if pair ∧ s.cur.pfx.fd = 4 then 8 else 4) →
        s.accFree n pair = true → addr % w = 0 → addr + 32 * rows.length * w ≤ (if s.rbe s.cc then 0x58000 else 0x60000) →
        regionsAligned s.curCore.regions →
        (s.localFree s.cc = false ∨ s.guarded s.cc addr (32 * rows.length * w) = true → exec (.mrd S d r c p) s = .next s.hold)
        ∧ (s.localFree s.cc = true → s.guarded s.cc addr (32 * rows.length * w) = false → settled s s.cc →
          let out (j k : Nat) : Flagged :=
            accOut pair (SMap.find mat.scale n) s.cur.pfx.fd s.cur.rm (rows.getD j 0) k
              ((mat.read n pair).getD (32 * rows.getD j 0 + k) 0)
          ∃ t, exec (.mrd S d r c p) s = .next t ∧ WithinStore s t
            ∧ after t (4 + rows.length)
                (fun i => (List.range rows.length).any fun j => (List.range 32).any fun k => (out j k).2.testBit i)
            ∧ (∀ k, el t k = el s k)
            ∧ (∀ j k, j < rows.length → k < 32 → holds t s.cc (addr + (32 * j + k) * w) w (out j k).1)
            ∧ ∀ y, (s.rbe s.cc = true → y < 0x58000) → (y < addr ∨ addr + 32 * rows.length * w ≤ y) →
                t.curCore.lbyte y = s.curCore.lbyte y))
    ∧ (s.clearPfx (mwrAccepts pair) [d, r] →
      (s.accFree n pair = false → exec (.mwr S d r c p) s = .next s.hold)
      ∧ ∀ w, w = (if pair then 8 else 4) →
        s.accFree n pair = true → addr % w = 0 → addr + 32 * rows.length * w ≤ (if s.rbe s.cc then 0x58000 else 0x60000) →
        (s.localFree s.cc = false → exec (.mwr S d r c p) s = .next s.hold)
        ∧ (s.localFree s.cc = true → settled s s.cc →
          ∃ t, exec (.mwr S d r c p) s = .next t ∧ Within s t ∧ after t (4 + rows.length) (fun _ => false)
            ∧ t.curCore.ls = s.curCore.ls
            ∧ (∀ j k, j < rows.length → k < 32 →
                let v := ofBytes (s.curCore.lbytes (addr + (32 * j + k) * w) w)
                el t (1024 * n + 32 * rows.getD j 0 + k) = BitVec.ofNat 32 v
                ∧ (p = 1 → el t (1024 * (n + 1) + 32 * rows.getD j 0 + k) = BitVec.ofNat 32 (v / 2 ^ 32)))
            ∧ ∀ k, (∀ a i j, (a = n ∨ p = 1 ∧ a = n + 1) → i ∈ rows → j < 32 → k ≠ 1024 * a + 32 * i + j) → el t k = el s k))
    ∧ (s.clear [d] → ∃ t, exec (.msk S d) s = .next t ∧ Within s t ∧ t.cur = s.cur.issued s.now S
        ∧ t.curCore.mat = { mat with sk := s.opnd d &&& 0x8000000000FFFFFF }))
  ∧ (∀ (s : State) (S : Stall) (d a : Opnd),
    let mat := s.curCore.mat
    let held := mat.batches.filter fun b => b.ctx == s.cx && b.num != 0
    let count := SMap.get 0 mat.commits s.cx
    let num := if count = 65535 then 1 else count + 1
    let left := ((mat.batches.find? fun b => b.ctx == s.cx && b.num == 0).getD ⟨s.cx, 0, 0, 0⟩).left
    (s.clear [] →
      (8 ≤ held.length → (∀ b, held.head? = some b → b.left ≠ 0) → exec (.mcommit S d) s = .next s.hold)
      ∧ (held.length < 8 → (∀ b ∈ mat.batches, b.ctx = s.cx → b.num ≠ num) →
        ∃ t v, exec (.mcommit S d) s = .next t ∧ Within s t ∧ v = (if left = 0 then s.cur.mbc else s.cur.mbc + 1)
          ∧ Delivered s.cur { s.cur.issued s.now S with mbc := v } t.cur d (BitVec.ofNat 64 num) (s.now + 1) 0
          ∧ (∀ b ∈ t.curCore.mat.batches, b.ctx = s.cx → b.num ≠ 0)
          ∧ (∃ b ∈ t.curCore.mat.batches, b.ctx = s.cx ∧ b.num = num ∧ b.left = left)
          ∧ (∀ e ∈ t.curCore.mat.q, e.ctx = s.cx → e.batch ≠ 0)
          ∧ SMap.get 0 t.curCore.mat.commits s.cx = num ∧ t.curCore.mat.acc = mat.acc))
    ∧ (s.clear [a] →
      let n := (s.opnd a).toNat % 65536
      let b := mat.batches.find? fun b => b.ctx == s.cx && b.num == n
      (n = 0 ∨ b = none → ∃ t, exec (.mwaitb S a) s = .next t ∧ OnlyCur s (s.cur.issued s.now S) 0 t)
      ∧ (∀ x, n ≠ 0 → b = some x → x.left ≠ 0 →
          ∃ t, exec (.mwaitb S a) s = .next t
            ∧ OnlyCur s { s.cur with wait := .batch n, readyAt := s.now + 1 + S.toNat, issuedAt := s.now } 0 t)
      ∧ (∀ x, n ≠ 0 → b = some x → x.left = 0 →
          ∃ t, exec (.mwaitb S a) s = .next t ∧ Within s t
            ∧ t.curCore.mat = { mat with batches := mat.batches.filter fun y => !(y.ctx == s.cx && y.num == n) }
            ∧ t.cur = { s.cur.issued s.now S with st := t.cur.st }
            ∧ ∀ i, t.cur.st.getLsbD i = ((s.cur.issued s.now S).st.getLsbD i || (decide (i < 5) && x.flags.testBit i)))
      ∧ (let v := s.opnd a
        let sel := v.toNat % 16
        let cleared := sel = 0 ∧ v.getLsbD 4 = true
        ∃ t, exec (.mstat S d a) s = .next t ∧ Within s t
          ∧ t.curCore.mat = (if cleared then { mat with chk := 0, unc := 0 } else mat)
          ∧ Delivered s.cur (s.cur.issued s.now S) t.cur d
            (if sel = 0 then BitVec.ofNat 64 (mat.chk + 2 ^ 32 * mat.unc + 2 ^ 48 * mat.q.length)
              else if sel = 1 then BitVec.ofNat 64 ((held.head?.map (·.num)).getD 0 + 2 ^ 16 * held.length
                + 2 ^ 20 * (held.filter fun b => b.left == 0).length + 2 ^ 24 * s.cur.mbc)
              else if 8 ≤ sel then SMap.get 0 mat.tag (sel - 8) else 0) (s.now + 2) 0)))

/-- When the array begins the oldest entry of its core that has not begun and that has no fault, the entry keeps its begin and,
under guard, the bytes of its tiles; one with a fault leaves the queue with the unbegun entries of its context and a late fault
of the lowest cause.  An array that is occupied, and an entry issued less than two cycles before, behind a local access of its
context, or of a context in a debug halt, begin nothing.  When an entry completes, its accumulator holds the result of its steps
on the elements that it found as it began, no other element changes, its
flags join its batch and the counts fall; one whose tag or scale does not fit is a late fault and writes nothing
(spec/09_matrix.md).
The model's choices it rests on: log entries 35, 37, 38 and 135. -/
def Obligations.MatrixEntriesBeginAndComplete : Prop :=
  ∀ (s : State), let core := s.ev.a
    let mat := (s.core core).mat
    let due (e : MEntry) : Prop := mat.freeAt ≤ s.now ∧ e.at_ + 2 ≤ s.now ∧ e.after ≤ s.now
      ∧ (∀ b ∈ (s.core core).sibs, ¬ (b.ctx = e.ctx ∧ b.due < e.at_ + 3))
      ∧ ¬ ((s.ctxAt core e.ctx).status = .halted ∧ (s.ctxAt core e.ctx).hk = 2)
    ((∀ e, mat.nextEntry = some e → ¬ due e) → exec .matrixEntryBegin s = .next s)
    ∧ (∀ e, mat.nextEntry = some e → due e →
      let faults := (s.tileFaults core e.a e.fa e.pl e.planes) ++ (s.tileFaults core e.b e.fb false 0)
      let deep := (s.tileAt core e.a).2.2.ks ≠ (s.tileAt core e.b).2.2.ks
      ∃ t, exec .matrixEntryBegin s = .next t ∧ t.mem = s.mem ∧ (t.core core).ls = (s.core core).ls
        ∧ (∀ c, c ≠ core → t.core c = s.core c) ∧ (t.core core).mat.acc = mat.acc
        ∧ (e.early = none → faults = [] → ¬ deep →
            (∀ x, t.ctxAt core x = s.ctxAt core x)
            ∧ ∃ y ∈ (t.core core).mat.q, y.begunAt = some s.now ∧ y.seq = e.seq ∧ y.ctx = e.ctx
              ∧ y.ks = (s.tileAt core e.a).2.2.ks
              ∧ y.skip = (if e.refine then (mat.tagFor e).toNat / 2 ^ 16 % 2 ^ 16 else e.skip)
              ∧ y.fill = (if (s.tileAt core e.a).1 = core ∧ (s.tileAt core e.b).1 = core then 8 else 12)
              ∧ (t.core core).mat.freeAt + 4 = y.doneAt ∧ s.now + y.fill + 4 ≤ y.doneAt)
        ∧ (∀ k y, s.mfaultOf core e = some (k, y) →
            (∀ z ∈ e.early.toList ++ faults, k ≤ z.1)
            ∧ (t.ctxAt core e.ctx).late = (s.ctxAt core e.ctx).late ++
                [{ kind := 4, cause := k, seq := e.seq, det := e.acc, addr := y }]
            ∧ (t.ctxAt core e.ctx).mbc = 0 ∧ ∀ z ∈ (t.core core).mat.q, z.ctx = e.ctx →
              z.begunAt ≠ none ∧ ∃ w ∈ mat.q, z = { w with out := true }))
    ∧ ∀ e, (mat.q.find? fun e => e.ctx == s.ev.c / 65536 && e.seq == s.ev.c % 65536) = some e →
      let x := s.minput core e
      let r := x.run (mat.found e)
      let skipped := e.refine = true ∧ fld x.tag 1 4 = fld x.tag 5 4 ∧ bit x.tag 9 = false
      ∃ t, exec .matrixEntryCompletion s = .next t ∧ t.mem = s.mem ∧ (t.core core).ls = (s.core core).ls
        ∧ (∀ c, c ≠ core → t.core c = s.core c)
        ∧ (∀ k, s.mlateOf core x = some k → (t.core core).mat.acc = mat.acc
            ∧ (t.ctxAt core e.ctx).late = (s.ctxAt core e.ctx).late ++
                [{ kind := 4, cause := k, seq := e.seq, det := e.acc, addr := e.a }])
        ∧ (s.mlateOf core x = none → (s.core core).injM = false →
            (∀ y ∈ (t.core core).mat.q, y ∈ mat.q ∧ ¬ (y.seq = e.seq ∧ y.ctx = e.ctx))
            ∧ (t.ctxAt core e.ctx).mpend = (s.ctxAt core e.ctx).mpend - 1
            ∧ (t.ctxAt core e.ctx).late = (s.ctxAt core e.ctx).late
            ∧ (skipped → (t.core core).mat.acc = mat.acc)
            ∧ (¬ skipped → ∀ k, SMap.get 0 (t.core core).mat.acc k =
                if 1024 * e.acc ≤ k ∧ k < 1024 * (e.acc + 1) then BitVec.ofNat 32 (r.1.getD (k % 1024) 0)
                else if e.pair = true ∧ 1024 * (e.acc + 1) ≤ k ∧ k < 1024 * (e.acc + 2) then
                  BitVec.ofNat 32 (r.1.getD (k % 1024) 0 / 2 ^ 32)
                else SMap.get 0 mat.acc k)
            ∧ (∀ b, mat.findBatch e.ctx e.batch = some b → ∃ b' ∈ (t.core core).mat.batches,
                b'.ctx = e.ctx ∧ b'.num = e.batch ∧ b'.left = (if e.out then b.left else b.left - 1)
                ∧ b'.flags = if skipped then b.flags else b.flags ||| r.2.1))

/-! ### The keyed space -/

/-- Every keyed word counts its operation in ldc, leaves its results pending and sends it to its slice with its handle and
operands; kprobe, kins, kups and krem push a status first.  A malformed handle traps with cause 31 and the handle's bits in its
record, a bad kiter buffer with its
local cause, a bad knew descriptor as a global access; a full ldc holds the word back (spec/10_keyed.md).
The model's choices it rests on: log entries 53, 140 and 178. -/
def Obligations.KeyedWordsAreCountedAndSent : Prop :=
  ∀ (s : State) (S : Stall) (d a b e : Opnd),
    let id := s.nextId
    let h := s.opnd a
    let bad (h : Word) : Prop := h.toNat % 2 ^ 32 ≠ 0 ∨ h.toNat / 2 ^ 32 % 2 ^ 20 = 0
    let asid := s.asidOf s.cc
    let record (op : Nat) (h : Word) : KReq :=
      { id := id, core := s.cc, ctx := s.cx, op := op, handle := h, asid := asid, gen := (s.space asid).gen,
        gang := s.curCore.gang.getD 0, group := match s.groupKey s.cc with | some g => g.2 | none => 0
        pc := s.cur.wordPc.toNat }
    let sent (i : Instr) (r : KReq) : Prop :=
      ∃ t, exec i s = .next t ∧ Alone s t ∧ Counted s t.cur S d id
        ∧ t.kreqs = SMap.put s.kreqs r.id { r with sl := s.kslice r } ∧ Goes s t .keyedOperationAccept ⟨r.id, 0, 0, 0, []⟩
    let entry (i : Instr) (op : Nat) : Prop :=
      s.clear (if op = 1 ∨ op = 2 then [a, 0x20, 0x21] else [a, 0x20]) →
        (32 ≤ s.cur.ld.length → exec i s = .next s.hold)
        ∧ (s.cur.ld.length < 32 → bad h → exec i s = .next (s.exactHandle 31 h))
        ∧ (s.cur.ld.length < 32 → ¬ bad h →
          ∃ t c, exec i s = .next t ∧ Alone s t ∧ pendingFor s.cur c e id ∧ pendingFor c t.cur d (id + 1)
            ∧ t.cur = { s.cur.issued s.now S with
                        head := t.cur.head, pend := t.cur.pend, ld := s.cur.ld ++ [⟨id + 1, none, false, false⟩] }
            ∧ (let r := { record op h with id := id + 1, also := some id, key := s.cur.q 1, v := s.cur.q 2 }
              t.kreqs = SMap.put s.kreqs (id + 1) { r with sl := s.kslice r })
            ∧ Goes s t .keyedOperationAccept ⟨id + 1, 0, 0, 0, []⟩)
    let byHandle (i : Instr) (op : Nat) (reads : List Opnd) (v : Word) : Prop :=
      s.clear reads →
        (32 ≤ s.cur.ld.length → exec i s = .next s.hold)
        ∧ (s.cur.ld.length < 32 → bad h → exec i s = .next (s.exactHandle 31 h))
        ∧ (s.cur.ld.length < 32 → ¬ bad h → op = 6 → bad v → exec i s = .next (s.exactHandle 31 v))
        ∧ (s.cur.ld.length < 32 → ¬ (bad h ∨ op = 6 ∧ bad v) → sent i { record op h with v := v })
    entry (.kprobe S d a e) 0 ∧ entry (.kins S d a e) 1 ∧ entry (.kups S d a e) 2 ∧ entry (.krem S d a e) 3
    ∧ byHandle (.kdel S d a) 5 [a] 0 ∧ byHandle (.kpub S d a b) 6 [a, b] (s.opnd b)
    ∧ byHandle (.kcfg S d a b) 7 [a, b] (s.opnd b) ∧ byHandle (.kstat S d a b) 9 [a, b] (s.opnd b)
    ∧ (s.clear [a, b, 0x20] → 32 ≤ s.cur.ld.length → exec (.kiter S d a b) s = .next s.hold)
    ∧ (s.clear [a, b] → 32 ≤ s.cur.ld.length → exec (.knew S d a b) s = .next s.hold)
    ∧ (s.clear [a, b, 0x20] → s.cur.ld.length < 32 → s.localWaits (s.opnd b).toNat = false →
        let addr := (s.opnd b).toNat
        let fits := addr + 512 ≤ (if s.rbe s.cc then 0x58000 else 0x60000)
        (addr % 16 ≠ 0 → exec (.kiter S d a b) s = .next (s.exact 1 addr))
        ∧ (addr % 16 = 0 → (localPlace s.cc addr = none ∨ addr < 0x60000 ∧ 0x60000 < addr + 512) →
            exec (.kiter S d a b) s = .next (s.exact 2 addr))
        ∧ (addr % 16 = 0 → s.rbe s.cc = true → 0x58000 < addr + 512 → addr + 512 ≤ 0x60000 →
            exec (.kiter S d a b) s = .next (s.exact 3 addr))
        ∧ (addr % 16 = 0 → fits → bad h → exec (.kiter S d a b) s = .next (s.exactHandle 31 h))
        ∧ (addr % 16 = 0 → fits → ¬ bad h →
            sent (.kiter S d a b) { record 8 h with buf := s.cc * 2 ^ 32 + addr, cur := s.cur.q 1 }))
    ∧ (s.clear [a, b] → s.cur.ld.length < 32 →
        heldUp s h.toNat 8 1 (exec (.knew S d a b) s)
        ∧ ∀ x y, goesTo s h.toNat 8 1 (.here x) → goesTo s (h.toNat + 8) 8 1 (.here y) →
          ∃ t, exec (.knew S d a b) s = .next t ∧ t.mem = s.mem ∧ Counted s t.cur S d id
            ∧ (∀ c, c ≠ s.cc → t.core c = s.core c)
            ∧ (let r := { record 4 0 with v := s.opnd b, dpa := [x, y], va := h.toNat }
              t.kreqs = SMap.put s.kreqs id { r with sl := s.kslice r })
            ∧ Goes s t .keyedOperationAccept ⟨id, 0, 0, 0, []⟩)

/-- An operation that has reached its slice behind no earlier one of its context performs there and is answered, once its bucket
is not held by a split step or a migration, the combining buffer has room for it, and whatever stands before it in line waits
for another bucket that is held; before that it stays in line.  A probe finds its key's value or the
default; an insert leaves a present key alone and gives an absent one its value where its chain has room; an update combines
or inserts; a removal takes the key away; no other key of the slice, byte or core changes.  A dead handle answers its late
fault, kdel deletes the map, kcfg sets the threshold and class, kpub pairs two maps. Growth and migration lose no key: a split
step and the move of a bucket into a facet leave every key of the slice with the value it had; a facet that a map gives up to
the recall that asks for it is free afterwards, and each chain keeps the entries it has room for.  A combining entry leaves
its buffer once it is written, and is not written to a held bucket (spec/10_keyed.md).
The model's choices it rests on: log entries 49, 50, 51, 52, 53, 127, 138, 159 and 178. -/
def Obligations.KeyedOperationsPerformAndGrow : Prop :=
  (∀ (s : State) (r : KReq), SMap.find s.kreqs s.ev.a = some r → r.id = s.ev.a →
    r.sl = s.kslice r → r.recs = [] → (s.ev.b = 1 → r.id ∈ SMap.get [] s.kwait r.sl) →
    let num := r.handle.toNat / 2 ^ 32 % 2 ^ 20
    let held : Prop := ∃ m, s.liveMap (s.kpart r) r.handle = some m ∧ r.op < 4 ∧
      let k := m.key r.key
      (((m.slice (m.index k)).chain ((m.slice (m.index k)).bucket m.b0 k)).state ≠ 0
        ∨ r.op = 2 ∧ s.bufferFull r.sl num k r.gang = true)
    let stays (t : State) : Prop := t.maps = s.maps ∧ t.mem = s.mem ∧ t.cores = s.cores ∧ t.kreqs = s.kreqs ∧ t.resps = s.resps
    (s.kbehind r r.sl = true → ∃ t, exec .keyedOperationAccept s = .next t ∧ stays t
      ∧ Goes s t .keyedOperationAccept ⟨r.id, s.ev.b, 0, 0, []⟩)
    ∧ (s.kbehind r r.sl = false → held → ∃ t, exec .keyedOperationAccept s = .next t ∧ stays t ∧ t.cal = s.cal
        ∧ r.id ∈ SMap.get [] t.kwait r.sl)
    ∧ (s.kbehind r r.sl = false → ¬ held →
        (∀ i ∈ (SMap.get [] s.kwait r.sl).takeWhile (· != r.id), ∀ e, SMap.find s.kreqs i = some e →
          s.kheld e = true ∧ s.kbucket e ≠ s.kbucket r) →
        let ans (t : State) (v st : Word) (fault : Option Nat) : Prop :=
          SMap.find t.kreqs r.id = none
          ∧ SMap.find t.resps r.id = some
              { v := v, also := r.also.map fun i => (i, st),
                fault := fault.map fun c => { kind := 2, cause := c, det := if c = 16 then 0 else num
                                              addr := if c = 16 then r.va else 0, pc := r.pc, access := 5 } }
          ∧ ∃ p ∈ t.cal, p.ev = .resultArrival ∧ p.args = ⟨r.core, r.ctx, r.id, 0, []⟩ ∧ s.now < p.due
        let dead := r.op < 4 ∨ r.op = 5 ∨ r.op = 7 ∨ r.op = 8 ∨ r.op = 9
        (r.gen ≠ (s.space r.asid).gen →
          ∃ t, exec .keyedOperationAccept s = .next t ∧ t.maps = s.maps ∧ t.mem = s.mem ∧ t.cores = s.cores ∧ ans t 0 0 (some 16))
        ∧ (r.gen = (s.space r.asid).gen → dead → s.liveMap (s.kpart r) r.handle = none →
          ∃ t, exec .keyedOperationAccept s = .next t ∧ t.maps = s.maps ∧ t.mem = s.mem ∧ t.cores = s.cores ∧ ans t 0 0 (some 30))
        ∧ (r.gen = (s.space r.asid).gen → r.op = 6 → s.liveMap (s.kpart r) r.handle = none →
          ∃ t, exec .keyedOperationAccept s = .next t ∧ t.maps = s.maps ∧ t.mem = s.mem ∧ t.cores = s.cores ∧ ans t 1 0 (some 30))
        ∧ ∀ m, r.gen = (s.space r.asid).gen → s.liveMap (s.kpart r) r.handle = some m →
          (r.op < 4 →
            let k := m.key r.key
            let x := m.slice (m.index k)
            let c := x.chain (x.bucket m.b0 k)
            (c.ents.map (·.1)).Nodup →
            (c.ents.length < m.room * c.places.length ∨ x.find m.b0 k ≠ none ∨ r.op = 0 ∨ r.op = 3) →
            let found (t : State) (k : Nat) : Option Nat := (t.map num).bind fun m => (m.slice (m.index k)).find m.b0 k
            let others (t : State) : Prop := ∀ j, j ≠ k → found t j = found s j
            let v := r.v.toNat % 2 ^ m.vbits
            let absent := m.miss % 2 ^ m.vbits
            ∃ t, exec .keyedOperationAccept s = .next t ∧ t.mem = s.mem ∧ t.cores = s.cores ∧ others t
              ∧ (∀ old, found s k = some old → (r.op = 0 ∨ r.op = 1) → found t k = some old ∧ ans t (m.extend old) 1 none)
              ∧ (∀ old, found s k = some old → r.op = 2 →
                  found t k = some (m.combine old v) ∧ ans t (m.extend (m.combine old v)) 1 none)
              ∧ (∀ old, found s k = some old → r.op = 3 → found t k = none ∧ ans t (m.extend old) 1 none)
              ∧ (found s k = none → (r.op = 0 ∨ r.op = 3) → found t k = none ∧ ans t (m.extend absent) 0 none)
              ∧ (found s k = none → (r.op = 1 ∨ r.op = 2) → c.ents.length < m.room * c.places.length →
                  let w := if r.op = 2 then m.fresh v else v
                  found t k = some w ∧ ans t (m.extend w) 2 none))
          ∧ (r.op = 5 → m.pub = none → ∃ t, exec .keyedOperationAccept s = .next t ∧ SMap.find t.maps num = none ∧ ans t 0 0 none)
          ∧ (r.op = 7 → r.v.getLsbD 15 = false → r.v.getLsbD 8 = false →
              ∃ t, exec .keyedOperationAccept s = .next t
                ∧ t.map num = some { m with t := r.v.toNat % 256, cls := r.v.toNat / 256 % 4 }
                ∧ ans t (BitVec.ofNat 64 (m.t + 256 * m.cls)) 0 none)
          ∧ (r.op = 9 → r.v.toNat % 16 = 1 →
              ∃ t, exec .keyedOperationAccept s = .next t ∧ t.maps = s.maps ∧ ans t (BitVec.ofNat 64 m.ver) 0 none)
          ∧ (r.op = 6 → ∀ n, s.liveMap (s.kpart r) r.v = some n →
              let other := r.v.toNat / 2 ^ 32 % 2 ^ 20
              (num = other ∨ m.pub.isSome = true ∨ n.pub.isSome = true →
                ∃ t, exec .keyedOperationAccept s = .next t ∧ t.maps = s.maps ∧ ans t 1 0 none)
              ∧ (num ≠ other → m.pub = none → n.pub = none →
                ∃ t, exec .keyedOperationAccept s = .next t
                  ∧ t.map num = some { m with pub := some (other, r.gang, r.group), lead := true }
                  ∧ t.map other = some { n with pub := some (num, r.gang, r.group), lead := false } ∧ ans t 0 0 none))))
  ∧ (∀ (s : State) (m : KMap), let id := s.ev.a
    let i := s.ev.b
    let x := m.slice i
    let found (t : State) (k : Nat) : Option Nat := (t.map id).bind fun m => (m.slice i).find m.b0 k
    (s.map id = some m → 0 < m.b0 → x.p < m.b0 * 2 ^ x.l → SMap.rising 0 x.chains = true →
      (∃ t, exec .splitStep s = .next t ∧ (∀ k, found t k = found s k) ∧ t.cores = s.cores)
      ∧ ∃ t, exec .facetMigration s = .next t ∧ (∀ k, found t k = found s k) ∧ t.cores = s.cores ∧ t.mem = s.mem
          ∧ (x.moveIn s.ev.c ≠ none →
              (SMap.get [] s.kwait (m.slb + i) = [] → Goes s t .facetMigration ⟨id, i, s.ev.c, 0, []⟩)
              ∧ ((t.map id).map fun m => ((m.slice i).facUsed s.ev.c).length) = some ((x.facUsed s.ev.c).length + 1)))
    ∧ (s.combHeld s.ev.a s.ev.c = true → ∃ t, exec .combiningBufferWrite s = .next t ∧ t.combs = s.combs ∧ t.maps = s.maps
        ∧ t.cores = s.cores ∧ Goes s t .combiningBufferWrite ⟨s.ev.a, 0, s.ev.c, 0, []⟩)
    ∧ (s.combHeld s.ev.a s.ev.c = false →
        ∃ t, exec .combiningBufferWrite s = .next t ∧ t.cores = s.cores ∧ t.maps = s.maps ∧ t.mem = s.mem
        ∧ SMap.get [] t.combs s.ev.a = (SMap.get [] s.combs s.ev.a).filter fun e => e.num != s.ev.c)
    ∧ (∀ h, SMap.find s.units s.ev.a = some h → h.underRecall s.ev.c = false → exec .mapUnitSurrender s = .next s)
    ∧ ∀ u h n k, u = s.ev.a → SMap.find s.units u = some h → h.underRecall s.ev.c = true → h.agent = some (1, n) →
        h.gang = none → s.map n = some k → s.waiting u = [] →
        ∃ t, exec .mapUnitSurrender s = .next t ∧ SMap.find t.units u = none
          ∧ ∀ y, t.map n = some y → u ∉ (y.slice (u / 32 - k.slb)).facets
            ∧ ∀ b, ∃ j, ((y.slice (u / 32 - k.slb)).chain b).ents = ((k.slice (u / 32 - k.slb)).chain b).ents.take j)

/-! ### Facets and clause arrays as held units -/

/-- facq, frel and frecall count themselves in ldc, leave their result pending and go to the arbiter; facq answers a malformed
request, a routine's class 2 and a class 2 without a routine by itself; frecall needs a supervisor, and is made for the
partition that the core supervises.  fsur sets the surrender
routine and delivers the old one; fans answers the record of the routine and restores the interrupted state
(spec/14_negotiation.md).
The model's choices it rests on: log entries 44 and 46. -/
def Obligations.NegotiationWordsAskTheArbiter : Prop :=
  ∀ (s : State) (S : Stall) (d a : Opnd) (c n : BitVec 2) (k : BitVec 1),
    let id := s.nextId
    let v := (s.opnd a).toNat
    let gang := s.curCore.gang.getD 0
    let record (src unit : Nat) : UnitReq :=
      { id := id, src := src, core := s.cc, ctx := s.cx, who := (0, gang), unit := unit, part := s.partOf s.cc,
        pri := (s.gang gang).chain.pri, links := (s.gang gang).chain.links }
    let tells (i : Instr) (sts : Nat) : Prop :=
      ∃ t, exec i s = .next t ∧ Alone s t ∧ Counted s t.cur S d id
        ∧ Answered s t s.cc s.cx id { v := BitVec.ofNat 64 (2 ^ 63 + sts * 2 ^ 16 + 4096 * k.toNat) }
    let asks (i : Instr) (q : UnitReq) : Prop :=
      ∃ t, exec i s = .next t ∧ Alone s t ∧ Counted s t.cur S d id
        ∧ t.unitReqs = SMap.put s.unitReqs id q ∧ Goes s t .arbitration ⟨id, 0, 0, 0, []⟩
    (s.clear [a] →
      let i : Instr := .facq S d a c k
      let bad := v / 2 ^ 13 ≠ 0 ∨ k = 1 ∧ v / 4096 % 2 = 0 ∧ 63 < v % 4096
      (32 ≤ s.cur.ld.length → exec i s = .next s.hold)
      ∧ (s.cur.ld.length < 32 →
        (bad → tells i 3)
        ∧ (¬ bad → s.cur.rt = true → c = 2 → tells i 6)
        ∧ (¬ bad → s.cur.rt = false → c = 2 → s.curCore.routine = 0 → tells i 5)
        ∧ (¬ bad → (c = 2 → s.cur.rt = false ∧ s.curCore.routine ≠ 0) →
            asks i { record 0 (if k = 1 then 4096 + v % 4096 else v % 4096) with
                     any := v / 4096 % 2 = 1, cls := c.toNat, routine := s.cur.rt })))
    ∧ (s.clear [a] →
      let idle := s.cur.ld = [] ∧ s.cur.stq = []
      (¬ idle → exec (.frel S d a) s = .next s.hold ∧ exec (.frecall S d a) s = .next s.hold)
      ∧ (idle → asks (.frel S d a) { record 4 (v % 2 ^ 13) with part := s.actsFor s.cc }
        ∧ (s.level s.cc = 0 → exec (.frecall S d a) s = .next (s.exact 63 0))
        ∧ (s.level s.cc ≠ 0 → asks (.frecall S d a) { record 3 (v % 2 ^ 13) with part := s.actsFor s.cc }))
      ∧ (s.cx ≠ 0 ∨ s.cur.rt = true → exec (.fsur S d a) s = .next (s.exact 62 0))
      ∧ (s.cx = 0 → s.cur.rt = false → (v % 4 ≠ 0 ∨ 2 ^ 52 ≤ v) → exec (.fsur S d a) s = .next (s.exact 1 v))
      ∧ (s.cx = 0 → s.cur.rt = false → v % 4 = 0 → v < 2 ^ 52 →
          Gives (exec (.fsur S d a) s) (s.modCurCore fun k => { k with routine := v }) S d
            (BitVec.ofNat 64 s.curCore.routine) (s.now + 1) 0))
    ∧ (s.clear [] → s.cur.ld = [] → s.cur.stq = [] →
      (s.cx ≠ 0 → exec (.fans S n) s = .next (s.exact 62 0))
      ∧ (s.cx = 0 → s.cur.rt = false → exec (.fans S n) s = .next (s.exact 60 0))
      ∧ (s.cx = 0 → s.cur.rt = true → s.cur.pend = [] →
          ∃ t, exec (.fans S n) s = .next t ∧ Restored s s.cc 0 t.cur ∧ t.cur.rt = false ∧ t.curCore.running = none
            ∧ t.curCore.ls = s.curCore.ls
            ∧ ∀ r, s.curCore.running = some r → s.openRecall r = true → (n = 1 ∨ n.toNat = 0 ∧ r.src = 3 ∨ 2 ≤ n.toNat ∧ r.force = true) →
                (∀ q ∈ s.waiting r.unit, q.src = 3) → SMap.find t.units r.unit = none))

/-- The arbiter answers a request: without budget by status 4; a free candidate is granted cleared, to the requester, at this
cycle; where every candidate is held beyond reach, by status 1; frel frees a unit of its own gang, and tells of one that is
not; frecall tells of a unit that is free or of another partition, and frees one of a class that is not recalled
(spec/14_negotiation.md).
The model's choices it rests on: log entries 45 and 46. -/
def Obligations.ArbitrationGrantsAndReleasesUnits : Prop :=
  ∀ (s : State) (q : UnitReq), SMap.find s.unitReqs s.ev.a = some q → q.id = s.ev.a → q.waits = none →
    let ans (t : State) (v : Nat) : Prop :=
      SMap.find t.resps q.id = some { v := BitVec.ofNat 64 v }
        ∧ ∃ p ∈ t.cal, p.ev = .resultArrival ∧ p.args = ⟨q.core, q.ctx, q.id, 0, []⟩
    let kind := if 4096 ≤ q.unit then 4096 else 0
    (q.src = 0 → s.fits q.links 1 1 = false →
      ∃ t, exec .arbitration s = .next t ∧ ans t (2 ^ 63 + 4 * 2 ^ 16 + kind) ∧ t.units = s.units ∧ t.mem = s.mem
        ∧ SMap.find t.unitReqs q.id = none)
    ∧ (∀ u, q.src = 0 → s.fits q.links 1 1 = true → q.candidates.find? (fun u => (SMap.find s.units u).isNone) = some u →
        (∀ l ∈ q.links, l.use + 8 ≤ facetBase) →
      ∃ t, exec .arbitration s = .next t ∧ ans t (2 ^ 63 + kind + u % 4096)
        ∧ (∃ h, SMap.find t.units u = some h ∧ h.gang = some q.who.2 ∧ h.agent = none ∧ h.core = q.core ∧ h.cls = q.cls
            ∧ h.pri = q.pri ∧ h.at_ = s.now ∧ h.links = q.links ∧ h.recalled = none)
        ∧ (∀ w, w ≠ u → SMap.find t.units w = SMap.find s.units w)
        ∧ (u < 4096 → ∀ b, b < 65536 → t.gbyte (facetBase + 65536 * u + b) = 0)
        ∧ (∀ w b, w ≠ u → b < 65536 → t.gbyte (facetBase + 65536 * w + b) = s.gbyte (facetBase + 65536 * w + b))
        ∧ (4096 ≤ u → SMap.find t.arrays (u - 4096) = none)
        ∧ t.cores = s.cores)
    ∧ (q.src = 0 → s.fits q.links 1 1 = true → q.candidates.find? (fun u => (SMap.find s.units u).isNone) = none →
        (∀ u ∈ q.candidates, s.reachable q 1 u = false ∧ s.reachable q 2 u = false) →
        ∃ t, exec .arbitration s = .next t ∧ ans t (2 ^ 63 + 2 ^ 16 + kind) ∧ t.units = s.units ∧ t.mem = s.mem)
    ∧ (q.src = 3 →
      (SMap.find s.units q.unit = none → ∃ t, exec .arbitration s = .next t ∧ ans t 1 ∧ t.units = s.units)
      ∧ ∀ h, SMap.find s.units q.unit = some h →
        (s.unitPart h ≠ some q.part → ∃ t, exec .arbitration s = .next t ∧ ans t 1 ∧ t.units = s.units)
        ∧ (s.unitPart h = some q.part → h.agent = none → h.cls ≠ 2 → s.waiting q.unit = [] →
            ∃ t, exec .arbitration s = .next t ∧ ans t 0 ∧ SMap.find t.units q.unit = none
              ∧ ∀ w, w ≠ q.unit → SMap.find t.units w = SMap.find s.units w))
    ∧ (q.src = 4 →
      (SMap.find s.units q.unit = none → ∃ t, exec .arbitration s = .next t ∧ ans t 1 ∧ t.units = s.units)
      ∧ ∀ h, SMap.find s.units q.unit = some h →
        (h.agent ≠ none → ∃ t, exec .arbitration s = .next t ∧ ans t 2 ∧ t.units = s.units)
        ∧ (h.agent = none → h.gang ≠ some q.who.2 → ∃ t, exec .arbitration s = .next t ∧ ans t 1 ∧ t.units = s.units)
        ∧ (h.agent = none → h.gang = some q.who.2 → s.waiting q.unit = [] →
            ∃ t, exec .arbitration s = .next t ∧ ans t 0 ∧ SMap.find t.units q.unit = none
              ∧ ∀ w, w ≠ q.unit → SMap.find t.units w = SMap.find s.units w))

/-- A surrender routine is entered by the control context with the head record pushed and in g1, its state saved as at a trap,
and it waits for the context's local accesses and for the guard over its frame; an overrun frees the record's unit, sends the
supervisor core a message and restores that state; a FINISH deadline frees a unit that is still held
(spec/14_negotiation.md).
The model's choices it rests on: log entry 43. -/
def Obligations.SurrenderRoutinesAreEnteredAndEnd : Prop :=
  ∀ (s : State), let core := s.ev.a
    let k := s.core core
    let c := (s.ctxAt core 0)
    (s.routineReady core = true → s.routineHeld core = true → (∀ i, c.wait ≠ .watch i) →
      ∃ t, exec .routineEntry s = .next t ∧ (t.ctxAt core 0).wait = .entry none ∧ (t.ctxAt core 0).regs = c.regs
        ∧ (t.core core).recalls = k.recalls ∧ (t.core core).ls = k.ls ∧ t.mem = s.mem ∧ ∀ d, d ≠ core → t.core d = s.core d)
    ∧ (∀ r rest, k.recalls = r :: rest → s.routineReady core = true → c.pend = [] → s.routineHeld core = false →
        (∀ i, c.wait ≠ .watch i) → s.frameFits core 0 →
      ∃ t, exec .routineEntry s = .next t ∧ t.mem = s.mem ∧ (∀ d, d ≠ core → t.core d = s.core d)
        ∧ Saved t core 0 c c.trec c.taddr
        ∧ (t.core core).recalls = rest ∧ (t.core core).running = some r ∧ (t.core core).rcount = 0
        ∧ let u := t.ctxAt core 0
          u.rt = true ∧ u.pc = BitVec.ofNat 52 k.routine ∧ u.g 1 = r.word ∧ u.q 1 = r.word ∧ u.prefixed = false
            ∧ u.inFrame = false ∧ u.trec = c.trec ∧ u.taddr = c.taddr ∧ (∀ n, n ≠ 1 → u.g n = c.g n))
    ∧ ((k.recalls = [] ∨ s.routineReady core = false) → exec .routineEntry s = .next s)
    ∧ (∀ r, k.running = some r → c.pend = [] → s.openRecall r = true → s.waiting r.unit = [] →
        ∃ t, exec .routineOverrun s = .next t ∧ SMap.find t.units r.unit = none ∧ Restored s core 0 (t.ctxAt core 0)
          ∧ (t.ctxAt core 0).rt = false ∧ (t.core core).running = none ∧ (t.core core).ls = k.ls
          ∧ Reported s t (s.partOf core) core 0 0 4)
    ∧ (∀ r rest, k.running = none → k.recalls = r :: rest → s.openRecall r = true → s.waiting r.unit = [] →
        ∃ t, exec .routineOverrun s = .next t ∧ SMap.find t.units r.unit = none ∧ (t.core core).recalls = rest
          ∧ Reported s t (s.partOf core) core 0 0 4)
    ∧ ∀ h, SMap.find s.units s.ev.a = some h →
      ((h.finish = true ∧ h.recalled = some s.ev.c → s.waiting s.ev.a = [] →
          ∃ t, exec .finishDeadline s = .next t ∧ SMap.find t.units s.ev.a = none)
      ∧ (¬ (h.finish = true ∧ h.recalled = some s.ev.c) → exec .finishDeadline s = .next s))

/-! ### Engines and plane-cast -/

/-- fpush takes the 32 bytes at its address as a command with what it must wait for, counts it in enc and delivers 0; a full
FIFO delivers 1, a full codec 2.  fpop takes the oldest element of its context, fpeek reads it, fstat counts; FID 15 outside
a supervisor traps.  A bad address traps exactly. pland arms a slot on a landing tile, completes the header and clears the
bytes after its place, and delivers 0, or 1 where the slot is landing, or 2 where the tile is none; pcnt reads a slot's
status; pwait, which meets a slot two cycles after the words that act there, delivers it once its counter is reached or nothing
more will land, and else waits at its pc; pcancel cancels an
armed or landing slot (spec/11_engines.md, spec/12_planecast.md).
The model's choices it rests on: log entries 10, 56 and 66. -/
def Obligations.FifoAndLandingWords : Prop :=
  (∀ (s : State) (S : Stall) (d a : Opnd) (f : BitVec 4),
    let k := s.curCore
    let addr := (s.opnd a).toNat
    let level := s.level s.cc
    let free := 32 - (k.cmds.length + k.results.length)
    (s.clear [a] → s.localWaits addr = false →
      (∀ x, localFault s addr 32 = some x → exec (.fpush S d a f) s = .next (s.exact x addr))
      ∧ ∀ t z, localFault s addr 32 = none → localPlace s.cc addr = some (t, z) →
        (16 ≤ k.cmds.length ∨ free = 0 → Gives (exec (.fpush S d a f) s) s S d 1 (s.now + 1) 0)
        ∧ (k.cmds.length < 16 → free ≠ 0 → f = 3 → 4 ≤ s.codecs s.cc → Gives (exec (.fpush S d a f) s) s S d 2 (s.now + 1) 0)
        ∧ (k.cmds.length < 16 → free ≠ 0 → ¬ (f = 3 ∧ 4 ≤ s.codecs s.cc) → settled s t →
            ∃ u, exec (.fpush S d a f) s = .next u ∧ u.mem = s.mem ∧ (∀ c, c ≠ s.cc → u.core c = s.core c)
              ∧ (∀ x, x ≠ s.cx → u.ctxAt s.cc x = s.ctxAt s.cc x) ∧ u.curCore.ls = k.ls
              ∧ (let c : Cmd :=
                  { id := s.nextId, ctx := s.cx, fid := f.toNat, bytes := (s.core t).lbytes z 32, capAt := s.now + 2,
                    after := s.cur.localAt, waits := s.cur.engineWaits, vwaits := k.vec.stores s.cx }
                u.curCore.cmds = k.cmds ++ [c])
              ∧ Delivered s.cur { s.cur.issued s.now S with
                  enc := s.cur.enc + 1, localTo := t, localAt := s.now + (if t = s.cc then 2 else 4) } u.cur d 0 (s.now + 1) 0))
    ∧ (s.clear [] →
      (f = 15 → level = 0 → exec (.fpop S d f) s = .next (s.exact 40 0) ∧ exec (.fpeek S d f) s = .next (s.exact 40 0)
        ∧ exec (.fstat S d f) s = .next (s.exact 40 0))
      ∧ (f = 15 → level ≠ 0 →
        Gives (exec (.fpeek S d f) s) s S d (k.fifo15.headD 0) (s.now + 2) 0
        ∧ Gives (exec (.fpop S d f) s) (s.modCurCore fun k => { k with fifo15 := k.fifo15.tail }) S d (k.fifo15.headD 0) (s.now + 2) 0)
      ∧ (f ≠ 15 → (k.results.find? fun r => r.ctx == s.cx && r.fid == f.toNat) = none →
        Gives (exec (.fpeek S d f) s) s S d 0 (s.now + 2) 0 ∧ Gives (exec (.fpop S d f) s) s S d 0 (s.now + 2) 0)
      ∧ (∀ r, f ≠ 15 → (k.results.find? fun r => r.ctx == s.cx && r.fid == f.toNat) = some r →
        Gives (exec (.fpeek S d f) s) s S d r.v (s.now + 2) 0
        ∧ Gives (exec (.fpop S d f) s) (s.modCurCore fun k => { k with results := k.results.filter fun x => x.id != r.id }) S d
            r.v (s.now + 2) 0)
      ∧ (f ≠ 15 ∨ level ≠ 0 →
        let n := if f = 15 then k.fifo15.length else (k.results.filter fun r => r.ctx == s.cx && r.fid == f.toNat).length
        Gives (exec (.fstat S d f) s) s S d
          (BitVec.ofNat 64 ((16 - k.cmds.length) + 2 ^ 5 * free + 2 ^ 16 * (if n ≤ 63 then n else 63)
            + (if f = 3 ∧ 4 ≤ s.codecs s.cc then 2 ^ 22 else 0) + 2 ^ 32 * s.cur.enc)) (s.now + 1) 0)))
  ∧ (∀ (s : State) (S : Stall) (d a : Opnd) (n : BitVec 4),
    let slot (t : State) (k : Nat) : Land := SMap.get {} t.curCore.land k
    let l := slot s n.toNat
    let status (l : Land) : Word :=
      BitVec.ofNat 64 (l.cnt + 2 ^ 4 * l.st + 2 ^ 8 * l.w + 2 ^ 12 * l.ks + 2 ^ 16 * l.src + 2 ^ 27 * l.sdev + 2 ^ 36 * l.addr)
    let h := (s.opnd a).toNat
    let lim := if s.rbe s.cc then 0x58000 else 0x60000
    (s.clear [a] →
      (s.localFree s.cc = false → exec (.pland S d a n) s = .next s.hold)
      ∧ (s.localFree s.cc = true →
        (h % 64 ≠ 0 → exec (.pland S d a n) s = .next (s.exact 1 h))
        ∧ (h % 64 = 0 → localPlace s.cc h ≠ some (s.cc, h % 0x80000) → exec (.pland S d a n) s = .next (s.exact 41 h))
        ∧ (h % 64 = 0 → localPlace s.cc h = some (s.cc, h % 0x80000) →
          let o := h % 0x80000
          let t := s.tile s.cc o
          let good := t.tag = 4 ∧ 0x32 ≤ t.fmt ∧ t.fmt ≤ 0x38 ∧ o + tileLen 4 t.fmt t.depth (blockWidth t.fmt) ≤ lim
          (s.rbe s.cc = true → 0x58000 ≤ o → exec (.pland S d a n) s = .next (s.exact 3 h))
          ∧ (o < lim → l.st = 2 → Gives (exec (.pland S d a n) s) s S d 1 (s.now + 3) 0)
          ∧ (o < lim → l.st ≠ 2 → ¬ good → Gives (exec (.pland S d a n) s) s S d 2 (s.now + 3) 0)
          ∧ (o < lim → l.st ≠ 2 → good → s.guarded s.cc o 64 = false → regionsAligned s.curCore.regions →
            ∃ u x, exec (.pland S d a n) s = .next u ∧ WithinStore s u
              ∧ Delivered s.cur { s.cur.issued s.now S with localTo := s.cc, localAt := s.now + 2 } u.cur d 0 (s.now + 3) 0
              ∧ (∀ k, slot u k = if k = n.toNat then { st := 1, w := blockWidth t.fmt, ks := t.ks, addr := h } else slot s k)
              ∧ holds u s.cc o 3 x ∧ x % 2 ^ 4 = 4 ∧ x / 2 ^ 4 % 2 ^ 3 = spanOf s.curCore.regions o ∧ x / 2 ^ 8 % 2 ^ 8 = t.fmt
              ∧ x / 2 ^ 16 % 2 ^ 4 = t.ks ∧ x / 2 ^ 20 % 2 ^ 4 = n.toNat
              ∧ (∀ y, o + 8 ≤ y → y < o + 64 → u.curCore.lbyte y = 0) ∧ OutsideSame s u s.cc o 64)))
      ∧ (let v := h
        let m : Land := SMap.get {} s.curCore.landSeen n.toNat
        let past := v ≤ m.cnt ∨ m.st = 0 ∨ m.st = 3 ∨ m.st = 4
        (past → Gives (exec (.pwait S d a n) s) s S d (status m) (s.now + 1) 0)
        ∧ (¬ past → ∃ t, exec (.pwait S d a n) s = .next t
            ∧ OnlyCur s { s.cur with wait := .landing n.toNat v d, readyAt := s.now + 1 + S.toNat, issuedAt := s.now } 0 t)))
    ∧ (s.clear [] → Gives (exec (.pcnt S d n) s) s S d (status l) (s.now + 3) 0
      ∧ (let l' : Land := if l.st = 1 ∨ l.st = 2 then { l with st := 4 } else l
        ∃ t, exec (.pcancel S d n) s = .next t ∧ t.mem = s.mem ∧ (∀ c, c ≠ s.cc → t.core c = s.core c) ∧ t.curCore.ls = s.curCore.ls
          ∧ (∀ k, slot t k = if k = n.toNat then l' else slot s k)
          ∧ Delivered s.cur (s.cur.issued s.now S) t.cur d (status l') (s.now + 3) 0
          ∧ ∀ x v, l.st = 2 → SMap.find s.xfers l.xfer = some x → x.branches[l.branch]? = some v →
              let last := x.cmd = none ∧ ∀ b w, x.branches[b]? = some w → b ≠ l.branch → w.ended ≠ 0
              (last → SMap.find t.xfers l.xfer = none)
              ∧ (¬ last →
                (∃ y w, SMap.find t.xfers l.xfer = some y ∧ y.branches[l.branch]? = some w ∧ w.ended = 3)
                ∧ ∃ p ∈ t.cal, p.ev = .cancelAtRouter ∧ p.args = ⟨l.xfer, l.branch, 0, 0, []⟩))))

/-- A command of a core that has not begun and whose code its FID does not take ends with status 1.  A command that has begun
moves its data: COPY and COPYL write what they have read, word after word, at the places of their fields, GATHER the words of its
rows; COPY and COPYL read the next words; GPRE changes nothing but counts; HOTSET installs the row it has read in its facet;
each codec writes the block or row it has computed, an encoder row by row the exponents and mantissas at their places of the
tile and the header at last.  Registers are as before throughout (spec/11_engines.md).
The model's choices it rests on: log entries 57, 58, 61, 63 and 162. -/
def Obligations.EngineCommandsMoveTheirData : Prop :=
  ∀ (s : State) (c : Cmd), let core := s.ev.a
    s.findCmd core s.ev.b = some c → c.id = s.ev.b → c.ended = false →
    let same (t : State) (d : Nat) : Prop := CtxsSame s t ∧ ∀ k, k ≠ d → (t.core k).ls = (s.core k).ls
    let noSide := ∀ e ∈ s.sides, c.id ∉ e.2.users
    (c.begun = false → c.known = false → noSide → ∀ i,
      (i = .copy ∨ i = .copyl ∨ i = .gather ∨ i = .gpre ∨ i = .hotset ∨ i = .codecCompress ∨ i = .codecExpand
        ∨ i = .codecBlockEncode ∨ i = .codecBlockDecode ∨ i = .pbcast ∨ i = .pgather ∨ i = .prscat ∨ i = .prelay) →
      ∃ t, exec i s = .next t ∧ same t core ∧ t.mem = s.mem ∧ (t.core core).ls = (s.core core).ls
        ∧ EndsWith t core { c with begun := true, asid := s.asidOf core, gen := (s.space (s.asidOf core)).gen } 1 0)
    ∧ (c.begun = true →
      (∀ d base i, (i = .copy ∧ c.code = 1 ∧ c.out = false ∧ d = core ∧ base = c.n 4 4
            ∨ i = .copyl ∧ c.code = 2 ∧ d = c.n 8 2 ∧ base = c.n 12 4 ∧ (s.core d).copylHeld = false ∧ (s.copyTurn core c).2 = true) →
          let at_ := base + (if c.hdr then 64 else 0) + c.wr
          at_ % 8 = 0 → c.buf ≠ [] → c.buf.length % 8 = 0 → c.total ≤ c.rd → s.openRange d at_ c.buf.length →
          ∃ t n, exec i s = .next t ∧ same t d ∧ t.mem = s.mem ∧ 0 < n ∧ 8 * n ≤ c.buf.length
            ∧ HoldsBytes t d at_ (c.buf.take (8 * n)) ∧ OutsideSame s t d at_ (8 * n)
            ∧ Continues s t core { c with buf := c.buf.drop (8 * n), wr := c.wr + 8 * n })
      ∧ (∀ base i, (i = .copy ∧ c.code = 1 ∧ c.out = true ∧ base = c.n 4 4 + (if c.hdr then 64 else 0) ∨ i = .copyl ∧ c.code = 2 ∧ base = c.n 4 4) →
          c.buf = [] → c.failed = false → c.rd < c.total → (base + c.rd) % 8 = 0 → c.rd % 8 = 0 → c.total % 8 = 0 →
          base + c.total ≤ (if s.rbe core then 0x58000 else 0x60000) →
          ∃ t n, exec i s = .next t ∧ same t core ∧ t.mem = s.mem ∧ (t.core core).ls = (s.core core).ls ∧ 0 < n
            ∧ c.rd + 8 * n ≤ c.total
            ∧ Continues s t core { c with buf := (s.core core).lbytes (base + c.rd) (8 * n), rd := c.rd + 8 * n })
      ∧ (∀ key rest row, c.idx = key :: rest → (c.rows.find? fun e => e.1 == key) = some (key, row) → c.n 16 4 ≤ c.rd →
          let dst := c.n 24 4 + c.wr / c.rlen * c.rlen
          0 < c.rlen → c.wr % 8 = 0 → c.rlen % 8 = 0 → c.n 24 4 % 8 = 0 → row.length = c.rlen → s.openRange core dst c.rlen →
          ∃ t, exec .gather s = .next t ∧ same t core ∧ t.mem = s.mem
            ∧ HoldsBytes t core (dst + c.wr % c.rlen) ((row.drop (c.wr % c.rlen)).take 8)
            ∧ ∀ y, (s.rbe core = true → y < 0x58000) → y < dst + c.wr % c.rlen → (t.core core).lbyte y = (s.core core).lbyte y)
      ∧ (c.n 16 4 ≤ c.rd → ∃ t, exec .gpre s = .next t ∧ EndsWith t core c 0 c.wr)
      ∧ (c.rd < c.n 16 4 → ∃ t c', exec .gpre s = .next t ∧ same t core ∧ (t.core core).ls = (s.core core).ls
            ∧ Continues s t core c' ∧ c.rd < c'.rd ∧ c'.rd ≤ c.n 16 4 ∧ c.wr ≤ c'.wr ∧ c'.wr + c.rd ≤ c.wr + c'.rd
            ∧ c' = { c with rd := c'.rd, wr := c'.wr })
      ∧ (∀ h x pa, SMap.find s.hots (octOf core) = some h → h.core = core → h.gang = (s.core core).gang.getD 0 → h.asked = 0 → c.rd < c.n 16 4 → h.room = some pa →
          c.cur = some x → c.rlen ≤ c.buf.length →
          ∃ t, exec .hotset s = .next t ∧ same t core ∧ (t.core core).ls = (s.core core).ls
            ∧ (∀ y, t.gbyte y = if pa ≤ y ∧ y < pa + c.buf.length then c.buf.getD (y - pa) 0 else s.gbyte y)
            ∧ SMap.find t.hots (octOf core) = some { h with rows := h.rows ++ [(x, pa)] }
            ∧ Continues s t core { c with rd := c.rd + 1, wr := c.wr + 1, cur := none, buf := [] })
      ∧ (let code := (s.space c.asid).code
        let b := c.wr
        ∀ out size, compressBlock c.kind code c.buf (s.freeN 4) = (size, out) → b < c.n 16 1 → c.rd = b + 1 → 0 < out.length →
          out.length ≤ 1024 → s.openRange core (c.n 8 4 + 1024 * b) 1024 → c.n 12 4 % 2 = 0 →
          s.openRange core (c.n 12 4 + 2 * b) 2 →
          (c.n 12 4 + 2 * b + 2 ≤ c.n 8 4 + 1024 * b ∨ c.n 8 4 + 1024 * b + 1024 ≤ c.n 12 4 + 2 * b) →
          ∃ t, exec .codecCompress s = .next t ∧ same t core ∧ t.mem = s.mem
            ∧ HoldsBytes t core (c.n 8 4 + 1024 * b) out ∧ holds t core (c.n 12 4 + 2 * b) 2 size
            ∧ Continues s t core { c with wr := b + 1, buf := [] })
      ∧ (∀ out, expandBlock c.kind (s.space c.asid).code (c.cur.getD 0) c.buf = (out, true) → c.wr < c.n 16 1 → c.rd = c.wr + 1 →
          0 < out.length → s.openRange core (c.n 8 4 + 1024 * c.wr) out.length →
          ∃ t, exec .codecExpand s = .next t ∧ same t core ∧ t.mem = s.mem
            ∧ HoldsBytes t core (c.n 8 4 + 1024 * c.wr) out ∧ OutsideSame s t core (c.n 8 4 + 1024 * c.wr) out.length
            ∧ Continues s t core { c with wr := c.wr + 1, cur := none, buf := [] })
      ∧ (let row := encodeRow c.hTag (blockWidth c.hFmt) (c.flg / 32 % 2)
            ((List.range c.hK).map fun k => ofBytes ((c.buf.drop (4 * k)).take 4))
        let pieces := rowPieces c.hTag (blockWidth c.hFmt) c.hK c.wr row.1 row.2.1
        c.wr < 32 → c.rd = c.wr + 1 → c.buf.length = 4 * c.hK →
          (∀ p ∈ pieces, p.2 ≠ [] ∧ s.openRange core (c.n 8 4 + p.1) p.2.length) →
          (pieces.Pairwise fun p q => p.1 + p.2.length ≤ q.1 ∨ q.1 + q.2.length ≤ p.1) →
          ∃ t, exec .codecBlockEncode s = .next t ∧ same t core ∧ t.mem = s.mem
            ∧ (∀ p ∈ pieces, HoldsBytes t core (c.n 8 4 + p.1) p.2)
            ∧ Continues s t core { c with fl := c.fl ||| (row.2.2 % 8 + 8 * (row.2.2 / 16 % 2)), wr := c.wr + 1, buf := [] })
      ∧ (c.wr = 32 → noSide → s.openRange core (c.n 8 4) 64 →
          ∃ t, exec .codecBlockEncode s = .next t ∧ same t core ∧ t.mem = s.mem
            ∧ holds t core (c.n 8 4) 3 (putBits (c.n 20 3) 4 3 (spanOf (s.core core).regions (c.n 8 4)))
            ∧ (∀ y, c.n 8 4 + 3 ≤ y → y < c.n 8 4 + 64 → (t.core core).lbyte y = 0)
            ∧ OutsideSame s t core (c.n 8 4) 64 ∧ EndsWith t core c 0 (128 * c.hK))
      ∧ (∀ tag fmt K, c.cur = some (tag + 16 * fmt + 4096 * K) → tag < 16 → fmt < 256 → c.wr < 32 → c.rd = c.wr + 1 →
          0 < K → c.buf.length = 4 * K → s.openRange core (c.n 8 4 + c.wr * (4 * K)) (4 * K) →
          c.n 4 4 + 64 ≤ (if s.rbe core then 0x58000 else 0x60000) →
          ∃ t, exec .codecBlockDecode s = .next t ∧ same t core ∧ t.mem = s.mem
            ∧ HoldsBytes t core (c.n 8 4 + c.wr * (4 * K)) c.buf ∧ OutsideSame s t core (c.n 8 4 + c.wr * (4 * K)) (4 * K)
            ∧ Continues s t core { c with wr := c.wr + 1, buf := [] }))

/-- A completed command leaves its element for its context and lowers enc; an engine block that surrenders a facet frees it
and its rows (spec/11_engines.md).  PBCAST, PGATHER and PRELAY send section after section of their tile to every branch not
known to have ended, and end with their counts; PRSCAT sends each chunk to its member; a chunk joins its reduction; a pruned
branch is known. A section that arrives in order for a landing slot bound to its branch writes its bytes at its place of the
tile, and only there, and once all of it has landed the slot's count rises; the last one ends the branch.  The first section
binds an armed slot of its shape; a slot that is not armed for it refuses the branch and keeps its state; a section out of
order waits (spec/11_engines.md, spec/12_planecast.md).
The model's choices it rests on: log entries 65, 66, 67, 129 and 131. -/
def Obligations.CollectivesSendAndLandSections : Prop :=
  (∀ (s : State) (c : Cmd), let core := s.ev.a
    (s.findCmd core s.ev.b = some c → c.id = s.ev.b →
      (let v : Word := BitVec.ofNat 64 (c.n 2 2 + 0x10000 * c.n 0 1 + 0x1000000 * c.sts + 0x10000000 * c.fl + 0x100000000 * c.det + 0x8000000000000000)
        ∃ t, exec .commandCompletion s = .next t ∧ t.mem = s.mem ∧ (∀ k, k ≠ core → t.core k = s.core k)
          ∧ (t.core core).results = (s.core core).results ++ [⟨c.id, c.ctx, c.fid, v⟩]
          ∧ (t.core core).cmds = (s.core core).cmds.filter (fun x => x.id != c.id)
          ∧ t.ctxAt core c.ctx = { s.ctxAt core c.ctx with enc := (s.ctxAt core c.ctx).enc - 1 })
      ∧ (c.ended = false → c.begun = true →
        (∀ i x, (i = .pbcast ∨ i = .pgather ∨ i = .prelay) → SMap.find s.xfers c.xfer = some x →
          (x.sent ≤ x.w → x.stopped = false →
            let at_ := c.n 4 4 + sectionAt x.ks x.sent
            at_ % 8 = 0 → at_ + sectionLen x.ks x.sent ≤ (if s.rbe core then 0x58000 else 0x60000) →
            ∃ t, exec i s = .next t ∧ CtxsSame s t ∧ t.mem = s.mem ∧ (∀ k, (t.core k).ls = (s.core k).ls)
              ∧ SMap.find t.xfers c.xfer = some { x with sent := x.sent + 1 } ∧ Continues s t core c
              ∧ ∀ b v, x.branches[b]? = some v → v.known = false → ∃ p ∈ t.cal, p.ev = .sectionArrival ∧ s.now < p.due
                  ∧ p.args = ⟨c.xfer, b, x.sent, 0, (s.core core).lbytes at_ (sectionLen x.ks x.sent)⟩)
          ∧ ((x.w < x.sent ∨ x.stopped = true) → (∀ v ∈ x.branches, v.known = true) →
            ∃ t, exec i s = .next t ∧ SMap.find t.xfers c.xfer = none
              ∧ EndsWith t core c 0 ((x.sent - 1) + (if x.sent < x.w + 1 then 16 else 0)
                  + (if x.branches.any (fun v => v.ended == 2) then 32 else 0))))
        ∧ (∀ m, c.idx[c.rd]? = some m →
            let len := 128 * c.pK
            let at_ := c.n 4 4 + len * c.rd
            at_ % 8 = 0 → at_ + len ≤ (if s.rbe core then 0x58000 else 0x60000) →
            ∃ t p, exec .prscat s = .next t ∧ CtxsSame s t ∧ t.cal = s.cal ++ [p] ∧ p.ev = .prscatChunkArrival ∧ s.now < p.due
              ∧ p.args = ⟨m, c.cur.getD 0, c.n 9 1 + 16 * c.n 10 1, BitVec.ofNat 64 c.idx.length,
                  (c.idx.map fun m => toBytes 2 m).flatten ++ (s.core core).lbytes at_ len⟩
              ∧ Continues s t core { c with rd := c.rd + 1 }))
      ∧ (c.ended = false → c.begun = false → c.known = true →
        let c' := { c with begun := true, asid := s.asidOf core, gen := (s.space (s.asidOf core)).gen }
        prscatOk core s c' = true → ∀ m ms r, s.membersAt core c' = some (ms, r) → ms[c.rd]? = some m →
          c.n 4 4 + 128 * c.pK * c.rd + 128 * c.pK ≤ (if s.rbe core then 0x58000 else 0x60000) →
          ∃ t n, exec .prscat s = .next t ∧ s.now < n
            ∧ t.findCmd core c.id = some { c' with rd := c.rd + 1, idx := ms, cur := some r, nextAt := n }))
    ∧ (∀ h, SMap.find s.units s.ev.a = some h → h.underRecall s.ev.c = false → exec .engineBlockSurrender s = .next s)
    ∧ (∀ u h o x, u = s.ev.a → SMap.find s.units u = some h → h.underRecall s.ev.c = true → h.agent = some (2, o) → h.gang = none → s.waiting u = [] →
        SMap.find s.hots o = some x →
        ∃ t, exec .engineBlockSurrender s = .next t ∧ SMap.find t.units u = none
          ∧ ∃ y, SMap.find t.hots o = some y ∧ y.facets = x.facets.filter (· != u)
            ∧ ∀ e, e ∈ y.rows ↔ e ∈ x.rows ∧ ¬ (facetBase + 65536 * u ≤ e.2 ∧ e.2 < facetBase + 65536 * u + 65536))
    ∧ (s.enginesRun core = true → (s.core core).scatters = [] → 1 < s.ev.w.toNat →
        let n := s.ev.w.toNat
        let ms := (List.range n).map fun i => ofBytes ((s.ev.data.drop (2 * i)).take 2)
        ∃ t, exec .prscatChunkArrival s = .next t ∧ CtxsSame s t ∧ t.mem = s.mem
          ∧ (t.core core).scatters = [⟨s.ev.c % 16, s.ev.c / 16, ms, [(s.ev.b, s.ev.data.drop (2 * n))]⟩])
    ∧ ∀ x v, SMap.find s.xfers s.ev.a = some x → x.branches[s.ev.b]? = some v →
        ∃ t y w, exec .cancelAtRouter s = .next t ∧ t.cores = s.cores ∧ t.mem = s.mem ∧ SMap.find t.xfers s.ev.a = some y
          ∧ y.branches[s.ev.b]? = some w ∧ w = { v with known := true }
          ∧ (∀ b, b ≠ s.ev.b → y.branches[b]? = x.branches[b]?) ∧ y.sent = x.sent
          ∧ (y.stopped = true ↔ ∀ z ∈ y.branches, z.known = true ∧ z.ended ≠ 1))
  ∧ (∀ (s : State) (x : Xfer) (v : Branch), let id := s.ev.a
    let b := s.ev.b
    let sec := s.ev.c
    let off := s.ev.w.toNat
    SMap.find s.xfers id = some x → x.branches[b]? = some v → v.ended = 0 → v.dev = none →
    (x.dev = none ∨ x.gang = (s.core v.core).gang) →
    let mine := (s.myTurn (s.sectionTurn id b sec x v)).2 = true
    let slot (t : State) (k : Nat) : Land := SMap.get {} (t.core v.core).land k
    let l := slot s v.slot
    let data := s.ev.data
    let at_ := l.addr + sectionAt l.ks sec + off
    (v.got ≠ sec ∨ ¬ mine → ∃ t p, exec .sectionArrival s = .next t ∧ t.cores = s.cores ∧ t.cal = s.cal ++ [p] ∧ p.ev = .sectionArrival
      ∧ p.args = ⟨id, b, sec, BitVec.ofNat 64 off, data⟩)
    ∧ (v.got = sec → mine → s.lands v.core = true →
      (l.st = 2 → l.xfer = id → l.branch = b → l.addr % 64 = 0 → off < data.length → off % 8 = 0 → data.length % 8 = 0 →
        l.addr + 64 ≤ 0x60000 → (s.rbe v.core = true → l.addr + 64 ≤ 0x58000) →
        s.openRange v.core at_ (data.length - off) →
        ∃ t n, exec .sectionArrival s = .next t ∧ CtxsSame s t ∧ t.mem = s.mem ∧ 0 < n ∧ off + 8 * n ≤ data.length
          ∧ HoldsBytes t v.core at_ ((data.drop off).take (8 * n)) ∧ OutsideSame s t v.core at_ (8 * n)
          ∧ (∀ k, k ≠ v.core → t.core k = s.core k) ∧ (∀ k, k ≠ v.slot → slot t k = slot s k)
          ∧ (off + 8 * n < data.length → slot t v.slot = l ∧ ∃ p ∈ t.cal, p.ev = .sectionArrival
              ∧ p.args = ⟨id, b, sec, BitVec.ofNat 64 (off + 8 * n), data⟩)
          ∧ (off + 8 * n = data.length → slot t v.slot = { l with cnt := sec + 1, st := if sec = l.w then 3 else 2 }))
      ∧ (sec = 0 → off = 0 → ¬ (l.st = 2 ∧ l.xfer = id ∧ l.branch = b) →
        (¬ (l.st = 1 ∧ l.w = x.w ∧ l.ks = x.ks) →
          ∃ t, exec .sectionArrival s = .next t ∧ t.cores = s.cores ∧ t.mem = s.mem
            ∧ (∀ y w, SMap.find t.xfers id = some y → y.branches[b]? = some w → w.ended = 2 ∧ w.known = false))
        ∧ (l.st = 1 ∧ l.w = x.w ∧ l.ks = x.ks →
          ∃ t, exec .sectionArrival s = .next t ∧ CtxsSame s t ∧ (slot t v.slot).src = x.core ∧ (slot t v.slot).xfer = id
            ∧ (slot t v.slot).branch = b ∧ 2 ≤ (slot t v.slot).st ∧ (∀ k, k ≠ v.slot → slot t k = slot s k)))))

/-! ### Supersteps -/

/-- sync.c and sync.x wait until the context's work and local accesses are done; they trap outside the control context, in
the wrong phase, at the wrong scope, with a live helper, and on a bad route table; else the context arrives with its time
base and waits, and the last arrival of the group sets the release after the delay of the group's extent. The release of a
sync.c, once every participant has arrived and none is held back, opens the exchange phase of each with its new bindings and
delivers the status; the release of a sync.x closes the phase, delivers the status, takes the checkpoint and counts the
superstep; a timeout releases the group without the late participants, of which those that run trap with cause 55, once their
local accesses and the guard over their frame allow it (spec/13_superstep.md).
The model's choices it rests on: log entries 68, 69, 70, 71, 156 and 161. -/
def Obligations.SyncWordsArriveAndAreReleased : Prop :=
  (∀ (s : State) (S : Stall) (d a : Opnd) (c : BitVec 2),
    let t := s.cur
    let k := s.curCore
    let ready := t.vqc = 0 ∧ t.enc = 0 ∧ t.mpend = 0 ∧ t.ld = [] ∧ t.stq = [] ∧ (t.localAt = 0 ∨ t.localAt < s.now)
      ∧ s.accessing s.cc s.cx = false
    let helpers := ∃ x ∈ k.ctxs, x.1 ≠ 0 ∧ x.2.status ≠ .free
    let inGroup := ∃ g, k.gang = some g ∧ (s.gang g).chain.ssc = c.toNat
    let arrives (i : Instr) (x : Bool) (binds : Option (SMap Nat)) (stamps : Nat × Nat) : Prop :=
      ∀ g j, s.groupKey s.cc = some (g, j) →
        let was := (s.group g j).arrived
        let ms := s.members g j
        let due := s.now + (if ∀ m ∈ ms, ∀ n ∈ ms, m / 8 = n / 8 then 6
          else if ∀ m ∈ ms, ∀ n ∈ ms, m / 16 = n / 16 then 10
          else if ∀ m ∈ ms, ∀ n ∈ ms, dieOf m = dieOf n then 20 else 32)
        ∃ u, exec i s = .next u ∧ u.mem = s.mem ∧ (∀ y, y ≠ s.cc → u.core y = s.core y)
          ∧ (∀ y, y ≠ s.cx → u.ctxAt s.cc y = s.ctxAt s.cc y) ∧ u.curCore.ls = k.ls
          ∧ u.cur = { t.issued s.now S with wait := .sync d, localTo := stamps.1, localAt := stamps.2 }
          ∧ u.curCore.ex = { k.ex with newBinds := binds }
          ∧ u.group g j = { s.group g j with arrived := was ++ [(s.cc, s.cyc s.cc)] }
          ∧ ((∀ m ∈ ms, (x = true ∧ m ∈ (s.group g j).late) ∨ m = s.cc ∨ ∃ e ∈ was, e.1 = m) →
              u.cal = s.cal ++ [⟨due, 0, if x then .syncXRelease else .syncCRelease, ⟨g, j, 0, 0, []⟩⟩])
          ∧ ((∃ m ∈ ms, ¬ (x = true ∧ m ∈ (s.group g j).late) ∧ m ≠ s.cc ∧ ∀ e ∈ was, e.1 ≠ m) → u.cal = s.cal)
    (s.clearAny [a] →
      let i : Instr := .syncC S d a c
      (¬ ready → exec i s = .next s.hold)
      ∧ (ready → s.cx ≠ 0 → exec i s = .next (s.exact 52 0))
      ∧ (ready → s.cx = 0 → k.ex.phase = true → exec i s = .next (s.exact 54 0))
      ∧ (ready → s.cx = 0 → k.ex.phase = false →
        (¬ inGroup → exec i s = .next (s.exact 50 0))
        ∧ (inGroup → helpers → exec i s = .next (s.exact 51 0))
        ∧ (inGroup → ¬ helpers →
          (a = 0 → arrives i false none (t.localTo, t.localAt))
          ∧ (a ≠ 0 →
            let addr := (s.opnd a).toNat
            let e (n : Nat) : Nat := ofBytes (k.lbytes (addr + 2 * n) 2)
            let ok := ∀ n, n < 8 → e n = 0 ∨ (e n / 2 ^ 15 = 1 ∧ e n / 2 ^ 11 % 16 = 0 ∧
              ∃ g j, s.groupKey s.cc = some (g, j) ∧ e n % 2048 ∈ s.members g j)
            (∀ f, localFault s addr 16 = some f → exec i s = .next (s.exact (if f = 3 then 3 else 53) addr))
            ∧ (localFault s addr 16 = none → localPlace s.cc addr = some (s.cc, addr) → settled s s.cc →
              (¬ ok → ∃ u, exec i s = .next (u.exact 53 addr) ∧ Within s u ∧ u.cur = s.cur)
              ∧ (ok → ∃ r, (∀ n, SMap.find r n = if n < 8 ∧ e n ≠ 0 then some (e n % 2048) else none)
                  ∧ arrives i false (some r) (s.cc, s.now + 2)))))))
    ∧ (s.clearAny [] →
      let i : Instr := .syncX S d c
      (¬ ready → exec i s = .next s.hold)
      ∧ (ready → s.cx ≠ 0 → exec i s = .next (s.exact 52 0))
      ∧ (ready → s.cx = 0 → k.ex.phase = false → exec i s = .next (s.exact 54 0))
      ∧ (ready → s.cx = 0 → k.ex.phase = true →
        (¬ inGroup → exec i s = .next (s.exact 50 0))
        ∧ (inGroup → helpers → exec i s = .next (s.exact 51 0))
        ∧ (inGroup → ¬ helpers → arrives i true k.ex.newBinds (t.localTo, t.localAt)))))
  ∧ (∀ (s : State), let g := s.ev.a
    let j := s.ev.b
    let ms := s.members g j
    let v := s.group g j
    let unr := if (s.gang g).chain.rbe = false ∨ v.unr = true then 1 else 0
    ms.Nodup →
    (((∃ m ∈ ms, ∀ e ∈ v.arrived, e.1 ≠ m) → exec .syncCRelease s = .next s)
    ∧ ((∀ m ∈ ms, ∃ e ∈ v.arrived, e.1 = m) → s.heldBack g j = false →
        ∃ t, exec .syncCRelease s = .next t ∧ t.mem = s.mem ∧ (t.group g j).cArr = v.arrived ∧ (t.group g j).arrived = []
          ∧ (t.group g j).ssn = v.ssn ∧ (∀ c, (t.core c).ls = (s.core c).ls)
          ∧ (∃ p ∈ t.cal, p.ev = .exchangeTimeout ∧ p.due = s.now + 65536 ∧ p.args = ⟨g, j, s.now, 0, []⟩)
          ∧ ∀ m d, m ∈ ms → (s.ctxAt m 0).wait = .sync d →
              (t.core m).ex.phase = true ∧ (t.core m).ex.binds = ((s.core m).ex.newBinds).getD (s.core m).ex.binds
              ∧ (t.ctxAt m 0).wait = .none ∧ (t.ctxAt m 0).pc = (s.ctxAt m 0).pc
              ∧ (t.ctxAt m 0).q 1 = BitVec.ofNat 64 (unr + (if v.rb then 2 else 0) + 2 ^ 8 * v.rbc)
              ∧ ∀ r, destReg d = some r → r < 16 → (t.ctxAt m 0).g r = (t.ctxAt m 0).q 1)
    ∧ ((∀ m ∈ ms, m ∉ v.late → ∃ e ∈ v.arrived, e.1 = m) → (∃ m ∈ ms, (s.core m).ex.phase = true) → s.halts = [] →
        ∃ t, exec .syncXRelease s = .next t ∧ (t.group g j).ssn = v.ssn + 1 ∧ (t.group g j).arrived = []
          ∧ (t.group g j).unr = false ∧ (∀ c, (t.core c).ls = (s.core c).ls)
          ∧ ∀ m d, m ∈ ms → m ∉ v.late → (s.ctxAt m 0).wait = .sync d →
              let x := (s.core m).ex
              let left := ¬ (x.waiting = [] ∧ ∀ q ∈ x.queues, q.2 = [])
              (t.core m).ex.phase = false ∧ (t.core m).ex.queues = [] ∧ (t.core m).ex.binds = x.binds
              ∧ (t.ctxAt m 0).wait = .none ∧ (t.ctxAt m 0).pc = (s.ctxAt m 0).pc
              ∧ (∃ n, (t.ctxAt m 0).q 1 = BitVec.ofNat 64 (unr + (if x.xc then 4 else 0) + (if x.xl then 8 else 0) + n)
                  ∧ (left → n = 16) ∧ (¬ left → n = 0))
              ∧ (t.core m).undo.lines = [] ∧ (t.core m).undo.lov = false ∧ (t.core m).undo.snap.pc = (s.ctxAt m 0).pc
              ∧ (t.core m).oldResults = (s.core m).results)
    ∧ (v.startAt ≠ s.ev.c → exec .exchangeTimeout s = .next s)
    ∧ (v.startAt = s.ev.c → s.halts = [] → (∃ m ∈ ms, (s.core m).ex.phase = true ∧ ∀ e ∈ v.arrived, e.1 ≠ m) →
        ∃ t, exec .exchangeTimeout s = .next t ∧ (t.group g j).ssn = v.ssn + 1
          ∧ ∀ m, m ∈ ms → (s.core m).ex.phase = true → (∀ e ∈ v.arrived, e.1 ≠ m) →
              (t.core m).ex.phase = false
              ∧ ((s.ctxAt m 0).status ≠ .running → (t.ctxAt m 0).status = (s.ctxAt m 0).status)
              ∧ ((s.ctxAt m 0).status = .running → s.entryHeld m 0 = true →
                  ∃ i, (t.ctxAt m 0).wait = .entry (some i) ∧ i.cause = 55)
              ∧ ((s.ctxAt m 0).status = .running → s.entryHeld m 0 = false → (s.ctxAt m 0).rt = false →
                (t.ctxAt m 0).trec = BitVec.ofNat 64 55
                ∧ (((s.ctxAt m 0).ih = true ∨ (s.core m).tvec = 0) → (t.ctxAt m 0).status = .halted ∧ (t.ctxAt m 0).hk = 3)
                ∧ (((s.ctxAt m 0).ih = false ∧ (s.core m).tvec ≠ 0) → (t.ctxAt m 0).ih = true
                    ∧ (t.ctxAt m 0).pc = BitVec.ofNat 52 (s.core m).tvec.toNat)))))

/-- In an exchange phase xmit sends a word of the store to every input bound to its core, each after its delay, a word of a
sibling store from its bank as the access performs, and xsel stores
the oldest word of a bound input, or waits for one; outside, both trap with cause 54.  A word that arrives alone joins its input,
or is lost and noted where sixteen wait; outside a phase it is discarded.  ssrd and ulog deliver their records
(spec/13_superstep.md).
The model's choices it rests on: log entries 10, 71 and 130. -/
def Obligations.ExchangeWordsMoveOverTheFabric : Prop :=
  ∀ (s : State) (S : Stall) (d a b : Opnd) (k : BitVec 3) (o7 : BitVec 7) (o : BitVec 10) (op : BitVec 2),
    let ex := s.curCore.ex
    let x := (s.opnd b + BitVec.ofInt 64 (8 * o.toInt)).toNat
    let y := (s.opnd b + BitVec.ofInt 64 (8 * o7.toInt)).toNat
    let sentTo (core at_ v : Nat) (u : State) : Prop :=
      ∀ g j c n, s.groupKey core = some (g, j) → c ∈ s.members g j → (n, core) ∈ (s.core c).ex.binds →
        ∃ p ∈ u.cal, p.ev = .exchangeWordArrival ∧ p.args = ⟨c, n, 0, BitVec.ofNat 64 v, []⟩
          ∧ p.due = at_ + (4 + 2 * hops (core / 16) (c / 16) + (if dieOf core = dieOf c then 0 else 6))
    (s.clear [b] → (s.localWaits x = false → exec (.xmit S b o) s = .next (s.exact 54 0))
      ∧ (s.localWaits y = false → exec (.xsel S b k o7) s = .next (s.exact 54 0)))
    ∧ (s.clearAny [b] → s.inExchange = true →
      (s.localWaits x = true → exec (.xmit S b o) s = .next s.hold)
      ∧ (s.localWaits x = false →
        (∀ f, localFault s x 8 = some f → exec (.xmit S b o) s = .next (s.exact f x))
        ∧ ∀ t z, localFault s x 8 = none → localPlace s.cc x = some (t, z) →
          ∃ u, exec (.xmit S b o) s = .next u ∧ u.mem = s.mem ∧ (∀ c, c ≠ s.cc → u.core c = s.core c) ∧ u.curCore.ls = s.curCore.ls
            ∧ u.cur = { s.cur.issued s.now S with localTo := t, localAt := s.now + (if t = s.cc then 2 else 4) }
            ∧ (t = s.cc → sentTo s.cc (s.now + 2) (ofBytes ((s.core t).lbytes z 8)) u)
            ∧ (t ≠ s.cc → u.cal = s.cal
                ∧ u.curCore.sibs = s.curCore.sibs ++ [⟨s.now + 3, s.cx, t, z, 8, false, .xmit, 0, 0, 0⟩]))
      ∧ (s.localWaits y = false →
        (∀ f, localFault s y 8 = some f → exec (.xsel S b k o7) s = .next (s.exact f y))
        ∧ (localFault s y 8 = none → SMap.find ex.binds k.toNat = none → exec (.xsel S b k o7) s = .next (s.exact 53 y))
        ∧ (localFault s y 8 = none → SMap.find ex.binds k.toNat ≠ none → SMap.get [] ex.queues k.toNat = [] →
            exec (.xsel S b k o7) s = .next s.hold)
        ∧ ∀ w ws, localFault s y 8 = none → localPlace s.cc y = some (s.cc, y) → SMap.find ex.binds k.toNat ≠ none →
            SMap.get [] ex.queues k.toNat = w :: ws → s.guarded s.cc y 8 = false → regionsAligned s.curCore.regions →
            ∃ u, exec (.xsel S b k o7) s = .next u ∧ WithinStore s u ∧ holds u s.cc y 8 w.toNat ∧ OutsideSame s u s.cc y 8
              ∧ SMap.get [] u.curCore.ex.queues k.toNat = ws
              ∧ u.cur = { s.cur.issued s.now S with localTo := s.cc, localAt := s.now + 2 }))
    ∧ (∀ core (q : Sib), q.op = .xmit →
        sentTo core (s.now + 1) (ofBytes ((s.core q.target).lbytes q.addr q.width)) (s.sibPerform core q)
        ∧ (s.sibPerform core q).cores = s.cores ∧ (s.sibPerform core q).mem = s.mem)
    ∧ (∀ c, c = s.ev.a → s.ev.c ≠ 1 →
      ((s.core c).ex.phase = false → exec .exchangeWordArrival s = .next s)
      ∧ ((s.core c).ex.phase = true → (s.core c).ex.waiting = [] →
          (∀ p ∈ s.cal, ¬ (p.ev = .exchangeWordArrival ∧ p.args.a = c ∧ p.due ≤ s.now)) →
          let q := SMap.get [] (s.core c).ex.queues s.ev.b
          ∃ t, exec .exchangeWordArrival s = .next t ∧ t.mem = s.mem ∧ (∀ e, e ≠ c → t.core e = s.core e)
            ∧ (q.length < 16 → SMap.get [] (t.core c).ex.queues s.ev.b = q ++ [s.ev.w] ∧ (t.core c).ex.xl = (s.core c).ex.xl)
            ∧ (16 ≤ q.length → SMap.get [] (t.core c).ex.queues s.ev.b = q ∧ (t.core c).ex.xl = true)
            ∧ (t.core c).ctxs = (s.core c).ctxs ∧ (t.core c).ls = (s.core c).ls))
    ∧ (s.clearAny [a] → ∀ g j, s.groupKey s.cc = some (g, j) →
        let v := s.group g j
        let u := s.curCore.undo
        let status (unr : Bool) : Word := BitVec.ofNat 64 (u.lines.length + (if u.lov then 2 ^ 10 else 0) + (if v.jov then 2 ^ 11 else 0)
          + (if unr then 2 ^ 12 else 0) + 2 ^ 16 * v.rbc)
        let unr := v.unr || !(s.gang g).chain.rbe
        Gives (exec (.ssrd S d a) s) s S d
          ((v.records.getD ((s.opnd a).toNat / 256 % 16) []).getD ((s.opnd a).toNat % 8) 0) (s.now + 4) 0
        ∧ (s.inExchange = false →
          (op.toNat = 0 ∨ op.toNat = 3 → Gives (exec (.ulog S d a op) s) s S d (status unr) (s.now + 2) 0)
          ∧ (op.toNat = 1 → Gives (exec (.ulog S d a op) s) (s.modGroup g j fun v => { v with unr := true }) S d (status true)
              (s.now + 2) 0)
          ∧ (op.toNat = 2 →
            let base := (s.opnd a).toNat % 2 ^ 24
            let size := (s.opnd a).toNat / 2 ^ 24 % 256
            (base % 4096 ≠ 0 ∨ 0x58000 < base + 4096 * size → exec (.ulog S d a op) s = .next (s.exact 56 0))
            ∧ (¬ (base % 4096 ≠ 0 ∨ 0x58000 < base + 4096 * size) →
                Gives (exec (.ulog S d a op) s)
                  (s.modCurCore fun k => { k with undo := { k.undo with exBase := base, exSize := size } }) S d (status unr) (s.now + 2) 0))))

/-- An error of a line of memory that its check symbols correct does nothing: the event names the rank and the bad symbols, the
positions of the rank's repair table count once and any other twice, and the sum is 4 at most (R391). An uncorrectable error of a superstep that can be
repeated, and has been at most once, rolls its gang back; any other kills its fault domain.  A rollback gives every control context its snapshot with the status of the repeat, frees the helpers, unwinds the
stores, empties the units and restores the journalled lines (spec/13_superstep.md, spec/18_boundaries.md).
The model's choices it rests on: log entries 74, 75 and 108. -/
def Obligations.ErrorsRollBackOrKillTheDomain : Prop :=
  ∀ (s : State),
    let table := SMap.get [] s.md.repair (s.ev.b - 1)
    let bad := (s.ev.data.map BitVec.toNat).eraseDups
    let corrected := s.ev.b ≠ 0 ∧ 2 * (bad.filter fun p => p ∉ table).length + table.length ≤ 4
    (corrected → exec .uncorrectableError s = .next s)
    ∧ (∀ g j, s.groupKey s.ev.a = some (g, j) → ¬ corrected →
      let v := s.group g j
      let again := (s.gang g).chain.rbe = true ∧ v.unr = false ∧ v.rbc < 2
      (again → exec .uncorrectableError s = .next { s with cal := s.cal ++ [⟨s.now, 0, .rollback, ⟨g, 0, 0, 0, []⟩⟩] })
      ∧ (¬ again → ∃ t, exec .uncorrectableError s = .next t ∧
          ∀ e ∈ s.gangs, e.2.chain.part = (s.gang g).chain.part → e.2.chain.fdom = (s.gang g).chain.fdom →
            ∃ p ∈ t.cal, p.ev = .kill ∧ p.due = s.now ∧ p.args.a = e.1))
    ∧ (let g := s.ev.a
      let cs := coresOf (s.gang g).octs
      let recs := s.journals.flatMap fun e => e.2.filter fun r => r.gang == g
      (s.residentGang g = false → exec .rollback s = .next s)
      ∧ (s.residentGang g = true → cs.Nodup → (∀ o ∈ (s.gang g).octs, o < 256) → (∀ c ∈ cs, (s.core c).running = none) → (∀ p ∈ s.cal, s.sentBy g p = false) →
        ∃ t, exec .rollback s = .next t
          ∧ (∀ c ∈ cs,
              let k := s.core c
              let n := k.undo.snap
              let v := s.group g (groupIndex (s.gang g).chain.ssc c)
              let rolled (w x : Word) : Prop := ∀ i, x.getLsbD i =
                if i = 1 then true else if 8 ≤ i ∧ i < 16 then (if v.rbc < 2 then v.rbc + 1 else 2).testBit (i - 8) else w.getLsbD i
              let u := t.ctxAt c 0
              (t.core c).ctxs = [(0, u)] ∧ (t.core c).ls = k.unwind.ls ∧ (t.core c).undo.lines = []
              ∧ (t.core c).regions = n.regions ∧ (t.core c).mat.q = [] ∧ (t.core c).mat.acc = [] ∧ (t.core c).vec.q = []
              ∧ (t.core c).cmds = [] ∧ (t.core c).results = k.oldResults ∧ (t.core c).ex.phase = false
              ∧ u.pc = n.pc ∧ u.st = n.st ∧ u.vl = n.vl ∧ u.head = n.head ∧ u.ih = n.ih ∧ u.rt = false ∧ u.pend = [] ∧ u.ld = []
              ∧ u.stq = [] ∧ u.wait = .none ∧ s.now < u.readyAt
              ∧ (∀ r, r ≠ 0 → (n.statusReg = some r → rolled (SMap.get 0 n.regs r) (u.g r))
                  ∧ (n.statusReg ≠ some r → u.g r = SMap.get 0 n.regs r))
              ∧ (∀ q, (n.statusSlot = some q → rolled (SMap.get 0 n.slots q) (SMap.get 0 u.slots q))
                  ∧ (n.statusSlot ≠ some q → SMap.get 0 u.slots q = SMap.get 0 n.slots q)))
          ∧ (∀ r ∈ recs, r.keyed = none → r.pre.length = 64 → (∀ q ∈ recs, q ≠ r → q.keyed = none ∧ q.line ≠ r.line ∧ q.pre.length = 64) →
              64 * r.line + 64 ≤ facetBase → ∀ i, i < 64 → t.gbyte (64 * r.line + i) = r.pre.getD i 0)))

/-! ### Launch and scheduling -/

/-- launch and gdone count themselves in ldc, leave their result pending and send their request to the scheduler with the gang's
partition and priority; both wait for the context's loads, stores and commands.  schsel delivers the schedule of the least
capacity that is enough (spec/16_launch.md).
The model's choices it rests on: log entries 82 and 86. -/
def Obligations.LaunchWordsAskTheScheduler : Prop :=
  ∀ (s : State) (S : Stall) (d a b : Opnd) (m : BitVec 2),
    let id := s.nextId
    let addr := (s.opnd a).toNat
    let idle := s.cur.ld = [] ∧ s.cur.stq = [] ∧ s.cur.enc = 0
    let gang := s.curCore.gang.getD 0
    let record : SchedReq :=
      { id := id, core := s.cc, ctx := s.cx, gang := gang, part := s.partOf s.cc, pri := (s.gang gang).chain.pri,
        top := s.level s.cc = 2, asid := s.asidOf s.cc, ssn := s.ssn s.cc }
    (s.clear [a] →
      (¬ idle → exec (.launch S d a) s = .next s.hold ∧ exec (.gdone S d a m) s = .next s.hold)
      ∧ (idle → heldUp s addr 64 1 (exec (.launch S d a) s))
      ∧ (idle → ∀ v, goesTo s addr 64 1 (.away v) → exec (.launch S d a) s = .next (s.exact 9 addr))
      ∧ (idle → ∀ pa, goesTo s addr 64 1 (.here pa) →
          ∃ t, exec (.launch S d a) s = .next t ∧ t.mem = s.mem ∧ (∀ c, c ≠ s.cc → t.core c = s.core c)
            ∧ t.curCore.ls = s.curCore.ls ∧ Counted s t.cur S d id ∧ t.sched = SMap.put s.sched id record
            ∧ t.reqs = SMap.put s.reqs id (request s .load addr 64 (.here pa)) ∧ Goes s t .gangStart ⟨id, 0, 0, 0, []⟩)
      ∧ (idle → ∃ t, exec (.gdone S d a m) s = .next t ∧ Alone s t ∧ Counted s t.cur S d id
            ∧ t.sched = SMap.put s.sched id { record with stage := .graph, num := addr % 2 ^ 15, mode := m.toNat }
            ∧ Goes s t .gangStart ⟨id, 0, 0, 0, []⟩))
    ∧ (s.clear [a, b] → s.localWaits addr = false →
      (addr % 16 ≠ 0 → exec (.schsel S d a b) s = .next (s.exact 1 addr))
      ∧ (addr % 16 = 0 → addr + 128 ≤ (if s.rbe s.cc then 0x58000 else 0x60000) → settled s s.cc →
        let n := (s.opnd b).toNat
        let cap (i : Nat) : Nat := ofBytes (s.curCore.lbytes (addr + 16 * i) 8)
        let num (i : Nat) : Nat := ofBytes (s.curCore.lbytes (addr + 16 * i + 8) 8)
        let fits (i : Nat) : Prop := num i ≠ 0 ∧ n ≤ cap i
        ∀ v, (∀ i, i < 8 → fits i → (∀ j, j < 8 → fits j → cap i ≤ cap j ∧ (j < i → cap j ≠ cap i)) → v = num i) →
          ((∀ i, i < 8 → ¬ fits i) → v = 0) →
          ∃ t, exec (.schsel S d a b) s = .next t ∧ Within s t ∧ t.curCore.ls = s.curCore.ls
            ∧ Delivered s.cur { s.cur.issued s.now S with localTo := s.cc, localAt := s.now + 2 } t.cur d (BitVec.ofNat 64 v)
                (s.now + 6) 0))

/-- hstart, once the context's local accesses have performed, starts the first free helper context at its offset with its operand in g1 and delivers its number, or all ones where
none is free; hexit ends a context once its work is done, and the last core that ends completes its gang; hjoin waits for its
helper to end and frees it.  Only the control context may start and join (spec/16_launch.md).
The model's choices it rests on: log entry 87. -/
def Obligations.HelpersStartEndAndAreJoined : Prop :=
  ∀ (s : State) (S : Stall) (d a : Opnd) (o : BitVec 10),
    let k := s.curCore
    let t := s.cur
    let n := (s.opnd a).toNat
    let helpers := ∃ x ∈ k.ctxs, x.1 ≠ 0 ∧ x.2.status ≠ .free
    (s.clear [a] →
      let i : Instr := .hstart S d a o
      let made := t.localAt ≤ s.now ∧ s.accessing s.cc s.cx = false
      (¬ made → exec i s = .next s.hold)
      ∧ (made →
        (s.cx ≠ 0 → exec i s = .next (s.exact 80 0))
        ∧ (s.cx = 0 → (∀ x, 1 ≤ x → x ≤ 10 → (k.ctx x).status ≠ .free) →
            Gives (exec i s) s S d 0xFFFFFFFFFFFFFFFF (s.now + 2) 0)
        ∧ ∀ x, s.cx = 0 → 1 ≤ x → x ≤ 10 → (k.ctx x).status = .free → (∀ y, 1 ≤ y → y < x → (k.ctx y).status ≠ .free) →
          ∃ u, exec i s = .next u ∧ u.mem = s.mem ∧ (∀ c, c ≠ s.cc → u.core c = s.core c) ∧ u.curCore.ls = k.ls
            ∧ Delivered t (t.issued s.now S) u.cur d (BitVec.ofNat 64 x) (s.now + 2) 0
            ∧ (∀ y, y ≠ x → y ≠ s.cx → u.ctxAt s.cc y = s.ctxAt s.cc y)
            ∧ (let h := u.ctxAt s.cc x
              h.status = .running ∧ h.pc = t.pc + BitVec.ofInt 52 (4 * o.toInt) ∧ h.g 1 = s.opnd a ∧ h.readyAt = s.now + 2
                ∧ h.st = 0x100 ∧ h.pend = [] ∧ h.ld = [] ∧ h.stq = [] ∧ (∀ r, r ≠ 1 → h.g r = 0) ∧ ∀ q, SMap.get 0 h.slots q = 0)))
    ∧ (s.clear [a] →
      let i : Instr := .hjoin S a
      (s.cx ≠ 0 → exec i s = .next (s.exact 80 0))
      ∧ (s.cx = 0 → (n = 0 ∨ 10 < n ∨ (k.ctx n).status = .free) → exec i s = .next (s.exact 81 0))
      ∧ (s.cx = 0 → 1 ≤ n → n ≤ 10 → (k.ctx n).status ≠ .free →
        ((k.ctx n).status ≠ .ended ∨ s.now ≤ (k.ctx n).issuedAt → exec i s = .next s.hold)
        ∧ ((k.ctx n).status = .ended → (k.ctx n).issuedAt < s.now →
            ∃ u, exec i s = .next u ∧ (u.ctxAt s.cc n).status = .free ∧ u.cur = t.issued s.now S
              ∧ (∀ y, y ≠ n → y ≠ s.cx → u.ctxAt s.cc y = s.ctxAt s.cc y) ∧ u.mem = s.mem
              ∧ ∀ c, c ≠ s.cc → u.core c = s.core c)))
    ∧ (s.clear [] →
      let i : Instr := .hexit S
      let done := t.vqc = 0 ∧ t.enc = 0 ∧ t.mpend = 0 ∧ t.ld = [] ∧ t.stq = [] ∧ t.localAt ≤ s.now
        ∧ s.accessing s.cc s.cx = false
      (¬ done → exec i s = .next s.hold)
      ∧ (done → s.cx = 0 → (t.rt = true ∨ helpers) → exec i s = .next (s.exact 51 0))
      ∧ (done → (s.cx ≠ 0 ∨ (t.rt = false ∧ ¬ helpers)) →
          ∃ u, exec i s = .next u ∧ u.mem = s.mem ∧ (∀ c, c ≠ s.cc → u.core c = s.core c) ∧ u.curCore.ls = k.ls
            ∧ u.cur = { t with status := .ended, issuedAt := s.now }
            ∧ u.curCore.results = k.results.filter (fun r => r.ctx != s.cx)
            ∧ (s.cx ≠ 0 → u.gangs = s.gangs ∧ u.cal = s.cal)
            ∧ ∀ g, s.cx = 0 → k.gang = some g →
                (u.gang g).ended = s.cc :: (s.gang g).ended
                ∧ ((s.gang g).ended.length + 1 = 8 * (s.gang g).octs.length → Goes s u .gangCompletion ⟨g, 0, 0, 0, []⟩)
                ∧ ((s.gang g).ended.length + 1 ≠ 8 * (s.gang g).octs.length → u.cal = s.cal)))

/-- A start that reaches the scheduler with a well-formed descriptor and chain, permission, budget and free octants is placed:
each of its cores gets its gang, rank and coordinates, its image and a control context at the entry; at the gang's first issue
the launch is answered 0, with the gang's number.  A start that is malformed of itself, by its chain or by its size is answered 1,
one above its permission or that names an octant outside its partition 2, one beyond its budget 3, and one that does not wait for
octants 4; one of no octants completes at once (spec/16_launch.md).
The model's choices it rests on: log entries 77, 78, 79, 80, 81 and 83. -/
def Obligations.StartsArePlacedOnFreeOctants : Prop :=
  ∀ (s : State) (q : SchedReq) (r : Req),
    SMap.find s.sched s.ev.a = some q → q.id = s.ev.a → q.node = false →
    let v := s.gread r.pa 64
    let s0 : State := { s with reqs := SMap.del s.reqs q.id }
    let answered (t : State) (w : Nat) : Prop :=
      SMap.find t.sched q.id = none ∧ SMap.find t.resps q.id = some { v := BitVec.ofNat 64 w }
        ∧ ∃ p ∈ t.cal, p.ev = .resultArrival ∧ p.args = ⟨q.core, q.ctx, q.id, 0, []⟩ ∧ s.now < p.due
    (s.ev.c = 2 →
      let g := s.ev.b
      let cs := coresOf (s.gang g).octs
      ((s.residentGang g = false ∨ ∃ c ∈ cs, s.stopped c = true) →
        exec .gangStart s = .next { s with cal := s.cal ++ [⟨s.now + 1, 0, .gangStart, ⟨q.id, g, 2, 0, []⟩⟩] })
      ∧ (s.residentGang g = true → (∀ c ∈ cs, s.stopped c = false) → q.descr.host = false →
        ∃ t, exec .gangStart s = .next t ∧ answered t (2 ^ 63 + g % 4096) ∧ CtxsSame s t
          ∧ ∀ c, (t.core c).ls = (s.core c).ls ∧ (t.core c).gang = (s.core c).gang))
    ∧ (s.ev.c = 0 → q.stage = .sent → SMap.find s.reqs q.id = some r → s.rejects r = none → bitsOf v 244 2 = 0 →
    let fails (sts : Nat) : Prop :=
      ∃ t, exec .gangStart s = .next t ∧ t.gangs = s.gangs ∧ t.cores = s.cores ∧ answered t (2 ^ 63 + sts * 2 ^ 16)
    (parseStart v = none → bitsOf v 355 1 = 0 → fails 1)
    ∧ (∀ d, parseStart v = some d → d.host = false → s0.readChain (some q.gang) q.asid d.rcb = none → fails 1)
    ∧ ∀ d ch top s1, parseStart v = some d → d.host = false → s0.readChain (some q.gang) q.asid d.rcb = some (ch, top, s1) →
      let s2 := (s1.takeSups ch top).useId
      let inSet := d.pmode = true → ∀ i, i < d.octants → (s2.part ch.part).hasOct (d.foct + i) = true
      (d.tooBig ch.rbe = true → fails 1)
      ∧ (d.tooBig ch.rbe = false → q.permitted ch = false → fails 2)
      ∧ (d.tooBig ch.rbe = false → q.permitted ch = true → d.octants = 0 → d.gdn = false → d.caddr = 0 → fails 0)
      ∧ (d.tooBig ch.rbe = false → q.permitted ch = true → 0 < d.octants →
        let q' := { q with descr := d, chain := ch, pri := ch.pri, order := s1.nextId, stage := .waiting }
        (¬ inSet → fails 2)
        ∧ (inSet → s2.fits ch.links 0 (8 * d.octants) = false → fails 3)
        ∧ (inSet → s2.fits ch.links 0 (8 * d.octants) = true → (s2.behind q' = true ∨ s2.octsFor ch d = none) → d.nowait = true →
            fails 4)
        ∧ ∀ octs g img s3, inSet →
        s2.fits ch.links 0 (8 * d.octants) = true → s2.behind q' = false → s2.octsFor ch d = some octs →
        s2.gangNumber = some g → s2.renew.readImage ch.asid d.limg 100 (if d.limg = 0 then 0 else d.llen) = some (img, s3) →
        (coresOf octs).Nodup → s2.renew.fits ch.links 0 (coresOf octs).length = true → img.length ≤ 0x60000 → s.viral = false →
        ∃ t, exec .gangStart s = .next t ∧ SMap.find t.sched q.id = some { q' with stage := .accepted, gid := g }
          ∧ (∃ p ∈ t.cal, p.ev = .gangStart ∧ p.args = ⟨q.id, g, 2, 0, []⟩ ∧ s.now < p.due)
          ∧ (∃ w, SMap.find t.gangs g = some w ∧ w.octs = octs ∧ w.chain = ch ∧ w.descr = d ∧ w.status = .running
              ∧ w.fail = false ∧ w.ended = [])
          ∧ ∀ n c, (coresOf octs)[n]? = some c →
              let k := t.core c
              let node := n / 8 / (d.goct + 1)
              let u := t.ctxAt c 0
              k.gang = some g ∧ k.rank = n ∧ k.gx = node % d.ngx ∧ k.gy = node / d.ngx % d.ngy
              ∧ k.gz = node / d.ngx / d.ngy ∧ k.ctxs = [(0, u)] ∧ u.status = .running ∧ u.pc = BitVec.ofNat 52 d.entry
              ∧ s.now < u.readyAt ∧ u.regs = [] ∧ u.st = 0x100 ∧ k.undo.snap.pc = u.pc
              ∧ HoldsBytes t c 0 img ∧ ∀ y, img.length ≤ y → y < 0x60000 → k.lbyte y = 0))

/-- A running gang that is switched out stops at its stamp, is written to its save area and leaves its cores; a resume with
matching tags and free octants restores them, to go on from its stamp; a kill stops and discards a gang, which then is gone; a gang
whose cores have all ended, and whose maps have no split step left to run, is gone, its cores free; a spent cycle budget is
reported once (spec/16_launch.md).
The model's choices it rests on: log entries 84, 85, 86 and 160. -/
def Obligations.GangsSwitchResumeCompleteAndAreKilled : Prop :=
  ∀ (s : State) (q : SchedReq),
    let answered (t : State) (sts gang : Nat) : Prop :=
      SMap.find t.resps q.id = some { v := BitVec.ofNat 64 (2 ^ 63 + sts * 2 ^ 16 + if sts = 0 then gang % 4096 else 0) }
        ∧ ∃ p ∈ t.cal, p.ev = .resultArrival ∧ p.args = ⟨q.core, q.ctx, q.id, 0, []⟩ ∧ s.now < p.due
    let v := s.gang q.gid
    let cs := coresOf v.octs
    (SMap.find s.sched s.ev.a = some q → q.id = s.ev.a → q.node = false →
      ((SMap.find s.gangs q.gid = none ∨ v.status ≠ .running ∨ v.fail = true) →
          ∃ t, exec .switchOut s = .next t ∧ answered t 2 0 ∧ t.gangs = s.gangs ∧ t.cores = s.cores)
      ∧ (SMap.find s.gangs q.gid ≠ none → v.status = .running → v.fail = false →
          ∃ t, exec .switchOut s = .next t ∧ t.cores = s.cores
            ∧ t.gang q.gid = { v with status := .stopping, stopStamp := q.stamp, stopBy := some q.id }
            ∧ ∃ p ∈ t.cal, p.ev = .preemptionStamp ∧ p.args = ⟨q.gid, q.id, 0, 0, []⟩)
      ∧ (v.status ≠ .out → ∃ t, exec .resume s = .next t ∧ answered t 2 0 ∧ t.gangs = s.gangs ∧ t.cores = s.cores)
      ∧ (v.status = .out → s.readPages (some q.gang) q.asid q.save (savePages cs.length) = none →
          ∃ t, exec .resume s = .next t ∧ answered t 1 0 ∧ t.gangs = s.gangs ∧ t.cores = s.cores)
      ∧ (∀ s1, v.status = .out → s.readPages (some q.gang) q.asid q.save (savePages cs.length) = some s1 →
          s1.tagsAt (some q.gang) q.asid q.save cs.length ≠ some v.tags →
          ∃ t, exec .resume s = .next t ∧ answered t 1 0 ∧ t.gangs = s.gangs ∧ t.cores = s.cores)
      ∧ (∀ s1, v.status = .out → s.readPages (some q.gang) q.asid q.save (savePages cs.length) = some s1 →
          s1.tagsAt (some q.gang) q.asid q.save cs.length = some v.tags → (∀ o ∈ v.octs, o ∉ s.taken) → s.viral = false →
          (v.saved.map (·.1)).Nodup →
          ∃ t, exec .resume s = .next t ∧ (t.gang q.gid).status = .resuming ∧ (t.gang q.gid).resumeBy = some q.id ∧ t.mem = s1.mem
            ∧ (∀ e ∈ v.saved, (t.core e.1).ctxs = e.2.ctxs ∧ (t.core e.1).ls = e.2.ls ∧ (t.core e.1).gang = e.2.gang
                ∧ (t.core e.1).mat = e.2.mat ∧ (t.core e.1).vec = e.2.vec ∧ (t.core e.1).fifo15 = (s.core e.1).fifo15)
            ∧ (∀ p ∈ v.parked, ∃ p' ∈ t.cal, p'.ev = p.ev ∧ p'.args = p.args ∧ s.now < p'.due)
            ∧ ∃ p ∈ t.cal, p.ev = .resumeStamp ∧ p.args = ⟨q.gid, q.id, 0, 0, []⟩))
    ∧ (q.gid = s.ev.a → SMap.find s.gangs q.gid = some v → SMap.find s.sched s.ev.b = some q → q.id = s.ev.b → q.node = false →
      (v.status = .stopping → v.stopBy = some q.id → v.ended.length ≠ cs.length → (∀ c ∈ cs, s.stopped c = true) →
          (∀ c ∈ cs, (s.core c).running = none ∧ (s.core c).recalls = [] ∧ s.drainedCore c = true ∧ (s.core c).sibs = []
            ∧ ∀ x ∈ (s.core c).ctxs, ∀ i, x.2.wait ≠ .watch i) → cs.Nodup →
        ∀ s1, s.writePages (some q.gang) q.asid q.save (128 * cs.length) (savePages cs.length) = some s1 →
          ∃ t, exec .preemptionStamp s = .next t ∧ answered t 0 q.gid ∧ (t.gang q.gid).status = .out
            ∧ (t.gang q.gid).saved.map (·.1) = cs
            ∧ (∀ e ∈ (t.gang q.gid).saved, e.2.ls = (s.core e.1).ls ∧ e.2.gang = (s.core e.1).gang ∧ e.2.mat = (s.core e.1).mat
                ∧ e.2.vec = (s.core e.1).vec)
            ∧ ∀ c ∈ cs, (t.core c).gang = none ∧ (t.core c).ctxs = [] ∧ (t.core c).ls = [])
      ∧ (v.status = .resuming → v.resumeBy = some q.id →
        (s.tb < q.stamp → ∃ t, exec .resumeStamp s = .next t ∧ t.gangs = s.gangs ∧ t.cores = s.cores)
        ∧ (q.stamp ≤ s.tb → ∃ t, exec .resumeStamp s = .next t ∧ answered t 0 q.gid ∧ (t.gang q.gid).status = .running
            ∧ (t.gang q.gid).started = s.tb ∧ CtxsSame s t ∧ ∀ c, (t.core c).ls = (s.core c).ls)))
    ∧ (∀ g w, g = s.ev.a → SMap.find s.gangs g = some w →
      (s.ev.c ≠ 1 → (w.status = .running ∨ w.status = .stopping) → (∀ e ∈ s.sched, e.2.gid = g → e.2.opc ≠ 1 ∧ e.2.opc ≠ 2) →
          ∃ t, exec .kill s = .next t ∧ (t.gang g).fail = true ∧ (t.gang g).status = .stopping ∧ t.cores = s.cores
            ∧ (w.fail = false → (t.gang g).stopStamp = s.ev.w.toNat)
            ∧ ∃ p ∈ t.cal, p.ev = .kill ∧ p.args = ⟨g, 0, 1, 0, []⟩)
      ∧ (s.ev.c = 1 → w.fail = true → w.status ≠ .out → (∀ c ∈ coresOf w.octs, s.stopped c = true) →
          ∃ t, exec .kill s = .next t ∧ SMap.find t.gangs g = none
            ∧ ∀ c ∈ coresOf w.octs, (t.core c).gang = none ∧ (t.core c).ctxs = [] ∧ (t.core c).ls = [])
      ∧ (w.ended.length = (coresOf w.octs).length → w.status ≠ .out → s.stepsDue g = true →
          exec .gangCompletion s = .next { s with cal := s.cal ++ [⟨s.now + 1, 0, .gangCompletion, ⟨g, 0, 0, 0, []⟩⟩] })
      ∧ (w.ended.length = (coresOf w.octs).length → w.status ≠ .out → s.stepsDue g = false →
          ∃ t, exec .gangCompletion s = .next t ∧ SMap.find t.gangs g = none
            ∧ ∀ c ∈ coresOf w.octs, (t.core c).gang = none)
      ∧ (w.chain.bcyc ≠ 0 → w.budgetSent = false → s.residentGang g = true →
        (w.resident + (s.tb - w.started) < w.chain.bcyc →
          ∃ t, exec .cycleBudgetExpiry s = .next t ∧ t.gangs = s.gangs ∧ t.cores = s.cores
            ∧ t.cal = s.cal ++ [⟨s.now + 1, 0, .cycleBudgetExpiry, ⟨g, 0, 0, 0, []⟩⟩])
        ∧ (w.chain.bcyc ≤ w.resident + (s.tb - w.started) →
          let sup := (s.part w.chain.part).sup
          ∃ t, exec .cycleBudgetExpiry s = .next t ∧ (t.gang g).budgetSent = true
            ∧ ((s.core sup).fifo15.length < 64 → ∃ e, (t.core sup).fifo15 = (s.core sup).fifo15 ++ [e]
                ∧ e.toNat / 2 ^ 23 % 16 = 6 ∧ e.toNat / 2 ^ 63 = 1))))

/-! ### Clause arrays -/

/-- The clause instructions are counted in ldc, mark the superstep where they write, and send their operation to their array;
cwr and clrn read their literals from the local store, four a cycle, behind the context's earlier accesses to a sibling store,
and then send it, or are answered at once where their operand is malformed. A clause operation performs at its array where the
issuing gang holds it, else it is rejected with cause 70 and the program counter of its word: cwr and clrn enable a column, cclr disables a range, cdec opens a level, cback goes back to one, and cprop propagates: what it reports as
satisfied, in conflict or quiescent is so; ctrail reads the trail (spec/15_clause.md).
The model's choices it rests on: log entries 47 and 48. -/
def Obligations.ClauseWordsAndOperations : Prop :=
  (∀ (s : State) (S : Stall) (d a b : Opnd), s.clear [a, b] →
    let id := s.nextId
    let v := s.opnd b
    let n := v.toNat / 2 ^ 36 % 2 ^ 11
    let addr := v.toNat % 2 ^ 24
    let bad := v.toNat / 2 ^ 24 % 2 ^ 12 = 4095 ∨ n = 0 ∨ 1024 < n ∨ 2 ^ 47 ≤ v.toNat
    let record (op : Nat) : ClauseReq :=
      { id := id, core := s.cc, ctx := s.cx, m := (s.opnd a).toNat % 64, op := op, b := v, gang := s.curCore.gang.getD 0
        pc := s.cur.wordPc.toNat, at_ := s.now }
    let read (k : Nat) : List Nat := (List.range k).map fun i => ofBytes (s.curCore.lbytes (addr + 2 * i) 2)
    let marked (op : Nat) (t : State) : Prop :=
      if op < 6 then ∀ g i, s.groupKey s.cc = some (g, i) → (t.group g i).unr = true else t.gangs = s.gangs
    let single (i : Instr) (op : Nat) : Prop :=
      (32 ≤ s.cur.ld.length → exec i s = .next s.hold)
      ∧ (s.cur.ld.length < 32 →
        ∃ t, exec i s = .next t ∧ Alone s t ∧ Counted s t.cur S d id ∧ marked op t
          ∧ t.clauseReqs = SMap.put s.clauseReqs id (record op) ∧ Goes s t .clauseOperationAtArray ⟨id, 0, 0, 0, []⟩)
    let list (i : Instr) (op : Nat) : Prop :=
      (32 ≤ s.cur.ld.length → exec i s = .next s.hold)
      ∧ (s.cur.ld.length < 32 → s.localWaits addr = false →
        (bad → ∃ t x, exec i s = .next t ∧ Alone s t ∧ Counted s t.cur S d id ∧ marked op t
            ∧ Answered s t s.cc s.cx id { v := x } ∧ x.toNat / 2 ^ 12 = (2 ^ 63 + 2 ^ 16) / 2 ^ 12)
        ∧ (¬ bad → addr % 2 = 1 → exec i s = .next (s.exact 1 addr))
        ∧ (¬ bad → addr % 2 = 0 → addr + 2 * n ≤ (if s.rbe s.cc then 0x58000 else 0x60000) →
            (∀ b ∈ s.curCore.sibs, b.ctx ≠ s.cx) →
            ∃ t, exec i s = .next t ∧ Alone s t ∧ pendingFor s.cur t.cur d id ∧ marked op t
              ∧ t.cur = { s.cur.issued s.now S with
                          head := t.cur.head, pend := t.cur.pend, ld := s.cur.ld ++ [⟨id, none, false, false⟩]
                          readyAt := Nat.max (s.now + 1 + S.toNat) (s.now + (2 + (n + 3) / 4)), localTo := s.cc
                          localAt := s.now + 2 }
              ∧ (n ≤ 4 → t.clauseReqs = SMap.put s.clauseReqs id { record op with lits := read n }
                  ∧ Goes s t .clauseOperationAtArray ⟨id, 0, 0, 0, []⟩)
              ∧ (4 < n → t.clauseReqs = SMap.put s.clauseReqs id
                    { record op with lits := read 4, list := some (s.cc, addr + 8, n - 4) }
                  ∧ Goes s t .clauseOperationAtArray ⟨id, 1, 0, 0, []⟩)))
    list (.cwr S d a b) 0 ∧ single (.cclr S d a b) 1 ∧ list (.clrn S d a b) 2 ∧ single (.cdec S d a b) 3
    ∧ single (.cback S d a b) 4 ∧ single (.cprop S d a b) 5 ∧ single (.ctrail S d a b) 6 ∧ single (.cval S d a b) 7
    ∧ single (.cconf S d a b) 8)
  ∧ (∀ (s : State) (r : ClauseReq), SMap.find s.clauseReqs s.ev.a = some r → r.id = s.ev.a →
    let a : ClauseArr := SMap.get {} s.arrays r.m
    let held := ∃ h, SMap.find s.units (4096 + r.m) = some h ∧ h.gang = some r.gang
    let answered (t : State) (x : Resp) : Prop :=
      t.cores = s.cores ∧ t.mem = s.mem ∧ (∀ m, m ≠ r.m → SMap.get {} t.arrays m = SMap.get {} s.arrays m)
        ∧ SMap.find t.resps r.id = some x ∧ ∃ p ∈ t.cal, p.ev = .resultArrival ∧ p.args = ⟨r.core, r.ctx, r.id, 0, []⟩
    let gives (p : ClauseArr → Prop) (w : Nat) : Prop :=
      ∃ t, exec .clauseOperationAtArray s = .next t ∧ p (SMap.get {} t.arrays r.m) ∧ answered t { v := BitVec.ofNat 64 w }
    let x := r.b.toNat
    let lits := r.lits.filterMap literal
    let good := (∀ n ∈ r.lits, literal n ≠ none) ∧ ∀ v, ¬ ((v, true) ∈ lits ∧ (v, false) ∈ lits)
    let placed (c : Nat) (a' : ClauseArr) : Prop :=
      (∃ m, SMap.find a'.cols c = some m ∧ ∀ v y, SMap.find m v = some y ↔ (v, y) ∈ lits)
        ∧ (∀ k, k ≠ c → SMap.find a'.cols k = SMap.find a.cols k) ∧ a'.vals = a.vals ∧ a'.trail = a.trail ∧ a'.cl = a.cl
    let base := x / 2 ^ 24 % 2 ^ 12
    (∀ c o n, s.ev.b = 1 → r.list = some (c, o, n) → s.listHeld r = true →
        ∃ t, exec .clauseOperationAtArray s = .next t ∧ t.mem = s.mem ∧ t.arrays = s.arrays ∧ t.clauseReqs = s.clauseReqs
          ∧ (t.core r.core).ls = (s.core r.core).ls ∧ Goes s t .clauseOperationAtArray ⟨r.id, 1, 0, 0, []⟩)
    ∧ (∀ c o n, s.ev.b = 1 → r.list = some (c, o, n) → s.listHeld r = false →
        let lits := r.lits ++ (List.range (Nat.min 4 n)).map fun i => ofBytes ((s.core c).lbytes (o + 2 * i) 2)
        ∃ t, exec .clauseOperationAtArray s = .next t ∧ t.cores = s.cores ∧ t.mem = s.mem ∧ t.arrays = s.arrays
          ∧ (n ≤ 4 → t.clauseReqs = SMap.put s.clauseReqs r.id { r with lits := lits, list := none }
              ∧ Goes s t .clauseOperationAtArray ⟨r.id, 0, 0, 0, []⟩)
          ∧ (4 < n → t.clauseReqs = SMap.put s.clauseReqs r.id { r with lits := lits, list := some (c, o + 8, n - 4) }
              ∧ Goes s t .clauseOperationAtArray ⟨r.id, 1, 0, 0, []⟩))
    ∧ (s.ev.b = 0 → ¬ held → ∃ t, exec .clauseOperationAtArray s = .next t ∧ t.arrays = s.arrays
        ∧ answered t { fault := some { kind := 2, cause := 70, det := r.m, pc := r.pc } })
    ∧ (s.ev.b = 0 → held →
      (r.op = 0 → good → gives (placed base) (2 ^ 63 + base))
      ∧ (r.op = 2 → good → ∀ c, base ≤ c → c < 4095 → SMap.find a.cols c = none →
          (∀ k, base ≤ k → k < c → SMap.find a.cols k ≠ none) → gives (placed c) (2 ^ 63 + c))
      ∧ (r.op = 1 → x < 2 ^ 25 →
          let n := x / 2 ^ 12
          n ≠ 0 → x % 2 ^ 12 + n ≤ 4096 →
          gives (fun a' => (∀ c, SMap.find a'.cols c = if x % 2 ^ 12 ≤ c ∧ c < x % 2 ^ 12 + n ∧ c ≠ 4095 then none else SMap.find a.cols c)
              ∧ a'.vals = a.vals ∧ a'.trail = a.trail ∧ a'.cl = a.cl) (2 ^ 63 + n))
      ∧ (r.op = 5 → (∀ c ∈ a.cols, c.1 < 4096) →
          ∃ t w, exec .clauseOperationAtArray s = .next t ∧ answered t { v := w }
            ∧ (let a' : ClauseArr := SMap.get {} t.arrays r.m
              let out := w.toNat % 4
              a'.cols = a.cols ∧ a'.cl = a.cl ∧ a.trail <+: a'.trail ∧ a'.last = w
              ∧ (∀ v y, SMap.find a.vals v = some y → SMap.find a'.vals v = some y)
              ∧ (out = 1 → ∃ c ∈ a.cols, c.1 = w.toNat / 2 ^ 16 % 2 ^ 16 ∧ ∀ l ∈ c.2, a'.lit l = some false)
              ∧ (out = 2 → ∀ c ∈ a.cols, ∃ l ∈ c.2, a'.lit l = some true)
              ∧ (out = 0 → ∀ c ∈ a.cols, (∃ l ∈ c.2, a'.lit l = some true) ∨ 2 ≤ c.2.countP fun l => a'.lit l = none)))
      ∧ (r.op = 6 → ∀ k, k = x % 2 ^ 10 →
          (∀ e : TrailEntry, a.trail[k]? = some e → gives (· = a)
            (e.var + (if e.val then 2 ^ 10 else 0) + 2 ^ 16 * e.level + 2 ^ 32 * e.reason + 2 ^ 63))
          ∧ (a.trail.length ≤ k → gives (· = a) 0))
      ∧ (r.op = 7 → x / 2 ^ 12 % 2 = 0 →
          (SMap.find a.vals (x % 2 ^ 10) = none → gives (· = a) (2 ^ 63))
          ∧ ∀ y lev pos, SMap.find a.vals (x % 2 ^ 10) = some (y, lev, pos) →
              gives (· = a) ((if y then 1 else 2) + lev * 2 ^ 16 + pos * 2 ^ 32 + 2 ^ 63))
      ∧ (r.op = 8 → x % 4 = 0 → gives (· = a) (a.trail.length + a.cl * 2 ^ 16 + a.cols.length * 2 ^ 26 + 2 ^ 63))
      ∧ (r.op = 8 → x % 4 = 1 → gives (· = a) a.last.toNat)))

/-- cdec makes a decision and cback backtracks, as R327 gives it. -/
def Obligations.DecisionsOpenAndCloseLevels : Prop :=
  ∀ (s : State) (r : ClauseReq) (h : UnitHold), SMap.find s.clauseReqs s.ev.a = some r → r.id = s.ev.a →
    s.ev.b = 0 → SMap.find s.units (4096 + r.m) = some h → h.gang = some r.gang →
    let a : ClauseArr := SMap.get {} s.arrays r.m
    let x := r.b.toNat
    let gives (a' : ClauseArr → Prop) (w : Word → Prop) : Prop :=
      ∃ t y, exec .clauseOperationAtArray s = .next t ∧ a' (SMap.get {} t.arrays r.m) ∧ w y ∧ t.cores = s.cores ∧ t.mem = s.mem
        ∧ SMap.find t.resps r.id = some { v := y } ∧ ∃ p ∈ t.cal, p.ev = .resultArrival ∧ p.args = ⟨r.core, r.ctx, r.id, 0, []⟩
    let status (y : Word) : Nat := y.toNat / 2 ^ 16 % 16
    let v := x % 2 ^ 10
    let level := x % 2 ^ 10
    let value := decide (x / 2 ^ 10 % 2 = 1)
    (r.op = 3 → 2 ^ 11 ≤ x → gives (· = a) fun y => a.cl < 2 ^ 10 → status y = 1)
    ∧ (r.op = 3 → x < 2 ^ 11 →
      (SMap.find a.vals v ≠ none → gives (· = a) fun y => a.cl < 2 ^ 10 → status y = 4 ∧ y.toNat % 2 ^ 10 = a.cl)
      ∧ (SMap.find a.vals v = none → a.cl = 1023 → gives (· = a) fun y => status y = 5 ∧ y.toNat % 2 ^ 10 = 1023)
      ∧ (SMap.find a.vals v = none → a.cl < 1023 →
          gives (· = { a with cl := a.cl + 1, vals := SMap.put a.vals v (value, a.cl + 1, a.trail.length)
                              trail := a.trail ++ [⟨v, value, a.cl + 1, 0xFFF⟩] })
            fun y => status y = 0 ∧ y.toNat % 2 ^ 10 = a.cl + 1))
    ∧ (r.op = 4 → 2 ^ 11 ≤ x → gives (· = a) fun y => a.trail.length < 2 ^ 11 → a.cl < 2 ^ 10 → status y = 1)
    ∧ (r.op = 4 → x < 2 ^ 11 → ∀ kept gone : List TrailEntry, a.trail = kept ++ gone →
      (if value then kept = []
        else (∀ e ∈ gone, level < e.level) ∧ ∀ e, kept.getLast? = some e → e.level ≤ level) →
      let cl := if value then 0 else Nat.min a.cl level
      gives (fun a' => a'.trail = kept ∧ a'.cl = cl ∧ a'.cols = a.cols
          ∧ ∀ u, SMap.find a'.vals u = if u ∈ gone.map (·.var) then none else SMap.find a.vals u)
        (fun y => kept.length < 2 ^ 11 → cl < 2 ^ 10 → status y = 0 ∧ y.toNat % 2 ^ 11 = kept.length ∧ y.toNat / 2 ^ 22 % 2 ^ 10 = cl))

/-! ### Traps, system registers, debug and errors -/

/-- trap takes a trap of kind 5 with the pc behind it; a late fault, an interrupt and a fetch that fails take theirs; an illegal
word halts its context at the word's own address, how far that lies behind its repeat word kept, and is reported.  A trap waits
for its context's local accesses and for the guard over the frame that it would write.  A late fault that finds its context in a waitc saves the pc of the word
behind it where the count is met, and else its own.  An interrupt that may not be taken, or a late fault that is gone,
changes nothing (spec/17_system.md).
The model's choices it rests on: log entries 12, 42, 125, 126, 156, 163 and 172. -/
def Obligations.TrapsAndInterruptsAreTaken : Prop :=
  ∀ (s : State) (S : Stall) (n : BitVec 6),
    (s.clear [] →
      Traps s s.cc s.cx ({ s.cur with pc := s.cur.pc + 4, issuedAt := s.now } : Ctx).drain n.toNat (plainRecord 5 n.toNat) 0 (exec (.trap S n) s))
    ∧ Traps s s.cc s.cx s.cur.drain s.ev.a (plainRecord 1 s.ev.a) s.ev.w (exec .fetchFault s)
    ∧ (let c := s.ev.a
      let x := s.ev.b
      let t := s.ctxAt c x
      (t.late = [] → exec .trapEntry s = .next s)
      ∧ (∀ f rest, t.late = f :: rest →
          let takes (u : Ctx) : Prop :=
            Traps s c x
              ({ u with late := rest, groups := if f.kind = 3 then f.groups else u.groups, wait := .none } : Ctx).drain f.cause
              (BitVec.ofNat 64 (f.cause % 256 + f.kind % 16 * 2 ^ 8 + f.seq % 65536 * 2 ^ 12 + f.det % 2 ^ 32 * 2 ^ 32))
              (BitVec.ofNat 64 f.addr) (exec .trapEntry s)
          (t.wait = .none → takes t)
          ∧ ∀ k limit, t.wait = .counter k limit → takes (if t.counter k ≤ limit then t.advance else t))
      ∧ (let timer := (t.tcmp ≠ 0 ∧ t.tcmp.toNat ≤ s.cyc c) ∨ t.tpost = true
        let soft := t.ien % 2 = 1 ∧ t.soft = true
        let due := t.status = .running ∧ (soft ∨ (t.ien / 2 % 2 = 1 ∧ timer)) ∧ t.ih = false ∧ t.rt = false
          ∧ (s.core c).tvec ≠ 0 ∧ ¬ ((s.core c).ex.phase = true ∧ x = 0)
        t.wait = .none →
          (¬ due → exec .interrupt s = .next s)
          ∧ (due → soft → Traps s c x ({ t with soft := false } : Ctx).drain 0 (plainRecord 6 0) 0 (exec .interrupt s))
          ∧ (due → ¬ soft → Traps s c x t.drain 1 (plainRecord 6 1) 0 (exec .interrupt s))))
    ∧ ∃ t, exec .illegalWordHalt s = .next t ∧ t.curCore.ls = s.curCore.ls ∧ Reported s t (s.partOf s.cc) s.cc s.cx s.ev.a 0
        ∧ t.cur = { s.cur with
            pc := if s.cur.frame ≠ [] ∧ s.cur.st.getLsbD 62 = true
              then s.cur.pc + BitVec.ofNat 52 (4 * (s.cur.st.toNat / 2 ^ 58 % 16 + 1)) else s.cur.pc
            frame := [], status := .halted, hk := 1, hp := false, haltMk := 0, haltCause := s.ev.a
            haltWord := s.ev.w.setWidth 32, wait := .none
            haltBack := if s.cur.frame ≠ [] ∧ s.cur.st.getLsbD 62 = true then 4 * (s.cur.st.toNat / 2 ^ 58 % 16 + 1) else 0 }

/-- eret outside a handler traps with cause 95; in one it restores what the frame holds and leaves the handler.  yield waits for
the other ready contexts, at most 11 cycles.  A halt without a mask stops its own context and is reported; one on others needs a
level, and a range inside the partition it acts for but at level 2, and flushes what its range and mask name, asks it to stop, at
once or, whole barrier groups only, at the end of their superstep, or restarts it 64 cycles later.  A halt that is to land waits
for its context's local accesses (spec/17_system.md).
The model's choices it rests on: log entries 13, 89, 90, 117, 132 and 148. -/
def Obligations.ReturnsYieldsAndHalts : Prop :=
  ∀ (s : State) (S : Stall) (d a : Opnd),
    (s.clear [] →
      (s.cur.ih = false → exec (.eret S) s = .next (s.exact 95 0))
      ∧ (s.cur.ih = true →
        ∃ t, exec (.eret S) s = .next t ∧ Within s t ∧ Restored s s.cc s.cx t.cur ∧ t.cur.ih = false
          ∧ t.curCore = { s.curCore with ctxs := t.curCore.ctxs } ∧ s.now < t.cur.readyAt)
      ∧ ∃ t xs, exec (.yield S) s = .next t
          ∧ OnlyCur s { s.cur.issued s.now S with wait := .others xs (s.now + 11) } 0 t
          ∧ ∀ x, x ∈ xs ↔ ∃ e ∈ s.curCore.ctxs, e.1 = x ∧ x ≠ s.cx ∧ s.isReady s.cc x = true)
    ∧ (s.clear [a] → s.cur.ld.length < 32 →
      let v := (s.opnd a).toNat
      let first := v % 2 ^ 11
      let count := v / 2 ^ 11 % 2 ^ 11 + 1
      let mask := v / 2 ^ 22 % 2 ^ 11
      let id := s.nextId
      let bad := 2 ^ 35 ≤ v ∨ 2048 < first + count
      let named (c x : Nat) : Prop := first ≤ c ∧ c < first + count ∧ mask / 2 ^ x % 2 = 1 ∧ ¬ (c = s.cc ∧ x = s.cx)
      let i : Instr := .halt S d a
      let answer (n sts : Nat) : Resp := { v := BitVec.ofNat 64 (n % 2 ^ 11 + sts * 2 ^ 16 + 2 ^ 63) }
      (mask = 0 →
        ∃ t, exec i s = .next t ∧ t.curCore.ls = s.curCore.ls ∧ Reported s t (s.partOf s.cc) s.cc s.cx 0 2
          ∧ t.cur.status = .halted ∧ t.cur.hk = 4 ∧ t.cur.haltMk = 2 ∧ t.cur.pc = (s.cur.issued s.now S).pc
          ∧ t.cur.q 1 = 0x8000000000000001 ∧ (∀ r, destReg d = some r → t.cur.g r = 0x8000000000000001)
          ∧ ∀ y, y ≠ s.cx → t.ctxAt s.cc y = s.ctxAt s.cc y)
      ∧ (mask ≠ 0 → s.level s.cc = 0 → exec i s = .next (s.exact 92 0))
      ∧ (mask ≠ 0 → s.level s.cc ≠ 0 → bad →
          ∃ t, exec i s = .next t ∧ Alone s t ∧ Counted s t.cur S d id ∧ Answered s t s.cc s.cx id (answer 0 1))
      ∧ (mask ≠ 0 → s.level s.cc ≠ 0 → ¬ bad → s.level s.cc ≠ 2 → (∃ j, j < count ∧ s.belongs (first + j) (s.actsFor s.cc) = false) →
          exec i s = .next (s.exact 92 0))
      ∧ (mask ≠ 0 → s.level s.cc ≠ 0 → ¬ bad → (s.level s.cc = 2 ∨ ∀ j, j < count → s.belongs (first + j) (s.actsFor s.cc) = true) →
          s.listedOnce →
          ∃ t, exec i s = .next t ∧ Counted s t.cur S d id ∧ t.mem = s.mem
            ∧ (∀ c x, ¬ named c x → ¬ (c = s.cc ∧ x = s.cx) → t.ctxAt c x = s.ctxAt c x)
            ∧ (v / 2 ^ 33 % 4 = 0 → ∀ c x, named c x → (s.ctxAt c x).status = .running →
                (t.ctxAt c x).hp = true ∧ ∃ p ∈ t.cal, p.ev = .debugHaltLanding ∧ p.args = ⟨c, x, id, 0, []⟩ ∧ s.now < p.due)
            ∧ (v / 2 ^ 33 % 4 = 0 → (∀ c x, named c x → (s.ctxAt c x).status ≠ .running) →
                SMap.find t.resps id = some (answer 0 0))
            ∧ (v / 2 ^ 33 % 4 = 1 → ∀ c x, named c x → (s.ctxAt c x).status = .running →
                let whole := ∃ g j, s.groupKey c = some (g, j) ∧ ∀ m ∈ s.members g j, named m 0 ∧ (s.ctxAt m 0).status = .running
                (whole → (t.ctxAt c x).hp = true) ∧ (¬ whole → (t.ctxAt c x).hp = (s.ctxAt c x).hp))
            ∧ (v / 2 ^ 33 % 4 = 2 → (∀ c x, named c x → t.ctxAt c x = s.ctxAt c x)
                ∧ ∃ h, SMap.find t.halts id = some h ∧ h.core = s.cc ∧ h.ctx = s.cx ∧ h.id = id ∧ h.at_ = s.now + 64
                  ∧ ∀ c x, (c, x) ∈ h.left ↔ named c x ∧ (s.ctxAt c x).status = .halted ∧ (s.ctxAt c x).hk = 2)
            ∧ (v / 2 ^ 33 % 4 = 3 → (∀ c x, named c x → (s.ctxAt c x).status = .halted → (s.ctxAt c x).hk = 2 →
                (∀ e ∈ (t.core c).vec.q, e.ctx = x → e.unbegun = false) ∧ ∀ e ∈ (t.core c).mat.q, e.ctx = x → e.begunAt ≠ none)
                ∧ ∃ n, SMap.find t.resps id = some (answer n 0))))
    ∧ (let c := s.ev.a
      let x := s.ev.b
      let t := s.ctxAt c x
      t.status = .running → t.hp = true → (∀ i, t.wait ≠ .watch i) →
        ((s.core c).ex.phase = true → ∃ u, exec .debugHaltLanding s = .next u ∧ u.cores = s.cores ∧ Goes s u .debugHaltLanding s.ev)
        ∧ ((s.core c).ex.phase = false → s.landingHeld c x = true → ∃ u, exec .debugHaltLanding s = .next u
            ∧ (u.ctxAt c x).status = .running ∧ (u.ctxAt c x).regs = t.regs ∧ (u.ctxAt c x).hp = true ∧ Goes s u .debugHaltLanding s.ev)
        ∧ ((s.core c).ex.phase = false → s.landingHeld c x = false → ∃ u, exec .debugHaltLanding s = .next u
            ∧ (let k := u.ctxAt c x
              k.status = .halted ∧ k.hk = 2 ∧ k.hp = false ∧ k.pc = t.pc ∧ k.ih = t.ih ∧ (∀ n, k.g n = t.drain.g n)
                ∧ ∀ q, k.q q = t.drain.q q)
            ∧ (∀ y, y ≠ x → u.ctxAt c y = s.ctxAt c y) ∧ u.mem = s.mem
            ∧ ∀ h, SMap.find s.halts s.ev.c = some h → (h.left = [(c, x)] → h.out = [] → SMap.find u.resps h.id =
                  some { v := BitVec.ofNat 64 (h.acted % 2 ^ 11 + 2 ^ 63) })
                ∧ (∀ e ∈ h.left, e ≠ (c, x) → ∃ g, SMap.find u.halts s.ev.c = some g ∧ e ∈ g.left)))
    ∧ ∀ i h, s.halts = [(i, h)] → h.at_ ≠ 0 →
        (s.now < h.at_ → s.restarts = s)
        ∧ (h.at_ ≤ s.now → s.viral = false →
          (∀ c x, s.restarts.ctxAt c x =
            if (c, x) ∈ h.left ∧ (s.ctxAt c x).status = .halted ∧ (s.ctxAt c x).hk = 2
              then { s.ctxAt c x with status := .running, hk := 0, readyAt := s.now } else s.ctxAt c x)
          ∧ SMap.find s.restarts.resps h.id = some { v := BitVec.ofNat 64 (h.acted % 2 ^ 11 + 2 ^ 63) })

/-- srr delivers after 2 cycles the value of the register by its number, st once every fixed-latency result has arrived; one
below the register's level traps with cause 92. srw writes the register by its number at the level the table asks, cause 92
below it, and where its write rule holds, cause 93 where it does not; st keeps its fields above bit 8, TRC starts, arms or
ends a trace, CHKC sets what is injected, VIR enters the viral state (spec/17_system.md).
The model's choices it rests on: log entries 76, 88, 89, 94, 147, 149 and 181. -/
def Obligations.SystemRegistersReadAndWrite : Prop :=
  (∀ (s : State) (S : Stall) (d : Opnd) (n : BitVec 12), s.clear [] →
    let t := s.cur
    let k := s.curCore
    let a := t.asel.getD (s.asidOf s.cc)
    let sp := s.space a
    let p := s.part (t.psel.getD (s.actsFor s.cc))
    let b2 (b : Prop) [Decidable b] (i : Nat) : Nat := if b then 2 ^ i else 0
    let traceControl (die : Nat) : Word :=
      let x : Trace := SMap.get {} s.traces die
      BitVec.ofNat 64 (x.oct + 2 ^ 8 * x.mode + b2 (x.ring = true) 10 + b2 (x.run = true) 12 + b2 (x.done = true) 13)
    let status : Nat := match t.status with | .free => 0 | .running => 1 | .halted => 2 | .ended => 3
    let table : List (Nat × Nat × Word) :=
      [(0x000, 0, t.st), (0x001, 0, t.trec), (0x002, 0, t.taddr)
      , (0x003, 0, BitVec.ofNat 64 (status + (if t.status = .halted then 4 * t.hk else 0) + b2 (t.ih = true) 5 + b2 (t.rt = true) 6
          + b2 (t.hp = true) 7))
      , (0x004, 0, BitVec.ofNat 64 t.ien)
      , (0x005, 0, BitVec.ofNat 64 (b2 (t.soft = true) 0 + b2 ((t.tcmp ≠ 0 ∧ t.tcmp.toNat ≤ s.cyc s.cc) ∨ t.tpost = true) 1))
      , (0x006, 0, t.tcmp), (0x00F, 0, BitVec.ofNat 64 a)
      , (0x100, 0, k.tvec), (0x101, 0, k.tfa), (0x102, 0, BitVec.ofNat 64 k.vsw), (0x103, 0, BitVec.ofNat 64 (s.level s.cc))
      , (0x200, 0, sp.ptb), (0x201, 0, sp.pct), (0x202, 0, sp.scb), (0x203, 0, sp.ctb), (0x204, 0, sp.fwb)
      , (0x205, 0, BitVec.ofNat 64 (a + 2 ^ 16 * sp.gen)), (0x20E, 2, BitVec.ofNat 64 p.rcb)
      , (0x210, 0, p.gnb), (0x211, 0, p.gnn), (0x212, 0, p.gtb), (0x213, 1, p.flb), (0x214, 1, p.fls)
      , (0x215, 1, BitVec.ofNat 64 (p.written + 2 ^ 32 * p.lost)), (0x216, 1, p.asb), (0x217, 1, p.asn)
      , (0x218, 1, p.pom0), (0x219, 1, p.pom1), (0x21A, 1, p.pom2), (0x21B, 1, p.pom3)
      , (0x300, 1, traceControl 0), (0x301, 1, traceControl 1)
      , (0x302, 1, (SMap.get {} s.traces 0 : Trace).trb), (0x303, 1, (SMap.get {} s.traces 1 : Trace).trb)
      , (0x304, 1, (SMap.get {} s.traces 0 : Trace).tst), (0x305, 1, (SMap.get {} s.traces 1 : Trace).tst)
      , (0x306, 1, BitVec.ofNat 64 (s.chkCore + 2 ^ 16 * s.mism))
      , (0x307, 1, BitVec.ofNat 64 (b2 (s.viral = true) 0 + 2 ^ 4 * s.virSrc + 2 ^ 16 * s.virUnit))]
        ++ (List.range 64).map fun i => (0x40 + i, 0, SMap.get 0 t.seqr i)
    (n = 0 → (∃ p ∈ t.pend, p.slotAt ≠ 0) → exec (.srr S d n) s = .next s.hold)
    ∧ ((n = 0 → ∀ p ∈ t.pend, p.slotAt = 0) →
      ∀ e ∈ table, n.toNat = e.1 →
        (s.level s.cc < e.2.1 → exec (.srr S d n) s = .next (s.exact 92 0))
        ∧ (e.2.1 ≤ s.level s.cc → Gives (exec (.srr S d n) s) s S d e.2.2 (s.now + 2) 0)))
  ∧ (∀ (s : State) (S : Stall) (v : Opnd) (n : BitVec 12), s.clear [v] →
    let x := s.opnd v
    let i : Instr := .srw S v n
    let k := s.curCore
    let u := s.cur.issued s.now S
    let asid := s.cur.asel.getD (s.asidOf s.cc)
    let p := s.cur.psel.getD (s.actsFor s.cc)
    let own := s.part (s.actsFor s.cc)
    let writes (num level : Nat) (ok : Prop) (post : State → Prop) : Prop := n.toNat = num →
      (s.level s.cc < level → exec i s = .next (s.exact 92 0))
      ∧ (level ≤ s.level s.cc → ¬ ok → exec i s = .next (s.exact 93 0))
      ∧ (level ≤ s.level s.cc → ok → ∃ t, exec i s = .next t ∧ post t)
    let core (t : State) (k' : CoreState) : Prop := t = s.setCore s.cc { k' with ctxs := SMap.put k.ctxs s.cx u }
    let space (t : State) (f : Space) : Prop :=
      t.cur = u ∧ t.space asid = f ∧ t.mem = s.mem ∧ (∀ a, a ≠ asid → t.space a = s.space a) ∧ ∀ c, c ≠ s.cc → t.core c = s.core c
    let part (t : State) (f : Part) : Prop :=
      t.cur = u ∧ t.part p = f ∧ t.mem = s.mem ∧ (∀ a, a ≠ p → t.part a = s.part a) ∧ ∀ c, c ≠ s.cc → t.core c = s.core c
    let trace (t : State) (die : Nat) (f : Trace → Prop) : Prop := t.cur = u ∧ f (SMap.get {} t.traces die)
    let old (die : Nat) : Trace := SMap.get {} s.traces die
    let control (die : Nat) : Prop :=
      writes (0x300 + die) 2 (x.toNat / 16 % 2 = die) fun t => trace t die fun y =>
        y.oct = x.toNat % 2 ^ 8 ∧ y.mode = x.toNat / 2 ^ 8 % 4 ∧ y.ring = x.getLsbD 10 ∧ y.trb = (old die).trb
          ∧ (x.getLsbD 11 = true → y.run = false ∧ (y.done = true ∨ (old die).run = false))
          ∧ (x.getLsbD 11 = false → y.mode = 1 → y.run = true ∧ y.done = false ∧ y.recs = [])
          ∧ (x.getLsbD 11 = false → y.mode = 2 → y.run = false ∧ y.done = false)
    (writes 0x000 0 True fun t => OnlyCur s { u with st := t.cur.st } 0 t ∧ (∀ b, b < 9 → t.cur.st.getLsbD b = x.getLsbD b)
      ∧ ∀ b, 9 ≤ b → t.cur.st.getLsbD b = u.st.getLsbD b)
    ∧ (writes 0x004 0 True fun t => OnlyCur s { u with ien := x.toNat % 4 } 0 t)
    ∧ (writes 0x005 0 True fun t => OnlyCur s { u with soft := s.cur.soft && !x.getLsbD 0 } 0 t)
    ∧ (writes 0x006 0 True fun t => OnlyCur s { u with tcmp := x, tpost := false } 0 t)
    ∧ (writes 0x00F 1 (x.toNat < 65536 ∧ (s.level s.cc = 2 ∨ (own.asb.toNat ≤ x.toNat ∧ x.toNat < own.asb.toNat + own.asn.toNat)))
        fun t => OnlyCur s { u with asel := some x.toNat } 0 t)
    ∧ (writes 0x100 0 (x.toNat % 4 = 0 ∧ x.toNat < 2 ^ 52) fun t => core t { k with tvec := x })
    ∧ (writes 0x101 0 (x.toNat % 512 = 0 ∧ x.toNat + 5632 ≤ 0x58000) fun t => core t { k with tfa := x })
    ∧ (writes 0x102 1 True fun t => core t { k with vsw := x.toNat % 8 })
    ∧ (writes 0x200 1 True fun t => space t { s.space asid with ptb := x })
    ∧ (writes 0x201 1 True fun t => space t { s.space asid with pct := x })
    ∧ (writes 0x202 1 True fun t => space t { s.space asid with scb := x })
    ∧ (writes 0x203 1 True fun t => space t { s.space asid with ctb := x })
    ∧ (writes 0x204 1 (x = 0 ∨ (x.toNat % 2 ^ 28 = 0 ∧ x.toNat < 2 ^ 51)) fun t => space t { s.space asid with fwb := x })
    ∧ (writes 0x20E 2 (∃ q t, s.partAt x.toNat = some (q, t)) fun t =>
        ∃ q, t.cur = { u with psel := some q } ∧ (t.part q).rcb = x.toNat)
    ∧ (writes 0x210 1 (x.toNat + (s.part p).gnn.toNat ≤ 32768) fun t => part t { s.part p with gnb := x })
    ∧ (writes 0x211 1 ((s.part p).gnb.toNat + x.toNat ≤ 32768) fun t => part t { s.part p with gnn := x })
    ∧ (writes 0x212 1 True fun t => part t { s.part p with gtb := x })
    ∧ (writes 0x213 1 True fun t => part t { s.part p with flb := x })
    ∧ (writes 0x214 1 True fun t => part t { s.part p with fls := x })
    ∧ (writes 0x216 2 True fun t => part t { s.part p with asb := x })
    ∧ (writes 0x217 2 True fun t => part t { s.part p with asn := x })
    ∧ (writes 0x218 2 True fun t => part t { s.part p with pom0 := x })
    ∧ (writes 0x219 2 True fun t => part t { s.part p with pom1 := x })
    ∧ (writes 0x21A 2 True fun t => part t { s.part p with pom2 := x })
    ∧ (writes 0x21B 2 True fun t => part t { s.part p with pom3 := x })
    ∧ control 0 ∧ control 1
    ∧ (writes 0x302 2 True fun t => trace t 0 (· = { old 0 with trb := x }))
    ∧ (writes 0x303 2 True fun t => trace t 1 (· = { old 1 with trb := x }))
    ∧ (writes 0x304 2 True fun t => trace t 0 (· = { old 0 with tst := x }))
    ∧ (writes 0x305 2 True fun t => trace t 1 (· = { old 1 with tst := x }))
    ∧ (writes 0x306 2 True fun t =>
        let c := x.toNat % 2 ^ 11
        t.cur = u ∧ t.chkCore = c ∧ t.mism = s.mism ∧ (t.core c).injS = ((s.core c).injS || x.getLsbD 11)
          ∧ (t.core c).injV = ((s.core c).injV || x.getLsbD 12) ∧ (t.core c).injM = ((s.core c).injM || x.getLsbD 13))
    ∧ (writes 0x307 2 True fun t => t.viral = (s.viral || x.getLsbD 0) ∧ (x.getLsbD 0 = false → t.cur = u)
        ∧ (x.getLsbD 0 = true → s.viral = false → t.virSrc = 4 ∧ t.virUnit = 0))
    ∧ ∀ r, r ∈ [0x001, 0x002, 0x003, 0x103, 0x205, 0x215] ++ (List.range 64).map (0x40 + ·) → n.toNat = r →
        exec i s = .next (s.exact 92 0))

/-- wrd reads, and wwr writes, an item of a halted context or a quiet core by its number, and wres lets a halted context go on;
below level 1, outside the partition, at a bad number, or at a target that is not halted they trap with causes 92, 93 and 94; a
context that halted at a captured word and goes on there goes on in its frame (spec/17_system.md).
The model's choices it rests on: log entries 89, 90, 94, 148 and 163. -/
def Obligations.RegisterWindowReadsWritesAndResumes : Prop :=
  ∀ (s : State) (S : Stall) (d v a b : Opnd),
    let id := s.nextId
    let c := (s.opnd a).toNat % 2 ^ 11
    let x := (s.opnd a).toNat / 2 ^ 11 % 16
    let n := (s.opnd b).toNat
    let w := s.opnd v
    let k := s.core c
    let t := s.ctxAt c x
    let own := s.actsFor s.cc
    let allowed := s.level s.cc = 2
      ∨ (s.level s.cc = 1 ∧ (((s.core c).gang ≠ none ∧ s.partOf c = own) ∨ (s.part own).sup = c))
    let quiet := ∀ e ∈ k.ctxs, e.2.status ≠ .running
    let context (n : Nat) : Prop := n ≤ 0x34 ∨ n = 0x37 ∨ n = 0x38 ∨ n = 0x3A ∨ n = 0x3B ∨ (0x40 ≤ n ∧ n ≤ 0x7F)
    let any (n : Nat) : Prop := n = 0x35 ∨ n = 0x36 ∨ n = 0x39
    let coreWide (n : Nat) : Prop := (0x100 ≤ n ∧ n ≤ 0x117) ∨ (0x10000 ≤ n ∧ n < 0x12400) ∨ (0x20000 ≤ n ∧ n < 0x22000)
      ∨ (0x100000 ≤ n ∧ n < 0x160000 ∧ n % 8 = 0)
    let readOnly := n = 0x33 ∨ n = 0x34 ∨ n = 0x35 ∨ n = 0x3A ∨ n = 0x3B ∨ (0x40 ≤ n ∧ n ≤ 0x117)
    let numbered := (x ≤ 10 ∨ n = 0x39) ∧ (context n ∨ any n ∨ coreWide n)
    let open' := any n ∨ (context n ∧ t.status = .halted) ∨ (coreWide n ∧ quiet)
    let reads (r : Word) : Prop :=
      ∃ u, exec (.wrd S d a b) s = .next u ∧ Alone s u ∧ Counted s u.cur S d id ∧ Answered s u s.cc s.cx id { v := r }
    let me : Ctx := { s.cur.issued s.now S with stq := s.cur.stq ++ [⟨id, none, false, false⟩] }
    let writes (post : State → Prop) : Prop :=
      ∃ u, exec (.wwr S v a b) s = .next u ∧ u.mem = s.mem ∧ post u
        ∧ u.resps = SMap.put s.resps id {} ∧ ∃ p ∈ u.cal, p.ev = .storeAcknowledgement ∧ p.args = ⟨s.cc, s.cx, id, 0, []⟩
    let inCtx (f : Ctx → Prop) : Prop := writes fun u => f (u.ctxAt c x) ∧ u.cur = me ∧ (∀ e, e ≠ c → e ≠ s.cc → u.core e = s.core e)
    (s.clear [a, b] → s.cur.ld.length < 32 →
      (¬ allowed → exec (.wrd S d a b) s = .next (s.exact 92 0))
      ∧ (allowed → ¬ numbered → exec (.wrd S d a b) s = .next (s.exact 93 0))
      ∧ (allowed → numbered → ¬ open' → exec (.wrd S d a b) s = .next (s.exact 94 0))
      ∧ (allowed → numbered → open' →
        (n ≤ 0x1F → reads (t.g n)) ∧ (0x20 ≤ n → n ≤ 0x2F → reads (t.q (n - 0x1F)))
        ∧ (n = 0x30 → reads t.st) ∧ (n = 0x31 → reads (t.pc.setWidth 64)) ∧ (n = 0x32 → reads (BitVec.ofNat 64 t.vl))
        ∧ (n = 0x33 → reads (BitVec.ofNat 64 (t.ld.length % 64 + 2 ^ 6 * (t.stq.length % 128) + 2 ^ 13 * (t.enc % 32)
            + 2 ^ 18 * (t.mbc % 16) + 2 ^ 22 * (t.vqc % 32))))
        ∧ (n = 0x34 → reads (BitVec.ofNat 64 (t.haltCause % 256 + 2 ^ 8 * (t.haltMk % 16) + 2 ^ 32 * t.haltWord.toNat)))
        ∧ (n = 0x37 → reads t.trec) ∧ (n = 0x38 → reads t.taddr) ∧ (n = 0x39 → reads (BitVec.ofNat 64 k.vsw))
        ∧ (0x40 ≤ n → n ≤ 0x7F → reads (SMap.get 0 t.seqr (n - 0x40)))
        ∧ (let four (gs : List Nat) : Nat :=
            gs.getD 0 0 % 2 ^ 16 + 2 ^ 16 * (gs.getD 1 0 % 2 ^ 16) + 2 ^ 32 * (gs.getD 2 0 % 2 ^ 16) + 2 ^ 48 * (gs.getD 3 0 % 2 ^ 16)
          (n = 0x3A → reads (BitVec.ofNat 64 (four t.groups))) ∧ (n = 0x3B → reads (BitVec.ofNat 64 (four (t.groups.drop 4)))))
        ∧ (0x100 ≤ n → n ≤ 0x10F → (k.vec.q[n - 0x100]? = none → reads 0)
          ∧ ∀ e i m, k.vec.q[n - 0x100]? = some e → encode e.ins = some i → (∀ g, m.testBit g = true ↔ g ∈ e.begun) →
              reads (BitVec.ofNat 64 (e.seq + 2 ^ 16 * e.ctx + 2 ^ 20 * (i.toNat / 2 ^ 22 % 2 ^ 7) + 2 ^ 27 * m)))
        ∧ (0x110 ≤ n → n ≤ 0x117 → (k.mat.q[n - 0x110]? = none → reads 0)
          ∧ ∀ e, k.mat.q[n - 0x110]? = some e →
              reads (BitVec.ofNat 64 (e.seq + 2 ^ 16 * e.ctx + 2 ^ 20 * e.acc + (if e.begunAt = none then 0 else 2 ^ 23))))
        ∧ (0x12000 ≤ n → n < 0x12400 → reads ((SMap.get 0 k.vec.ix (n - 0x12000)).setWidth 64))
        ∧ (0x10000 ≤ n → n < 0x12000 → reads ((SMap.get 0 k.vec.v (n - 0x10000)).setWidth 64))
        ∧ (0x20000 ≤ n → n < 0x22000 → reads ((SMap.get 0 k.mat.acc (n - 0x20000)).setWidth 64))
        ∧ (0x100000 ≤ n → reads (BitVec.ofNat 64 (ofBytes (k.lbytes (n - 0x100000) 8))))))
    ∧ (s.clear [v, a, b] → s.cur.stq.length < 64 →
      let pcBad := n = 0x31 ∧ w.toNat % 4 ≠ 0
      (¬ allowed → exec (.wwr S v a b) s = .next (s.exact 92 0))
      ∧ (allowed → (¬ numbered ∨ readOnly ∨ pcBad) → exec (.wwr S v a b) s = .next (s.exact 93 0))
      ∧ (allowed → numbered → ¬ readOnly → ¬ pcBad → ¬ open' → exec (.wwr S v a b) s = .next (s.exact 94 0))
      ∧ (allowed → numbered → ¬ readOnly → ¬ pcBad → open' → (c, x) ≠ (s.cc, s.cx) →
        (1 ≤ n → n ≤ 0x1F → inCtx fun y => y.g n = w ∧ (∀ r, r ≠ n → y.g r = t.g r) ∧ ∀ q ∈ y.pend, q.reg ≠ some n)
        ∧ (n = 0 → inCtx fun y => ∀ r, y.g r = t.g r)
        ∧ (0x20 ≤ n → n ≤ 0x2F → inCtx fun y => y.q (n - 0x1F) = w
            ∧ ∀ i, 1 ≤ i → i ≤ 16 → i ≠ n - 0x1F → y.q i = t.q i)
        ∧ (n = 0x30 → inCtx fun y => y.st = w &&& 0x7FFF0003FFFF03FF ∧ y.pc = t.pc)
        ∧ (n = 0x31 → inCtx (· = { t with pc := w.setWidth 52, frame := [], haltBack := 0 }))
        ∧ (n = 0x32 → inCtx fun y => y.vl = if 128 ≤ w.toNat then 128 else Nat.max 16 ((w.toNat + 15) / 16 * 16))
        ∧ (n = 0x36 → inCtx (· = { t with soft := t.soft || w.getLsbD 0, tpost := t.tpost || w.getLsbD 1 }))
        ∧ (n = 0x37 → inCtx (· = { t with trec := w })) ∧ (n = 0x38 → inCtx (· = { t with taddr := w }))
        ∧ (n = 0x39 → writes fun u => u.cur = me ∧ (u.core c).vsw = w.toNat % 8 ∧ (u.core c).ls = k.ls)
        ∧ (0x10000 ≤ n → n < 0x12000 → writes fun u => u.cur = me ∧ ∀ i,
            SMap.get 0 (u.core c).vec.v i = if i = n - 0x10000 then w.setWidth 32 else SMap.get 0 k.vec.v i)
        ∧ (0x12000 ≤ n → n < 0x12400 → writes fun u => u.cur = me ∧ ∀ i,
            SMap.get 0 (u.core c).vec.ix i = if i = n - 0x12000 then w.setWidth 6 else SMap.get 0 k.vec.ix i)
        ∧ (0x20000 ≤ n → n < 0x22000 → writes fun u => u.cur = me ∧ ∀ i,
            SMap.get 0 (u.core c).mat.acc i = if i = n - 0x20000 then w.setWidth 32 else SMap.get 0 k.mat.acc i)
        ∧ (0x100000 ≤ n → n + 8 ≤ 0x158000 → s.openRange c (n - 0x100000) 8 →
            writes fun u => u.cur = me ∧ HoldsBytes u c (n - 0x100000) (toBytes 8 w.toNat) ∧ OutsideSame s u c (n - 0x100000) 8)))
    ∧ (s.clear [a, b] → s.cur.stq.length < 64 →
      let addr := s.opnd b
      let saved := addr = 0xFFFFFFFFFFFFFFFF
      let bad := ¬ saved ∧ (addr.toNat % 4 ≠ 0 ∨ 2 ^ 52 ≤ addr.toNat)
      (¬ allowed → exec (.wres S d a b) s = .next (s.exact 92 0))
      ∧ (allowed → 10 < x → exec (.wres S d a b) s = .next (s.exact 93 0))
      ∧ (allowed → x ≤ 10 → (t.status ≠ .halted ∨ t.hk = 5) → exec (.wres S d a b) s = .next (s.exact 94 0))
      ∧ (allowed → x ≤ 10 → t.status = .halted → t.hk ≠ 5 → bad → exec (.wres S d a b) s = .next (s.exact 93 0))
      ∧ (allowed → x ≤ 10 → t.status = .halted → t.hk ≠ 5 → ¬ bad → (c, x) ≠ (s.cc, s.cx) →
          ∃ u, exec (.wres S d a b) s = .next u ∧ u.mem = s.mem ∧ pendingFor s.cur u.cur d id
            ∧ u.cur = { me with head := u.cur.head, pend := u.cur.pend }
            ∧ (let dest : BitVec 52 := if saved then t.pc else addr.setWidth 52
              u.ctxAt c x = { t with status := .running, hk := 0, frame := [], haltBack := 0, readyAt := s.now + 1
                                     pc := if dest = t.pc ∧ t.st.getLsbD 62 = true then dest - BitVec.ofNat 52 t.haltBack else dest })
            ∧ u.resps = SMap.put s.resps id { v := 0x8000000000000000 }))

/-- gen, tlbi and scrub wait until the context has no load and no store under way, are counted in ldc and make the superstep
unrepeatable; below their level they trap with cause 92.  gen turns the generation and takes over the space's registers, and no
translation and no watch of the space is left; tlbi drops what it names, and is answered then; scrub leaves what it names zero,
unless it is malformed or in use (spec/06_memory.md, spec/17_system.md).
The model's choices it rests on: log entries 23, 89, 92 and 128. -/
def Obligations.GenerationsTranslationsAndScrubs : Prop :=
  ∀ (s : State) (S : Stall) (d a b : Opnd),
    let id := s.nextId
    let idle := s.cur.ld = [] ∧ s.cur.stq = []
    let marked (t : State) : Prop := ∀ g i, s.groupKey s.cc = some (g, i) → (t.group g i).unr = true
    let own := s.part (s.actsFor s.cc)
    let allowed (asid : Nat) : Prop := s.level s.cc = 2 ∨ (s.level s.cc = 0 ∧ asid = s.asidOf s.cc)
      ∨ (s.level s.cc = 1 ∧ own.asb.toNat ≤ asid ∧ asid < own.asb.toNat + own.asn.toNat)
    (s.clear [a] →
      let asid := (s.opnd a).toNat % 65536
      let sp := s.space asid
      (¬ idle → exec (.gen S d a) s = .next s.hold)
      ∧ (idle → ¬ allowed asid → exec (.gen S d a) s = .next (s.exact 92 0))
      ∧ (idle → allowed asid → SMap.rising 0 s.cores = true →
          ∃ t, exec (.gen S d a) s = .next t ∧ Counted s t.cur S d id ∧ marked t
            ∧ (let n := t.space asid
              n.gen = (sp.gen + 1) % 65536 ∧ n.oldPtb = sp.ptb ∧ n.oldPct = sp.pct ∧ n.oldScb = sp.scb ∧ n.oldCtb = sp.ctb
                ∧ n.oldFwb = sp.fwb ∧ n.ptb = sp.ptb)
            ∧ (∀ c, (t.core c).tlb = (s.core c).tlb.filter (fun e => e.asid ≠ asid) ∧ (t.core c).ls = (s.core c).ls)
            ∧ (SMap.rising 0 s.watches = true → ∀ e ∈ t.watches, ∀ w ∈ e.2, w.asid ≠ asid)
            ∧ (∀ i r, (i, r) ∈ s.reqs → (r.asid ≠ asid ∨ r.gen ≠ sp.gen → (i, r) ∈ t.reqs)
                ∧ ((i, r) ∈ t.reqs ∨ (i, { r with gen := (sp.gen + 1) % 65536 }) ∈ t.reqs))
            ∧ ∃ g, t.genWaits = s.genWaits ++ [g] ∧ g.core = s.cc ∧ g.ctx = s.cx ∧ g.id = id
                ∧ g.v = BitVec.ofNat 64 ((sp.gen + 1) % 65536 + 2 ^ 63) ∧ (∀ i, i ∈ g.reqs ↔ ∃ r, (i, r) ∈ s.reqs ∧ r.asid = asid)
                ∧ (∀ i, i ∈ g.keyed ↔ ∃ r, (i, r) ∈ s.kreqs ∧ r.asid = asid)
                ∧ ∀ c i, (c, i) ∈ g.cmds ↔
                    ∃ q ∈ (s.core c).cmds, q.id = i ∧ q.asid = asid ∧ q.begun = true ∧ q.ended = false))
    ∧ (s.clear [a, b] →
      let va := (s.opnd a).toNat
      let v := (s.opnd b).toNat
      let asid := v % 65536
      let scope := v / 2 ^ 16 % 4
      let bad := scope = 3 ∨ 2 ^ 19 ≤ v
      (¬ idle → exec (.tlbi S d a b) s = .next s.hold)
      ∧ (idle → ¬ allowed asid → exec (.tlbi S d a b) s = .next (s.exact 92 0))
      ∧ (idle → allowed asid → bad → ∃ t, exec (.tlbi S d a b) s = .next t ∧ Alone s t ∧ Counted s t.cur S d id ∧ marked t
            ∧ Answered s t s.cc s.cx id { v := BitVec.ofNat 64 (2 ^ 16 + 2 ^ 63) })
      ∧ (idle → allowed asid → ¬ bad →
          ∃ t n, exec (.tlbi S d a b) s = .next t ∧ Alone s t ∧ Counted s t.cur S d id ∧ marked t ∧ t.resps = s.resps
            ∧ t.tlbWaits = s.tlbWaits ++ [⟨s.cc, s.cx, id, asid, va, v.testBit 18, scope, n⟩] ∧ s.now < n))
    ∧ (∀ w, s.tlbWaits = [w] → SMap.rising 0 s.cores = true →
      let t := s.tlbActs
      let reached (c : Nat) : Prop := (w.scope = 0 ∧ c = w.core) ∨ (w.scope = 1 ∧ dieOf c = dieOf w.core) ∨ w.scope = 2
      (s.now < w.due → t = s)
      ∧ (w.due ≤ s.now → t.tlbWaits = [] ∧ SMap.find t.resps w.id = some { v := BitVec.ofNat 64 (2 ^ 63) }
        ∧ (∃ p ∈ t.cal, p.ev = .resultArrival ∧ p.args = ⟨w.core, w.ctx, w.id, 0, []⟩)
        ∧ ∀ c, (t.core c).ls = (s.core c).ls
          ∧ (reached c → (t.core c).tlb = (s.core c).tlb.filter
              (fun e => ¬ (e.asid = w.asid ∧ (w.all = true ∨ (e.vpage ≤ w.va ∧ w.va < e.vpage + e.size)))))
          ∧ (¬ reached c → t.core c = s.core c)))
    ∧ (s.clear [a] →
      let i : Instr := .scrub S d a
      let v := (s.opnd a).toNat
      let first := if v % 4 = 0 then v / 2 ^ 2 % 2 ^ 11 else v / 2 ^ 2 % 2 ^ 7
      let count := if v % 4 = 0 then v / 2 ^ 13 % 2 ^ 11 + 1 else v / 2 ^ 9 % 2 ^ 7 + 1
      let base := v / 2 ^ 16 % 2 ^ 24
      let len := v / 2 ^ 40 % 2 ^ 24
      let inside (n : Nat) : Prop := first ≤ n ∧ n < first + count
      let answered (t : State) (sts : Nat) : Prop :=
        Counted s t.cur S d id ∧ marked t ∧ ∃ x, SMap.find t.resps id = some { v := x } ∧ x.toNat / 2 ^ 16 = 2 ^ 47 + sts
      let inUse := if v % 4 = 0 then ∃ e ∈ s.cores, inside e.1 ∧ e.2.gang ≠ none
        else ∃ e ∈ s.units, e.1 < 4096 ∧ inside (e.1 / 32)
      (¬ idle → exec i s = .next s.hold)
      ∧ (idle → s.level s.cc ≠ 2 → exec i s = .next (s.exact 92 0))
      ∧ (idle → s.level s.cc = 2 → s.curCore.gang ≠ none → SMap.rising 0 s.cores = true →
        let limit := if v % 4 = 0 then 2048 else 128
        (v % 4 < 2 → limit < first + count → ∃ t, exec i s = .next t ∧ Alone s t ∧ answered t 1)
        ∧ (v % 4 < 2 → first + count ≤ limit → inUse → ∃ t, exec i s = .next t ∧ Alone s t ∧ answered t 2)
        ∧ (v % 4 = 0 → first + count ≤ limit → ¬ inUse → ∃ t, exec i s = .next t ∧ answered t 0 ∧ t.mem = s.mem
            ∧ ∀ c, c ≠ s.cc → t.core c = if inside c then { vsw := (s.core c).vsw } else s.core c)
        ∧ (v % 4 = 1 → first + count ≤ limit → ¬ inUse → ∃ t, exec i s = .next t ∧ answered t 0
            ∧ (∀ y, t.gbyte y = if 2 ^ 40 ≤ y ∧ inside ((y - 2 ^ 40) / 65536 / 32) then 0 else s.gbyte y)
            ∧ ∀ c, c ≠ s.cc → t.core c = s.core c)
        ∧ (v % 4 = 2 → 2 ^ 23 < base + len → ∃ t, exec i s = .next t ∧ Alone s t ∧ answered t 1)
        ∧ (v % 4 = 2 → base + len ≤ 2 ^ 23 → ∃ t, exec i s = .next t ∧ answered t 0
            ∧ (∀ y, t.gbyte y = if 65536 * base ≤ y ∧ y < 65536 * (base + len) then 0 else s.gbyte y)
            ∧ ∀ c, c ≠ s.cc → t.core c = s.core c)
        ∧ (v % 4 = 3 → ∃ t, exec i s = .next t ∧ Alone s t ∧ answered t 2)))

/-- The events of the debug units change only what they name: a compare value that the time base reaches changes no state, TCMP
and IPEND are written, IPOST makes SOFT and TIMER pending, traces start and end, injections wait for their unit, a mismatch stops its context
and is counted, and the viral state halts every running context, once (spec/17_system.md).
The model's choices it rests on: log entries 91, 93, 94, 149 and 150. -/
def Obligations.DebugAndErrorEventsAct : Prop :=
  ∀ (s : State),
    let c := s.ev.a
    let x := s.ev.b
    let w := s.ev.w
    let t := s.ctxAt c x
    let k := s.core c
    let old : Trace := SMap.get {} s.traces c
    let trace (i : Instr) (y : Trace) : Prop := ∃ u, exec i s = .next u ∧ u = { s with traces := SMap.put s.traces c y }
    exec .timerCompare s = .next s
    ∧ (∃ u, exec .tcmpWrite s = .next u ∧ OnlyCtx s c x { t with tcmp := w, tpost := false } u)
    ∧ (∃ u, exec .ipendWrite s = .next u ∧ OnlyCtx s c x { t with soft := t.soft && !w.getLsbD 0 } u)
    ∧ (∃ u, exec .ipost s = .next u ∧ OnlyCtx s c x { t with soft := t.soft || w.getLsbD 0, tpost := t.tpost || w.getLsbD 1 } u)
    ∧ trace .traceStart { old with run := true, done := false, since := s.now, first := s.tb, recs := [] }
    ∧ trace .traceArm { old with run := false, done := false, recs := [] }
    ∧ (old.mode = 2 → trace .traceStamp { old with run := true, done := false, since := s.now, first := s.tb, recs := [] })
    ∧ (old.mode ≠ 2 → exec .traceStamp s = .next s)
    ∧ (∀ i ∈ [Instr.traceStop, Instr.traceEnd],
        (old.run = false → exec i s = .next s)
        ∧ (old.run = true → ∃ u, exec i s = .next u ∧ u.cores = s.cores
            ∧ SMap.get {} u.traces c = { old with run := false, done := true, recs := [] }))
    ∧ exec .injectScalar s = .next (s.setCore c { k with injS := true })
    ∧ exec .injectVector s = .next (s.setCore c { k with injV := true })
    ∧ exec .injectMatrix s = .next (s.setCore c { k with injM := true })
    ∧ (k.injS = false → exec .inOrderCheck s = .next s)
    ∧ (k.injS = true →
        ∃ u, exec .inOrderCheck s = .next u ∧ u.ctxAt c x = { t with wait := .checked } ∧ (u.core c).injS = false
          ∧ u.mism = Nat.min (s.mism + 1) 0xFFFFFFFF ∧ u.mem = s.mem ∧ (∀ y, y ≠ x → u.ctxAt c y = s.ctxAt c y)
          ∧ (∀ e, e ≠ c → u.core e = s.core e)
          ∧ u.cal = s.cal ++ [⟨s.now, 0, .uncorrectableError, ⟨c, 0, 0, 0, []⟩⟩])
    ∧ (s.viral = true → exec .viralEntry s = .next s)
    ∧ (s.viral = false → s.listedOnce →
        ∃ u, exec .viralEntry s = .next u ∧ u.viral = true ∧ u.virSrc = c ∧ u.virUnit = x ∧ Reported s u 0 0 15 c 10
          ∧ ∀ d y, (u.core d).ls = (s.core d).ls
            ∧ ((s.ctxAt d y).status ≠ .running → u.ctxAt d y = s.ctxAt d y)
            ∧ ((s.ctxAt d y).status = .running → (u.ctxAt d y).status = .halted ∧ (u.ctxAt d y).hk = 5
                ∧ (u.ctxAt d y).pc = (s.ctxAt d y).pc))

/-- A host's access moves bytes only inside the frames granted to its link, a read elsewhere sees all ones, and HDROP counts it; a
command that comes over a link of its partition is placed in the partition's ring where it is well formed and the ring has room,
else counted; a read of a ring sees its registers; a notify ring is registered where it is well formed (spec/18_boundaries.md).
The model's choices it rests on: log entries 96, 97 and 152. -/
def Obligations.HostAccessesAndCommands : Prop :=
  ∀ (s : State),
    let link := s.ev.a
    let data := s.ev.data
    let w := s.ev.w.toNat
    let out (t : State) (o : HostOut) : Prop := t = { s with md := { s.md with toHost := s.md.toHost ++ [o] } }
    (let kind := s.ev.b
      let n := if kind = 0 then s.ev.c else data.length
      let granted := w + n ≤ 2 ^ 39 ∧ (link, w / 2 ^ 21) ∈ s.md.grants ∧ (link, (w + n - 1) / 2 ^ 21) ∈ s.md.grants
      (s.viral = true → kind = 0 → ∃ t, exec .hostMemoryAccess s = .next t ∧ out t (.abort link))
      ∧ (s.viral = true → kind = 1 → exec .hostMemoryAccess s = .next s)
      ∧ (s.viral = false → kind = 0 → granted →
          ∃ t, exec .hostMemoryAccess s = .next t ∧ out t (.data link ((List.range n).map fun i => s.gbyte (w + i))))
      ∧ (s.viral = false → kind = 1 → granted →
          ∃ t, exec .hostMemoryAccess s = .next t ∧ t.cores = s.cores ∧ t.md = s.md
            ∧ ∀ y, t.gbyte y = if w ≤ y ∧ y < w + n then data.getD (y - w) 0 else s.gbyte y)
      ∧ (s.viral = false → kind < 2 → ¬ granted →
          ∃ t, exec .hostMemoryAccess s = .next t ∧ t.mem = s.mem ∧ t.cores = s.cores
            ∧ t.md.hdrop = Nat.min (s.md.hdrop + 1) (2 ^ 64 - 1)
            ∧ t.md.toHost = s.md.toHost ++ (if kind = 0 then [.data link (List.replicate n 0xFF)] else []))
      ∧ (kind = 2 → ∃ t bs, exec .hostMemoryAccess s = .next t ∧ out t (.data link bs) ∧ bs.length = s.ev.c
          ∧ ∀ i, i < s.ev.c → w + i < 8 → bs.getD i 0 = BitVec.ofNat 8 (s.dstat / 256 ^ (w + i))))
    ∧ (let base := Config.hostRegion (s.ev.b % 256)
      let off := s.ev.c
      let put := s.gread (base + 0x40) 8
      let full := s.gread (base + 0x48) 8 + 16 ≤ put
      let reached := s.md.bonded = true ∨ link % 2 = Config.linkOf (s.ev.b % 256) % 2
      let good := off = 0 ∧ data.length = 64 ∧ ofBytes (data.take 4) ≠ 0 ∧ ofBytes ((data.drop 6).take 2) = 0
        ∧ ofBytes (data.drop 48) = 0 ∧ s.md.tenant = false
      let added (t : State) (a : Nat) : Prop := t.cores = s.cores ∧ t.gread a 8 = (s.gread a 8 + 1) % 2 ^ 64
        ∧ ∀ y, y < a ∨ a + 8 ≤ y → t.gbyte y = s.gbyte y
      (0 < w → s.viral = true → ∃ t, exec .hostCommand s = .next t ∧ out t (.abort link))
      ∧ (¬ reached → w = 0 → exec .hostCommand s = .next s)
      ∧ (¬ reached → 0 < w → s.viral = false → ∃ t, exec .hostCommand s = .next t ∧ out t (.data link (List.replicate w 0)))
      ∧ (reached → 0 < w → s.viral = false → ∃ t, exec .hostCommand s = .next t ∧ out t (.data link ((List.range w).map fun i =>
            if 0x40 ≤ off + i ∧ off + i ≤ 0x4FF then s.gbyte (base + off + i) else 0)))
      ∧ (w = 0 → s.viral = true → exec .hostCommand s = .next s)
      ∧ (reached → w = 0 → s.viral = false → ¬ good → ∃ t, exec .hostCommand s = .next t ∧ added t (base + 0x50))
      ∧ (reached → w = 0 → s.viral = false → good → full → ∃ t, exec .hostCommand s = .next t ∧ added t (base + 0x58))
      ∧ (reached → w = 0 → s.viral = false → good → ¬ full →
          let slot := base + 0x100 + 64 * (put % 16)
          ∃ t, exec .hostCommand s = .next t ∧ t.cores = s.cores ∧ t.gread (base + 0x40) 8 = (put + 1) % 2 ^ 64
            ∧ (∀ i, i < 48 → t.gbyte (slot + i) = data.getD i 0) ∧ t.gread (slot + 48) 8 = s.tb % 2 ^ 64
            ∧ t.gbyte (slot + 56) = BitVec.ofNat 8 link
            ∧ ∀ y, (y < base + 0x40 ∨ base + 0x48 ≤ y) → (y < slot ∨ slot + 64 ≤ y) → t.gbyte y = s.gbyte y))
    ∧ (let n := s.ev.b
      let rings (t : State) (m : SMap Notify) : Prop := t = { s with md := { s.md with notify := m } }
      (w = 0 → ∃ t, exec .notifyRegister s = .next t ∧ rings t (SMap.del s.md.notify link))
      ∧ (w ≠ 0 → (link < 256 ∧ w % 64 = 0 ∧ 4 ≤ n ∧ n ≤ 16) →
          ∃ t, exec .notifyRegister s = .next t ∧ rings t (SMap.put s.md.notify link { addr := w, lg := n }))
      ∧ (w ≠ 0 → ¬ (link < 256 ∧ w % 64 = 0 ∧ 4 ≤ n ∧ n ≤ 16) → exec .notifyRegister s = .next s))

/-- A port accepts the flit that is next in order, and answers any other with a NAK and takes nothing of it; what the ACK of an accepted
one covers makes room for what waits; a data flit is acknowledged, and one for this device brings a request or an answer; the port
replays on a NAK or after 4 µs without progress, 64 times; then it is down, and what waits on it ends.  A lane that fails in use makes
it narrower and retrain, or takes it down where no width is left.  A request of another device performs in the address space bound to
its sender, or is refused with cause 17 or 18; a watch waits there.  No flit but a management one leaves a viral device
(spec/18_boundaries.md).
The model's choices it rests on: log entries 95, 96, 98, 131, 153, 164, 165 and 171. -/
def Obligations.PortsAndRemoteRequests : Prop :=
  ∀ (s : State),
    let p := s.ev.a
    let v := s.port p
    let data := s.ev.data
    let dead := v.down = true ∨ v.training = true
    let last := (v.rx + 4095) % 4096
    let sends (t : State) (fs : List Flit) : Prop := t.md.toPorts = s.md.toPorts ++ fs.map (PortOut.flit p)
    let control (typ ack : Nat) : Flit := { seq := v.tx, typ := typ, ack := ack, src := s.did }
    let same (t : State) : Prop := t.cores = s.cores ∧ t.mem = s.mem
    (let word := ofBytes (data.take 8)
      let seq := word % 2 ^ 12
      let typ := word / 2 ^ 12 % 2 ^ 4
      let ack := word / 2 ^ 16 % 2 ^ 12
      let vc := word / 2 ^ 28 % 2 ^ 2
      let mine := word / 2 ^ 32 % 2 ^ 9 = s.did
      let src := word / 2 ^ 41 % 2 ^ 9
      let pay := (data.drop 8).take 240
      let good := ofBytes ((data.drop 248).take 8) = Config.crc64 (data.take 248) % 2 ^ 64
      let covered := ∃ f ∈ v.sent, f.seq = ack
      let left := if v.sent.any fun f => f.seq == ack then (v.sent.dropWhile fun f => f.seq != ack).drop 1 else v.sent
      let gets (t : State) : Prop := exec .flitReceive s = .next t ∧ same t ∧ (t.port p).sent = left
      let brings (t : State) : Prop := exec .flitReceive s = .next t ∧ same t ∧ (t.port p).sent = left
        ∧ sends t [control 2 seq] ∧ (t.port p).rx = (v.rx + 1) % 4096
      ((dead ∨ data.length ≠ 256) → exec .flitReceive s = .next s)
      ∧ (¬ dead → data.length = 256 → ¬ (good ∧ seq = v.rx) →
          (s.viral = true → exec .flitReceive s = .next s)
          ∧ (s.viral = false → ∃ t, exec .flitReceive s = .next t ∧ same t ∧ sends t [control 3 last] ∧ t.port p = v))
      ∧ (¬ dead → data.length = 256 → good → seq = v.rx → v.queue = [] →
        (s.viral = true → typ = 1 → vc = 2 ∨ ¬ mine →
            ∃ t, exec .flitReceive s = .next t ∧ same t ∧ t.md.toPorts = s.md.toPorts ∧ (t.port p).rx = (v.rx + 1) % 4096)
        ∧ (s.viral = false →
          (typ = 1 → vc = 2 ∨ ¬ mine → ∃ t, brings t ∧ t.cal = s.cal ∧ t.resps = s.resps)
          ∧ (typ = 1 → mine → vc = 0 → SMap.get [] v.inbox src = ([] : List Byte) →
              (Config.payRequest pay = none → ∃ t, brings t ∧ t.cal = s.cal ∧ SMap.get [] (t.port p).inbox src = pay)
              ∧ ∀ part c a bs, Config.payRequest pay = some (part, c, a, bs) →
                ∃ t, brings t ∧ Goes s t .remoteRequest ⟨src, part, c, BitVec.ofNat 64 a, bs⟩ ∧ SMap.get [] (t.port p).inbox src = ([] : List Byte))
          ∧ (∀ tag part cause x r, typ = 1 → mine → vc = 1 → Config.payResponse pay = [2, tag, part, cause, x] →
              SMap.find s.reqs tag = some r → r.id = tag → r.remote = some src → r.left = 1 → r.obj = none →
              ∃ t, brings t ∧ SMap.find t.reqs tag = none
                ∧ SMap.find t.resps tag = some (if cause = 0 then { v := extend r.width r.signed (x % 2 ^ 64) } else { fault := some (r.lateFault cause) }))
          ∧ (typ ≠ 1 → typ ≠ 3 → ∃ t, gets t ∧ t.md.toPorts = s.md.toPorts ∧ (t.port p).rx = v.rx)
          ∧ (typ = 3 → left ≠ [] → (covered ∨ v.replays < 64) →
              ∃ t, gets t ∧ sends t (left.map fun f => { f with ack := last }))))
      ∧ (∀ f, ¬ dead → data.length = 256 → good → seq = v.rx → s.viral = false → typ = 2 → v.queue = [f] → left.length < 512 →
          let g := { f with seq := v.tx, typ := 1, ack := last, src := s.did }
          ∃ t, exec .flitReceive s = .next t ∧ same t ∧ sends t [g] ∧ (t.port p).sent = left ++ [g] ∧ (t.port p).queue = []
            ∧ (t.port p).tx = (v.tx + 1) % 4096))
    ∧ (((dead ∨ v.sent = []) → exec .replayTimeout s = .next s)
      ∧ (¬ dead → v.sent ≠ [] → s.tb < v.since + 4200 →
          ∃ t, exec .replayTimeout s = .next t ∧ same t ∧ t.md = s.md ∧ Goes s t .replayTimeout ⟨p, 0, 0, 0, []⟩)
      ∧ (¬ dead → v.sent ≠ [] → v.since + 4200 ≤ s.tb → s.viral = true → exec .replayTimeout s = .next s)
      ∧ (¬ dead → v.sent ≠ [] → v.since + 4200 ≤ s.tb → s.viral = false → v.replays < 64 →
          ∃ t, exec .replayTimeout s = .next t ∧ same t ∧ sends t (v.sent.map fun f => { f with ack := last })
            ∧ (t.port p).replays = v.replays + 1 ∧ (t.port p).sent = v.sent)
      ∧ (¬ dead → v.sent ≠ [] → v.since + 4200 ≤ s.tb → s.viral = false → 64 ≤ v.replays → s.xfers = [] →
          ∃ t, exec .replayTimeout s = .next t ∧ same t ∧ (t.port p).down = true ∧ (t.port p).sent = [] ∧ (t.port p).queue = []
            ∧ ∀ i r d, SMap.find s.reqs i = some r → r.left = 1 → r.remote = some d → portTo d = p →
                SMap.find t.reqs i = some { r with left := 2 }))
    ∧ (let lane := s.ev.b
      let used := v.lane ≤ lane % 16 ∧ lane % 16 < v.lane + v.width
      let failed := v.failed ||| 2 ^ (lane % 16)
      ((v.down = true ∨ ¬ used) → ∃ t, exec .laneFailure s = .next t ∧ same t ∧ t.port p = { v with failed := failed })
      ∧ (v.down = false → used → ∀ w first, widthFor failed = (w, first) → w ≠ 0 →
          ∃ t, exec .laneFailure s = .next t ∧ same t
            ∧ t.port p = { v with failed := failed, width := w, lane := first, training := true }
            ∧ ∃ q ∈ t.cal, q.ev = .portRetrainDone ∧ q.args = ⟨p, 0, 0, 0, []⟩)
      ∧ (v.down = false → used → (widthFor failed).1 = 0 → s.xfers = [] →
          ∃ t, exec .laneFailure s = .next t ∧ same t ∧ (t.port p).failed = failed ∧ (t.port p).down = true
            ∧ (t.port p).sent = [] ∧ (t.port p).queue = [])
      ∧ (∀ w first, widthFor (lane % 2 ^ 16) = (w, first) → w ≠ 0 →
          ∃ t, exec .portReset s = .next t ∧ same t ∧ (t.port p).width = w ∧ (t.port p).lane = first ∧ (t.port p).down = false
            ∧ (t.port p).training = true ∧ (t.port p).failed = lane % 2 ^ 16)
      ∧ (v.training = false → exec .portRetrainDone s = .next s)
      ∧ (v.training = true → v.sent = [] → v.queue = [] → ∃ t, exec .portRetrainDone s = .next t ∧ same t
          ∧ t.port p = { v with training := false, replays := 0, since := s.tb }))
    ∧ (let dev := s.ev.a
      let part := s.ev.b
      let q := Away.read s.ev.c data
      let a := s.ev.w.toNat
      let back := s.port (portTo dev)
      let room := back.queue = [] ∧ back.training = false ∧ back.sent.length < 512
      let need := if q.kind = 0 ∨ q.kind = 6 then 1 else if q.kind = 2 then 3 else 2
      let size := if q.kind = 6 then 8 else q.width
      let access := q.kind < 4 ∨ q.kind = 6
      let answers (t : State) (cause : Nat) (x : Word) : Prop :=
        let f : Flit := { vc := 1, dst := dev, pay := .answer q.tag part cause x }
        (room → t.md.toPorts = s.md.toPorts
            ++ [.flit (portTo dev) { f with seq := back.tx, ack := (back.rx + 4095) % 4096, src := s.did }])
          ∧ (¬ room → t.md.toPorts = s.md.toPorts ∧ (t.port (portTo dev)).queue = back.queue ++ [f])
      s.viral = false → back.down = false →
        (SMap.find s.md.bindings (dev * 2 ^ 16 + part) = none → access →
          ∃ t, exec .remoteRequest s = .next t ∧ same t ∧ answers t 18 0)
        ∧ ∀ b, SMap.find s.md.bindings (dev * 2 ^ 16 + part) = some b → access →
          (q.gen ≠ (s.space b.asid).gen → ∃ t, exec .remoteRequest s = .next t ∧ same t ∧ answers t 17 0)
          ∧ (∀ x, q.gen = (s.space b.asid).gen → s.xlateWalk b.asid (a % 2 ^ 42) need = .error x →
              ∃ t, exec .remoteRequest s = .next t ∧ same t ∧ answers t 18 0)
          ∧ ∀ pa u, q.gen = (s.space b.asid).gen → s.xlateWalk b.asid (a % 2 ^ 42) need = .ok (pa, u) →
            (∀ sl, ∀ w ∈ SMap.get [] s.watches sl, w.away = none) →
            ((2 ^ 40 ≤ pa ∨ a % size ≠ 0) → ∃ t, exec .remoteRequest s = .next t ∧ t.cores = s.cores ∧ answers t 18 0)
            ∧ (pa < 2 ^ 40 → a % size = 0 →
              let u := u.addCounts b.asid (a % 2 ^ 42 / 65536) (if need = 1 then (1, 0, 1) else (0, 1, 1))
              let old := u.gread pa q.width
              let puts (t : State) (x : Nat) : Prop :=
                t.cores = s.cores ∧ t.gread pa q.width = x % 256 ^ q.width ∧ ∀ y, y < pa ∨ pa + q.width ≤ y → t.gbyte y = u.gbyte y
              (q.kind = 0 → ∃ t, exec .remoteRequest s = .next t ∧ t.cores = s.cores ∧ t.mem = u.mem
                  ∧ answers t 0 (extend q.width q.signed old))
              ∧ (q.kind = 1 → ∃ t, exec .remoteRequest s = .next t ∧ puts t q.v ∧ answers t 0 0)
              ∧ (q.kind = 2 → atomicNew q.op q.width q.signed old q.v q.u ≠ old →
                  ∃ t, exec .remoteRequest s = .next t ∧ puts t (atomicNew q.op q.width q.signed old q.v q.u)
                    ∧ answers t 0 (extend q.width q.signed old))
              ∧ (q.kind = 3 → ∃ t, exec .remoteRequest s = .next t ∧ puts t (redNew q.op q.float q.width q.signed old q.v) ∧ answers t 0 0)
              ∧ (q.kind = 6 → u.gread pa 8 ≠ q.v → ∃ t, exec .remoteRequest s = .next t ∧ t.cores = s.cores ∧ t.mem = u.mem ∧ answers t 0 0)
              ∧ (q.kind = 6 → u.gread pa 8 = q.v → (SMap.get [] s.watches (homeOf pa)).length < 64 →
                  ∃ t, exec .remoteRequest s = .next t ∧ t.cores = s.cores ∧ t.mem = u.mem ∧ t.md.toPorts = s.md.toPorts
                    ∧ ∃ w ∈ SMap.get [] t.watches (homeOf pa), w.away = some (dev, part) ∧ w.id = q.tag ∧ w.pa = pa)))

/-- A sample of power and temperature steps the clock down by 35 MHz above a limit or from 105 °C on, up again after 1 ms below 95 % of
the limit, and records each step; at 115 °C it has the rails removed too; a limit from 800 to 2,000 W is taken, and one below the
present power steps the clock down then and at the samples that follow; a scrub pass enters the positions it corrected in 16 distinct
lines, two to a rank, and reports a third (spec/18_boundaries.md).
The model's choices it rests on: log entries 99, 100, 101, 108 and 166. -/
def Obligations.PowerAndMemoryManagement : Prop :=
  ∀ (s : State),
    let m := s.md
    let power := s.freeN 0 % 2 ^ 32
    let temp := s.freeN 1
    let lowered := m.lowered = true ∧ m.plim * 1000 ≤ power
    let down := 105 ≤ temp ∨ lowered ∨ m.plim * 1000 < power
    let low := power * 100 < 95 * m.plim * 1000
    let event (before after power cause : Nat) : List Byte :=
      toBytes 8 s.tb ++ toBytes 2 before ++ toBytes 2 after ++ toBytes 4 power ++ toBytes 1 cause ++ List.replicate 15 0
    let recorded (t : State) (e : List Byte) : Prop :=
      t.md.events = (e :: m.events).take 256 ∧ t.md.eventCount = m.eventCount + 1
    let still (t : State) : Prop := t.clk = s.clk ∧ t.md.events = m.events ∧ t.md.eventCount = m.eventCount
    let clock := 1050 - 35 * s.clk
    (∃ t, exec .powerSample s = .next t ∧ t.cores = s.cores ∧ t.mem = s.mem ∧ t.md.power = power
        ∧ t.md.trip = (m.trip || decide (115 ≤ temp)) ∧ (∃ p ∈ t.cal, p.ev = .powerSample)
        ∧ t.md.lowSince = (if low then some (m.lowSince.getD s.tb) else none) ∧ (t.md.lowered = true ↔ lowered)
        ∧ (m.trip = true → still t)
        ∧ (m.trip = false →
          (down → s.clk < 15 →
            t.clk = s.clk + 1 ∧ recorded t (event clock (clock - 35) power (if 105 ≤ temp then 3 else if lowered then 4 else 1)))
          ∧ (down → 15 ≤ s.clk → still t)
          ∧ (¬ down → (¬ low ∨ s.tb < m.lowSince.getD s.tb + 1050000 ∨ s.clk = 0) → still t)
          ∧ (¬ down → low → m.lowSince.getD s.tb + 1050000 ≤ s.tb → s.clk ≠ 0 →
            t.clk = s.clk - 1 ∧ recorded t (event clock (clock + 35) power 2))))
    ∧ (let w := s.ev.w.toNat
      let below := w * 1000 < m.power
      ((800 ≤ w ∧ w ≤ 2000) → ∃ t, exec .plimWrite s = .next t ∧ t.cores = s.cores ∧ t.mem = s.mem ∧ t.md.plim = w
          ∧ (t.md.lowered = true ↔ below)
          ∧ ((¬ below ∨ m.trip = true ∨ 15 ≤ s.clk) → still t)
          ∧ (below → m.trip = false → s.clk < 15 → t.clk = s.clk + 1 ∧ recorded t (event clock (clock - 35) m.power 4)))
      ∧ (¬ (800 ≤ w ∧ w ≤ 2000) → exec .plimWrite s = .next s))
    ∧ (let rank := 8 * s.ev.a + s.ev.b % 8
      let table : List Nat := SMap.get [] m.repair rank
      let corrected (p line : Nat) : Prop := ∃ i, 9 * i + 9 ≤ s.ev.data.length
        ∧ ofBytes ((s.ev.data.drop (9 * i)).take 8) = line ∧ ofBytes ((s.ev.data.drop (9 * i + 8)).take 1) = p
      let often (p : Nat) : Prop := p < 68 ∧ ∃ lines : List Nat, lines.Nodup ∧ lines.length = 16 ∧ ∀ l ∈ lines, corrected p l
      ∃ t, exec .hbmScrubPass s = .next t ∧ t.mem = s.mem ∧ t.cores = s.cores
        ∧ (∀ r, r ≠ rank → SMap.get [] t.md.repair r = (SMap.get [] m.repair r : List Nat))
        ∧ (table.length ≤ 2 → (SMap.get [] t.md.repair rank : List Nat).length ≤ 2)
        ∧ table <+: SMap.get [] t.md.repair rank
        ∧ (∀ p, often p → p ∈ (SMap.get [] t.md.repair rank : List Nat) ∨ (rank, p) ∈ t.md.third)
        ∧ ∀ p ∈ (SMap.get [] t.md.repair rank : List Nat), p ∉ table → often p)

/-- The start-up takes its steps in order, each by the method its boot record asks for, and ends with the module ready; a step that
fails and may not be skipped makes the start fail, with a reset to follow, and so does a start without a host link; images that do
not verify are not taken, and a port comes up at the width its lanes allow.  A reset leaves the state of State.reset but for what it
keeps; pins are written; a quote follows its nonce; a change of tenant kills, frees, scrubs, checks and ends ready, and none starts
while one runs or once the module has failed (spec/18_boundaries.md).
The model's choices it rests on: log entries 102, 103, 104, 113, 151, 167, 168 and 170. -/
def Obligations.StartUpResetsAndTenants : Prop :=
  ∀ (s : State),
    let m := s.md
    let boots (t : State) (k phase : Nat) : Prop :=
      ∃ p ∈ t.cal, p.ev = .startUp ∧ p.args = ⟨k, phase, 0, 0, []⟩ ∧ s.now < p.due
    let same (t : State) : Prop := t.cores = s.cores ∧ t.mem = s.mem
    let verified (slot : Nat) : Prop :=
      ∀ i ∈ (SMap.get [{}] m.images slot : List Image), Config.signed m.rootKey i.bytes = true ∧ m.minVersion ≤ i.version
    (let k := if s.ev.a = 0 then 1 else s.ev.a
      let e : Nat := SMap.get 0 m.boot k
      let now (t : State) : Nat := SMap.get 0 t.md.boot k
      let mayskip := 7 ≤ k ∧ k ≤ 10
      let pinned := k ≠ 12 ∧ e / 2 ^ 4 % 2 = 1
      let failed := k ≠ 12 ∧ ¬ pinned ∧ (e % 8 = 1 ∨ e % 8 = 3)
      let skip := failed ∧ e / 2 ^ 3 % 2 = 1 ∧ mayskip
      let alternate := (pinned ∧ e / 2 ^ 5 % 2 = 1) ∨ (failed ∧ e / 2 ^ 3 % 2 = 0)
      let kept := m.warm = true ∧ 8 ≤ k ∧ k ≤ 10 ∧ e % 8 = 2
      let other := (SMap.get 0 m.boot 8 : Nat) % 8 = 2
      let alt := e / 2 ^ 3 % 2 = 1
      let able := (k = 2 → verified (if alt then 1 else 0)) ∧ (k = 10 → alt ∨ ∀ p < 16, (s.port p).failed = 0)
      let good := s.freeB 1 = true ∧ able
      let ends (t : State) : Prop := t.md.failed = true ∧ ∃ p ∈ t.cal, p.ev = .startFailedReset
      e < 2 ^ 64 →
      (s.ev.b = 0 → kept → ∃ t, exec .startUp s = .next t ∧ same t ∧ now t = e ∧ t.md.ports = m.ports ∧ boots t (k + 1) 0)
      ∧ (s.ev.b = 0 → k = 1 → ∃ t, exec .startUp s = .next t ∧ t.did = (if m.warm then s.did else Config.device m.starts % 320)
          ∧ t.md.bonded = Config.bonded m.options)
      ∧ (s.ev.b = 0 → ¬ skip → ¬ kept →
        ∃ t, exec .startUp s = .next t ∧ same t ∧ t.md.step = k ∧ t.md.ready = false ∧ boots t k 1 ∧ now t % 8 = 1
          ∧ now t / 2 ^ 3 % 2 = (if alternate then 1 else 0) ∧ now t / 2 ^ 8 % 2 ^ 8 = Nat.min 255 (e / 2 ^ 8 % 2 ^ 8 + 1)
          ∧ t.md.starts = if k = 1 then m.starts + 1 else m.starts)
      ∧ (s.ev.b = 0 → skip → ∃ t, exec .startUp s = .next t ∧ same t ∧ now t % 8 = 4
          ∧ (k ≠ 9 ∨ other → boots t (k + 1) 0) ∧ (k = 9 → ¬ other → ends t))
      ∧ (s.ev.b = 1 → good → k < 12 → ∃ t, exec .startUp s = .next t ∧ same t ∧ now t % 8 = 2 ∧ boots t (k + 1) 0
          ∧ (k = 2 → t.md.slot = if alt then 1 else 0) ∧ (k = 7 → ¬ alt → t.md.repair = [])
          ∧ (k = 10 → ∀ p < 16, let w := widthFor (s.port p).failed
              ((t.port p).down = true ↔ w.1 = 0) ∧ (t.port p).training = false ∧ (w.1 ≠ 0 → (t.port p).width = w.1 ∧ (t.port p).lane = w.2)))
      ∧ (s.ev.b = 1 → good → k = 12 → ∃ t, exec .startUp s = .next t ∧ same t ∧ t.md.ready = true)
      ∧ (s.ev.b = 1 → ¬ good → ¬ mayskip → ∃ t, exec .startUp s = .next t ∧ same t ∧ now t % 8 = 3 ∧ ends t ∧ t.md.ports = m.ports)
      ∧ (s.ev.b = 1 → ¬ good → mayskip → ∃ t, exec .startUp s = .next t ∧ same t ∧ now t % 8 = 3 ∧ t.md.ports = m.ports
          ∧ (k ≠ 9 ∨ other → boots t (k + 1) 0) ∧ (k = 9 → ¬ other → ends t)))
    ∧ (let again (t : State) : Prop :=
        t.cores = State.reset.cores ∧ t.mem = State.reset.mem ∧ t.parts = State.reset.parts ∧ t.gangs = State.reset.gangs
          ∧ t.viral = false ∧ t.clk = 0 ∧ t.md.ready = false ∧ t.md.trip = false ∧ t.md.boot = m.boot ∧ t.md.starts = m.starts
          ∧ t.md.repair = m.repair ∧ t.md.images = m.images ∧ t.md.rootKey = m.rootKey ∧ t.md.minVersion = m.minVersion
          ∧ t.md.tenantSts = m.tenantSts ∧ t.md.tenantErrs = m.tenantErrs ∧ t.md.tenantTest = m.tenantTest
      let cold (t : State) : Prop :=
        again t ∧ t.cal = [⟨s.now + 1, 0, .startUp, {}⟩] ∧ ∀ p, (t.port p).failed = (s.port p).failed ∧ (t.port p).down = true
      (∃ t, exec .coldReset s = .next t ∧ cold t)
      ∧ (m.trip = true → exec .warmReset s = .next s)
      ∧ (m.trip = false → ∃ t, exec .warmReset s = .next t ∧ again t ∧ t.did = s.did ∧ t.md.warm = true
          ∧ ⟨s.now + 1, 0, .startUp, {}⟩ ∈ t.cal ∧ ∀ p, t.port p = { s.port p with since := (t.port p).since })
      ∧ (m.failed = true → ∃ t, exec .startFailedReset s = .next t ∧ cold t)
      ∧ (m.failed = false → exec .startFailedReset s = .next s))
    ∧ (let k := s.ev.a
      let e : Nat := SMap.get 0 m.boot k
      ((1 ≤ k ∧ k ≤ 12) → ∃ t, exec .bootRecordPinWrite s = .next t ∧ same t
          ∧ (∀ j, j ≠ k → SMap.get 0 t.md.boot j = (SMap.get 0 m.boot j : Nat))
          ∧ (e < 2 ^ 64 → (SMap.get 0 t.md.boot k : Nat) =
              e % 2 ^ 4 + 2 ^ 4 * (s.ev.b % 2) + 2 ^ 5 * (s.ev.c % 2) + 2 ^ 6 * (e / 2 ^ 6)))
      ∧ (¬ (1 ≤ k ∧ k ≤ 12) → exec .bootRecordPinWrite s = .next s))
    ∧ (let nonce := s.ev.data
      let off := s.ev.w.toNat
      (s.ev.c ≠ 1 → s.ev.b = 1 → ∃ t, exec .quoteRequest s = .next t ∧ same t ∧ t.md = { m with attest := t.md.attest }
          ∧ ∀ i, i < 2 ^ 20 → t.md.attest.getD i 0 =
              if off ≤ i ∧ i < off + nonce.length then nonce.getD (i - off) 0 else m.attest.getD i 0)
      ∧ (s.ev.c ≠ 1 → s.ev.b ≠ 1 → nonce.length ≠ 32 → exec .quoteRequest s = .next s)
      ∧ (nonce.length = 32 → s.ev.c ≠ 1 → s.ev.b ≠ 1 → ∃ t, exec .quoteRequest s = .next t ∧ same t
          ∧ t.md = { m with attest := t.md.attest } ∧ nonce <+: t.md.attest
          ∧ ∃ p ∈ t.cal, p.ev = .quoteRequest ∧ p.args = ⟨0, 0, 1, 0, nonce⟩)
      ∧ (nonce.length = 32 → s.ev.c = 1 → ∃ t, exec .quoteRequest s = .next t ∧ same t
          ∧ t.md = { m with attest := t.md.attest }
          ∧ (let digests := (SMap.get [{}] m.images m.slot : List Image).flatMap fun i => (List.range 64).map (Config.digestByte i.bytes)
            (nonce ++ digests ++ m.bootRecord ++ toBytes 8 m.starts ++ toBytes 8 s.tb ++ toBytes 4 m.tenantSts ++ toBytes 4 m.tenantErrs
              ++ toBytes 8 m.tenantTest).take 0x100000 <+: t.md.attest)))
    ∧ (let i : Instr := .tenantChange
      let next (t : State) (k : Nat) : Prop := ∃ p ∈ t.cal, p.ev = i ∧ p.args = ⟨k, 0, 0, 1, []⟩
      let killed (t : State) : Prop := ∀ g ∈ s.gangs, g.2.fail = false → ∃ p ∈ t.cal, p.ev = .kill ∧ p.args = ⟨g.1, 0, 0, 0, []⟩
      let stage := s.ev.a
      (s.ev.w ≠ 1 → exec i s = .next s)
      ∧ (s.ev.w = 1 →
        (stage = 0 → (m.tenant = true ∨ m.failed = true) → exec i s = .next s)
        ∧ (stage = 0 → m.tenant = false → m.failed = false →
            ∃ t, exec i s = .next t ∧ same t ∧ t.md.ready = false ∧ t.md.tenant = true ∧ next t 1 ∧ killed t)
        ∧ (stage = 1 → s.gangs ≠ [] → ∃ t, exec i s = .next t ∧ same t ∧ next t 1 ∧ killed t ∧ ∀ e ∈ t.sched, e.2.stage ≠ .waiting)
        ∧ (stage = 1 → s.gangs = [] → s.units = [] → ∃ t, exec i s = .next t ∧ same t ∧ next t 2)
        ∧ (stage = 2 → ∃ t, exec i s = .next t ∧ next t 3 ∧ t.arrays = [] ∧ t.maps = [] ∧ t.versions = []
            ∧ (∀ c, (t.core c).ls = [] ∧ (t.core c).ctxs = [] ∧ (t.core c).vec = {} ∧ (t.core c).mat = {})
            ∧ (∀ y, 2 ^ 40 ≤ y → y < 2 ^ 40 + 128 * 32 * 65536 → t.gbyte y = 0)
            ∧ ∀ y, y < 2 ^ 40 →
              ((∃ p < 256, Config.hostRegion p + 0x40000 ≤ y ∧ y < Config.hostRegion p + 0x80000) → t.gbyte y = s.gbyte y)
              ∧ ((∀ p < 256, ¬ (Config.hostRegion p + 0x40000 ≤ y ∧ y < Config.hostRegion p + 0x80000)) → t.gbyte y = 0))
        ∧ (stage = 3 → ∃ t, exec i s = .next t ∧ next t 4 ∧ t.cores = s.cores ∧ t.md.notify = [] ∧ t.md.grants = []
            ∧ t.md.bindings = []
            ∧ ∀ y, ((∃ p < 256, Config.hostRegion p ≤ y ∧ y < Config.hostRegion p + 0x80000) → t.gbyte y = 0)
              ∧ ((∀ p < 256, ¬ (Config.hostRegion p ≤ y ∧ y < Config.hostRegion p + 0x80000)) → t.gbyte y = s.gbyte y))
        ∧ ((stage = 4 ∨ stage = 5) → ∃ t, exec i s = .next t ∧ same t ∧ t.md.ready = m.ready
            ∧ (s.freeB 1 = true → (stage = 4 → verified m.slot) → next t (stage + 1))
            ∧ ((s.freeB 1 = false ∨ (stage = 4 ∧ ¬ verified m.slot)) → t.md.failed = true)
            ∧ (stage = 5 → t.md.tenantTest = if s.freeB 1 then 1 else 0))
        ∧ (5 < stage → ∃ t, exec i s = .next t ∧ same t ∧ t.md.ready = true ∧ t.md.tenant = false)))

/-! ### Encoding, the step, reset and the whole machine -/

/-- Reading back the word of a well-formed instruction gives that instruction, every operand at every value; and a word that is
read as an instruction is that instruction's only word (spec/02_encoding.md).
The model's choices it rests on: log entry 176. -/
def Obligations.DecodingAndEncodingAgree : Prop :=
  (∀ (i : Instr) (w : Code), i.WellFormed = true → encode i = some w → decode w = .instr i)
  ∧ ∀ (i : Instr) (w : Code), decode w = .instr i → i.WellFormed = true ∧ encode i = some w

/-- The words that the spec writes out decode to what it says they stand for, byte by byte, lowest first; two illegal ones are
refused with their causes (spec/02_encoding.md, spec/04_scalar.md to spec/07_atomics.md). -/
def Obligations.WordsOfTheSpecDecode : Prop :=
  decode 0x40058140 = .instr (.add 2 5 0x20 0x14)
  ∧ decode 0x01030FFF = .instr (.addi 0 3 3 0x3FF)
  ∧ decode 0x04C403FD = .instr (.bcLt 0 4 0 0x3FD)
  ∧ decode 0x02C18000 = .instr (.li 0 1 0x8000)
  ∧ decode 0x007F1C0B = .instr (.mov 0 0x3F 7)
  ∧ decode 0x05E00000 = .instr (.j 0 0x200000)
  ∧ decode 0x1FD146C0 = .instr (.pfx 0 0x11 0x11 0xB 0)
  ∧ decode 0x0CC3C898 = .instr (.vfma 0 3 50 9 1)
  ∧ decode 0x1FA02806 = .instr (.rpt 0 4 0 5 3)
  ∧ decode 0x06C51879 = .instr (.fma 0 5 6 7)
  ∧ decode 0x09C41943 = .instr (.ldgx 0 4 6 3)
  ∧ decode 0x09CA2C0D = .instr (.lsr 0 10 11 1 5)
  ∧ decode 0x0A0319F6 = .instr (.acas 0 3 6 3 3 0)
  ∧ decode 0x06800000 = .instr (.stall 0 0)
  ∧ decode 0x00C00000 = .illegal .reservedMajor
  ∧ decode 0xFFFFFFFF = .illegal .reservedBit
  ∧ decodeBytes [0x40, 0x81, 0x05, 0x40, 0x2A] = some (.instr (.add 2 5 0x20 0x14), [0x2A])

/-- A step runs the event that is due, with its operands; where none is, the first core with something to do gives its first ready
context the cycle, and the step is exec of the instruction that its word decodes to, or of the halt of an illegal word, at the state
with that word latched (spec/01_machine.md, spec/04_scalar.md).
The model's choices it rests on: log entry 7. -/
def Obligations.StepRunsTheDecodedInstruction : Prop :=
  ∀ (s : State), s.md.trip = false →
    (∀ i t, s.dueEvent = some (i, t) → step s = exec i t)
    ∧ ∀ (before after : SMap CoreState) (c x : Nat) (k : CoreState) (w : Code), s.dueEvent = none →
      s.cores = before ++ (c, k) :: after → (∀ e ∈ before, e.1 < s.scan ∨ s.coreTurn e.1 e.2 = none) → s.scan ≤ c →
      s.routineAbsent c = false → s.stopped c = false → (∀ e ∈ k.ctxs, (k.ctx e.1).lateDue = false) → s.routineReady c = false →
      (∀ e ∈ k.ctxs, s.interruptDue c e.1 = false) → k.nextReady s.now = some x →
      let t := k.ctx x
      let u := s.grant c x w
      (∀ d y pl m n ws, t.wait ≠ .tile d y pl m n ws) → ¬ (x = 0 ∧ t.rt = true ∧ 2047 ≤ k.rcount) → k.injS = false →
      s.ctxAt c x = t →
      ((t.inFrame = false ∧ ({ s with cc := c, cx := x } : State).fetchAt c t.pc = .code w)
        ∨ (t.inFrame = true ∧ t.frame ≠ [] ∧ w = staggered t.frameRpt (t.frame.getD t.rfWord 0) t.rfPass)) →
      (∀ i, decode w = .instr i → step s = exec i u)
      ∧ (∀ f, decode w = .illegal f → step s = exec .illegalWordHalt { u with ev := ⟨f.code, 0, 0, w.zeroExtend 64, []⟩ })
      ∧ u.cc = c ∧ u.cx = x ∧ u.code = w ∧ u.scan = c + 1 ∧ u.mem = s.mem ∧ u.ctxAt c x = t

/-- A core gives its cycle to the first ready context at or after its pointer, which then moves to the context after it; a context that is
not running, waits, or is held back by a stall count, is never ready.  A word that an interlock or a full queue holds back at its issue
(the statements of each word say where exec answers State.hold) gives the cycle back: the pointer is where it was, the context is not
ready again in this cycle and nothing else has changed, so the core gives the cycle to the next ready one (R18, R65).
The model's choices it rests on: log entries 7 and 116. -/
def Obligations.CoresIssueRoundRobin : Prop :=
  ∀ (s : State) (c : Nat) (k : CoreState),
    let ready (x : Nat) : Prop := (k.ctx x).couldIssue s.now = true ∨ (k.ctx x).expanding s.now = true
    (∀ x, k.nextReady s.now = some x ↔
      ∃ n, n ≤ 10 ∧ x = (k.rr + n) % 11 ∧ ready x ∧ ∀ m, m < n → ¬ ready ((k.rr + m) % 11))
    ∧ (k.nextReady s.now = none ↔ ∀ x, x ≤ 10 → ¬ ready x)
    ∧ (∀ x, ready x → (k.ctx x).status = .running ∧ (k.ctx x).readyAt ≤ s.now
        ∧ ((k.ctx x).wait = .none ∨ ∃ d y pl m n ws, (k.ctx x).wait = .tile d y pl m n ws))
    ∧ (s.routineAbsent c = false → s.stopped c = false → (∀ e ∈ k.ctxs, (k.ctx e.1).lateDue = false) → s.routineReady c = false →
        (∀ e ∈ k.ctxs, s.interruptDue c e.1 = false) →
        (∀ x, k.nextReady s.now = some x → s.coreTurn c k = some (s.wordTurn c x k))
        ∧ (k.nextReady s.now = none → s.coreTurn c k = none))
    ∧ (∀ x w, x ≤ 10 → ((s.grant c x w).core c).rr = (x + 1) % 11 ∧ (s.grant c x w).scan = c + 1)
    ∧ (∀ x w, x ≤ 10 →
        let u := (s.grant c x w).hold
        u.scan = c ∧ (u.core c).rr = (s.core c).rr ∧ (u.core c).nextReady s.now ≠ some x ∧ u.now = s.now ∧ u.mem = s.mem
          ∧ u.ctxAt c x = { s.ctxAt c x with readyAt := s.now + 1 } ∧ (∀ y, y ≠ x → u.ctxAt c y = s.ctxAt c y)
          ∧ ∀ e, e ≠ c → u.core e = s.core e)
    ∧ (∀ (S : Stall) (d a b : Opnd), s.cur.prefixed = false → s.inExchange = false →
        (s.now < s.curCore.rootAt → exec (.fdiv S d a b) s = .next s.hold)
        ∧ (16 ≤ s.curCore.vec.q.length → exec (.vand S d a b 0) s = .next s.hold))
    ∧ ∀ (before after : SMap CoreState), s.md.trip = false → s.dueEvent = none → s.cores = before ++ (c, k) :: after →
        (∀ e ∈ before, e.1 < s.scan ∨ s.coreTurn e.1 e.2 = none) → s.scan ≤ c → s.coreTurn c k = none →
        (∀ e ∈ after, s.coreTurn e.1 e.2 = none) → step s = .next s.tick

/-- R45: br tests its operand, a signed value, against zero under the condition in field b; a reserved condition is illegal. -/
def Obligations.BranchConditionsAgainstZero : Prop :=
  (∀ (s : State) (S : Stall) (a c : Opnd) (o : BitVec 10), s.clear [a] →
    let x := (s.opnd a).toInt
    let taken : Prop := (c.toNat = 0 ∧ x = 0) ∨ (c.toNat = 1 ∧ x ≠ 0) ∨ (c.toNat = 2 ∧ x < 0) ∨ (c.toNat = 3 ∧ x ≤ 0)
      ∨ (c.toNat = 4 ∧ x > 0) ∨ (c.toNat = 5 ∧ x ≥ 0)
    c.toNat ≤ 5 → ∃ t, exec (.br S a c o) s = .next t
      ∧ (taken → OnlyCur s (s.cur.jumped (BitVec.ofInt 52 (s.cur.pc.toNat + 4 * o.toInt)) s.now S) 0 t)
      ∧ (¬ taken → OnlyCur s (s.cur.issued s.now S) 0 t))
  ∧ ∀ w : Code, w.toNat / 2 ^ 22 % 2 ^ 7 = 0x10 → 6 ≤ w.toNat / 2 ^ 10 % 2 ^ 6 → decode w = .illegal .reservedValue

/-- Reset leaves what the spec gives: no core runs a gang, every context is free and holds what a context holds as it starts, memory holds nothing, no facet window, every octant in every set, not viral, full clock, the limit at
2,000 W, not ready, and the start-up sequence due; the memories are in canonical form (spec/04_scalar.md, spec/16_launch.md to
spec/18_boundaries.md; that contexts hold these values before they start is the model's choice, log entry 3).
The model's choices it rests on: log entries 3, 4, 6 and 113. -/
def Obligations.ResetLeaves : Prop :=
  let s := State.reset
  s.canonical
  ∧ (∀ c, (s.core c).gang = none ∧ (s.core c).ls = [] ∧ ∀ x,
      let t := s.ctxAt c x
      t.status = .free ∧ (∀ n, t.g n = 0) ∧ (∀ k, t.q k = 0) ∧ t.head = 0 ∧ t.pend = [] ∧ t.st = 0x100 ∧ t.vl = 128 ∧ t.ld = [] ∧ t.stq = []
        ∧ t.enc = 0 ∧ t.mbc = 0 ∧ t.vqc = 0 ∧ t.ien = 0 ∧ t.tcmp = 0 ∧ t.soft = false ∧ t.ih = false)
  ∧ (∀ a, (s.space a).fwb = 0)
  ∧ (∀ p, (s.part p).pom0 = 0xFFFFFFFFFFFFFFFF ∧ (s.part p).pom1 = 0xFFFFFFFFFFFFFFFF
      ∧ (s.part p).pom2 = 0xFFFFFFFFFFFFFFFF ∧ (s.part p).pom3 = 0xFFFFFFFFFFFFFFFF)
  ∧ s.gangs = [] ∧ s.units = [] ∧ s.viral = false ∧ s.clock = 1050 ∧ s.md.plim = 2000 ∧ s.md.ready = false ∧ s.md.trip = false
  ∧ step s = exec .startUp { s with cal := [] }

/-- Whatever a step does, global memory, every local store and every store saved with a gang that is out stay in canonical form, so
that memories that read alike are equal.
The model's choices it rests on: log entry 6. -/
def Obligations.StepKeepsMemoriesCanonical : Prop :=
  ∀ (s t : State), s.canonical → step s = .next t → t.canonical

/-- No word of a core of level 0 changes a translation register of an address space, a partition's registers, a trace unit, what is
injected, the viral state, the module beyond the cores but for what its ports hold and send, or another core's registers and trap
vector (spec/17_system.md). -/
def Obligations.LevelZeroLeavesPrivilegedState : Prop :=
  ∀ (i : Instr) (s t : State), encode i ≠ none → s.level s.cc = 0 → exec i s = .next t →
    (∀ a, (t.space a).ptb = (s.space a).ptb ∧ (t.space a).pct = (s.space a).pct ∧ (t.space a).scb = (s.space a).scb
      ∧ (t.space a).ctb = (s.space a).ctb ∧ (t.space a).fwb = (s.space a).fwb)
    ∧ (∀ p, { t.part p with written := 0, lost := 0 } = { s.part p with written := 0, lost := 0 })
    ∧ t.traces = s.traces ∧ t.viral = s.viral ∧ t.chkCore = s.chkCore
    ∧ { t.md with ports := s.md.ports, toPorts := s.md.toPorts } = s.md
    ∧ (∀ c, (t.core c).vsw = (s.core c).vsw ∧ (t.core c).injS = (s.core c).injS ∧ (t.core c).gang = (s.core c).gang)
    ∧ ∀ c, c ≠ s.cc → (t.core c).ctxs = (s.core c).ctxs ∧ (t.core c).tvec = (s.core c).tvec ∧ (t.core c).tfa = (s.core c).tfa

/-! ### Completion -/

/-- stall, pfx, red, barm and bwait complete, the pc on the next word, where nothing holds them back: no prefix is latched for a word
that takes none, no operand with st.SB set is still pending, the count they raise has room, the address may be accessed and is
translated, and the barrier object is one.  Every event of the machine's own units completes, under conditions on the state and its
operands: what arrives at a slice, at a context, at a lane group, at the matrix unit, in the keyed space and at an engine is taken
there, a held release leaves, a walk ends and an expanded step of an mtile issues, and what each does first of all is said
(spec/04_scalar.md, spec/06_memory.md to spec/12_planecast.md).
The model's choices it rests on: log entries 10, 27, 52, 53, 138 and 159. -/
def Obligations.BarrierWordsAndUnitEventsComplete : Prop :=
  (∀ (s : State) (S : Stall) (d a p : Opnd) (n : BitVec 16) (fa fb : BitVec 6) (fd : BitVec 4) (ro : BitVec 2)
      (x : BitVec 4) (o : BitVec 2) (c : BitVec 3),
    let next := s.cur.issued s.now S
    let addr := (s.opnd a).toNat
    let done (i : Instr) (post : State → Prop) : Prop := ∃ t, exec i s = .next t ∧ t.cur.pc = next.pc ∧ post t
    (s.clear [] → done (.stall S n) fun t => t.cur.readyAt = next.readyAt + n.toNat)
    ∧ (s.clear [] → done (.pfx S fa fb fd ro) fun t => t.cur.prefixed = true ∧ t.cur.pfx = ⟨fa.toNat, fb.toNat, fd.toNat, ro.toNat⟩)
    ∧ (s.clearPfx (redAccepts x.toNat) (if d = 0 then [a, 0x20] else [a, 0x20, d]) → s.cur.stq.length < 64 →
        let w := (if s.cur.pfx.fa = 0x12 then 32 else (atomFmt false s.cur.pfx).w) / 8
        ∀ dst, goesTo s addr w 2 dst → (d = 0 ∨ ∃ pa, s.objectAt (s.opnd d).toNat 2 = .ok pa) →
          done (.red S d a x o c) fun t => t.cur.stq = s.cur.stq ++ [counted s.nextId dst false]
            ∧ ∃ r, SMap.find t.reqs s.nextId = some r ∧ r.va = addr)
    ∧ (s.clear [a] → s.cur.ld.length < 32 → ∀ pa, s.objectAt addr 3 = .ok pa →
        done (.barm S d a) fun t => t.cur.ld = s.cur.ld ++ [counted s.nextId (.here pa) false]
          ∧ ∃ r, SMap.find t.reqs s.nextId = some r ∧ r.pa = pa ∧ r.kind = .barm)
    ∧ (s.clear [a, p] → ∀ pa, s.objectAt addr 1 = .ok pa →
        done (.bwait S d a p) fun t => t.cur.wait = .watch s.nextId
          ∧ ∃ r, SMap.find t.reqs s.nextId = some r ∧ r.pa = pa ∧ r.kind = .bwatch))
  ∧ (∀ (s : State),
    let a := s.ev.a
    let b := s.ev.b
    let c := s.ev.c
    let done (i : Instr) (post : State → Prop) : Prop := ∃ t, exec i s = .next t ∧ post t
    let answered (t : State) (id : Nat) : Prop := ∃ x, SMap.find t.resps id = some x ∧ x.fault = none
    let k := s.core a
    let limit := if s.rbe a then 0x58000 else 0x60000
    (∀ r, SMap.find s.reqs a = some r → r.id = a → r.remote = none → r.reached = true → s.rejects r = none →
      let m := ofBytes (s.gbytes r.pa 8)
      (r.kind = .load → done .globalAccessAtSlice fun t => answered t a)
      ∧ (∀ op, r.kind = .atomic op → done .atomicAtSlice fun t =>
          SMap.find t.resps a = some { v := extend r.width r.signed (ofBytes (s.gbytes r.pa r.width)) })
      ∧ (∀ op fl, r.kind = .red op fl → done .reductionAtSlice fun t => SMap.find t.resps a = some {})
      ∧ (r.kind = .barm → done .barrierArrival fun t => answered t a)
      ∧ (r.kind = .watch → m ≠ r.v → done .watchArrival fun t => SMap.find t.resps a = some {})
      ∧ (r.kind = .watch → m = r.v → done .watchArrival fun t => ∃ w ∈ SMap.get [] t.watches (homeOf r.pa), w.id = a))
    ∧ (∀ r, SMap.find s.reqs a = some r → (s.core r.core).gang = r.src.map (·.1) → r.waitLocal ≤ s.now → (s.core r.core).sibs = [] →
        r.waitsFor = [] → done .releaseDepart fun t => t.held = s.held.filter (· != a) ∧ ∃ p ∈ t.cal, p.ev = r.kind.event ∧ p.args.a = a)
    ∧ (let x := s.ctxAt a b
      let va := s.ev.w.toNat
      ∀ need e at_ level used, x.wait = .walk va need → x.rewalk = false → s.walk (s.asidOf a) va = .leaf e at_ level used →
        permit need e = none → done .translationWalk fun t => (t.ctxAt a b).wait = .none ∧ (t.ctxAt a b).pc = x.pc
          ∧ ∃ y ∈ (t.core a).tlb, y.covers (s.asidOf a) (s.space (s.asidOf a)).gen va = true)
    ∧ (∀ y px pm till words, s.cur.wait = .tile y px false pm till words → localFault s y 32 = none →
        localPlace s.cc y = some (s.cc, y) → regionsAligned s.curCore.regions → s.curCore.mat.q.length < 8 →
        s.curCore.mat.skOn = false → s.guarded s.cc (y + 22) 2 = false →
        done .mtileExpansion fun t => t.curCore.mat.q.length = s.curCore.mat.q.length + 1)
    ∧ (let x := s.ctxAt a b
      s.absent a b c = none → s.landGuarded c = false → s.frameHeld a b c = false → x.expects c = true →
        (SMap.get {} s.resps c).also = none → (∀ p, ¬ x.framed c p) →
      (done .resultArrival fun t => (t.ctxAt a b).ld = x.ld.filter (·.id != c))
      ∧ (done .storeAcknowledgement fun t => (t.ctxAt a b).stq = x.stq.filter (·.id != c)))
    ∧ (∀ e S d x y, s.findV a (c / 65536) (c % 65536) = some e → s.vinjected a e = false → k.vec.failed = false → e.vl ≤ 128 →
      (e.ins = .vbcast S d x → done .vectorEntryBegin fun t =>
          ∀ l ∈ e.lanes b, (t.core a).vec.rd l (k.vec.num d l) = e.s2.toNat % 2 ^ 32)
      ∧ (e.ins = .vperm S d x y 1 → done .gatheringPointBegin fun t =>
          ∀ l, l < e.vl → (t.core a).vec.rd l (k.vec.num d l)
            = ((List.range e.vl).map fun l => k.vec.rd l (k.vec.num x l)).getD ((l + e.s2.toNat) % e.vl) 0)
      ∧ done .vectorEntryRetire fun t => e ∉ (t.core a).vec.q)
    ∧ (∀ e, k.mat.nextEntry = some e → k.mat.freeAt ≤ s.now → e.at_ + 2 ≤ s.now → e.after ≤ s.now → k.sibs = [] →
        (s.ctxAt a e.ctx).status = .running → e.early = none → s.tileFaults a e.a e.fa e.pl e.planes = [] →
        s.tileFaults a e.b e.fb false 0 = [] → (s.tileAt a e.a).2.2.ks = (s.tileAt a e.b).2.2.ks →
      done .matrixEntryBegin fun t => ∃ y ∈ (t.core a).mat.q, y.begunAt = some s.now ∧ y.seq = e.seq ∧ y.ctx = e.ctx)
    ∧ (∀ e, (k.mat.q.find? fun e => e.ctx == c / 65536 && e.seq == c % 65536) = some e → s.mlateOf a (s.minput a e) = none →
        k.injM = false →
      done .matrixEntryCompletion fun t => (t.ctxAt a e.ctx).mpend = (s.ctxAt a e.ctx).mpend - 1)
    ∧ (∀ r m, SMap.find s.kreqs a = some r → r.id = a → b ≠ 1 → r.sl = s.kslice r → r.recs = [] → SMap.get [] s.kwait r.sl = [] →
        s.kbehind r r.sl = false →
        r.gen = (s.space r.asid).gen → s.liveMap (s.kpart r) r.handle = some m → r.op = 9 → r.v.toNat % 16 = 1 →
      done .keyedOperationAccept fun t => SMap.find t.kreqs a = none ∧ answered t a)
    ∧ (∀ m, s.map a = some m → 0 < m.b0 → (m.slice b).p < m.b0 * 2 ^ (m.slice b).l → SMap.rising 0 (m.slice b).chains = true →
      let found (t : State) (k : Nat) : Option Nat := (t.map a).bind fun m => (m.slice b).find m.b0 k
      (done .splitStep fun t => ∀ k, found t k = found s k) ∧ done .facetMigration fun t => ∀ k, found t k = found s k)
    ∧ (s.combHeld a c = false → done .combiningBufferWrite fun t => SMap.get [] t.combs a = (SMap.get [] s.combs a).filter fun e => e.num != c)
    ∧ (∀ h n, SMap.find s.units a = some h → h.underRecall c = true → h.gang = none → s.waiting a = [] →
      (h.agent = some (1, n) → s.map n ≠ none → done .mapUnitSurrender fun t => SMap.find t.units a = none)
      ∧ (h.agent = some (2, n) → SMap.find s.hots n ≠ none → done .engineBlockSurrender fun t => SMap.find t.units a = none))
    ∧ (∀ q, s.findCmd a b = some q → q.id = b →
      let goesOn (t : State) (p : Cmd → Prop) : Prop := ∃ q', t.findCmd a b = some q' ∧ p q'
      (q.ended = true → q.begun = true → done .commandCompletion fun t => (t.ctxAt a q.ctx).enc = (s.ctxAt a q.ctx).enc - 1)
      ∧ (q.ended = false → q.begun = true →
        (q.buf = [] → q.failed = false → q.rd < q.total → q.rd % 8 = 0 → q.total % 8 = 0 →
          (q.code = 1 → q.out = true → q.hdr = false → q.n 4 4 % 8 = 0 → q.n 4 4 + q.total ≤ limit →
            done .copy fun t => CtxsSame s t ∧ goesOn t fun q' => q.rd < q'.rd)
          ∧ (q.code = 2 → q.n 4 4 % 8 = 0 → q.n 4 4 + q.total ≤ limit →
            done .copyl fun t => CtxsSame s t ∧ goesOn t fun q' => q.rd < q'.rd))
        ∧ (∀ key rest row, q.idx = key :: rest → (q.rows.find? fun e => e.1 == key) = some (key, row) → q.n 16 4 ≤ q.rd →
            let dst := q.n 24 4 + q.wr / q.rlen * q.rlen
            0 < q.rlen → q.wr % 8 = 0 → q.rlen % 8 = 0 → q.n 24 4 % 8 = 0 → row.length = q.rlen → s.openRange a dst q.rlen →
            done .gather fun t => HoldsBytes t a (dst + q.wr % q.rlen) ((row.drop (q.wr % q.rlen)).take 8))
        ∧ (q.rd < q.n 16 4 → done .gpre fun t => goesOn t fun q' => q.rd < q'.rd)
        ∧ (∀ h x pa, SMap.find s.hots (octOf a) = some h → h.core = a → h.gang = k.gang.getD 0 → h.asked = 0 → q.rd < q.n 16 4 → h.room = some pa →
            q.cur = some x → q.rlen ≤ q.buf.length →
            done .hotset fun t => SMap.find t.hots (octOf a) = some { h with rows := h.rows ++ [(x, pa)] })
        ∧ (∀ out size, compressBlock q.kind (s.space q.asid).code q.buf (s.freeN 4) = (size, out) → q.wr < q.n 16 1 →
            q.rd = q.wr + 1 → 0 < out.length → out.length ≤ 1024 → s.openRange a (q.n 8 4 + 1024 * q.wr) 1024 → q.n 12 4 % 2 = 0 →
            s.openRange a (q.n 12 4 + 2 * q.wr) 2 → q.n 12 4 + 2 * q.wr + 2 ≤ q.n 8 4 + 1024 * q.wr →
            done .codecCompress fun t => HoldsBytes t a (q.n 8 4 + 1024 * q.wr) out ∧ goesOn t (·.wr = q.wr + 1))
        ∧ (∀ out, expandBlock q.kind (s.space q.asid).code (q.cur.getD 0) q.buf = (out, true) → q.wr < q.n 16 1 →
            q.rd = q.wr + 1 → 0 < out.length → s.openRange a (q.n 8 4 + 1024 * q.wr) out.length →
            done .codecExpand fun t => HoldsBytes t a (q.n 8 4 + 1024 * q.wr) out ∧ goesOn t (·.wr = q.wr + 1))
        ∧ (q.wr < 32 → q.rd = q.wr → q.n 4 4 + 128 * q.hK ≤ limit →
            done .codecBlockEncode fun t => goesOn t (·.rd = q.wr + 1))
        ∧ (q.wr = 32 → (∀ e ∈ s.sides, b ∉ e.2.users) → s.openRange a (q.n 8 4) 64 →
            done .codecBlockEncode fun t => EndsWith t a q 0 (128 * q.hK))
        ∧ (∀ tag fmt K, q.cur = some (tag + 16 * fmt + 4096 * K) → tag < 16 → fmt < 256 → q.wr < 32 → q.rd = q.wr + 1 →
            0 < K → q.buf.length = 4 * K → s.openRange a (q.n 8 4 + q.wr * (4 * K)) (4 * K) → q.n 4 4 + 64 ≤ limit →
            done .codecBlockDecode fun t => HoldsBytes t a (q.n 8 4 + q.wr * (4 * K)) q.buf ∧ goesOn t (·.wr = q.wr + 1))
        ∧ (∀ x, SMap.find s.xfers q.xfer = some x → x.sent ≤ x.w → x.stopped = false →
            let from_ := q.n 4 4 + sectionAt x.ks x.sent
            from_ % 8 = 0 → from_ + sectionLen x.ks x.sent ≤ limit → ∀ i ∈ [Instr.pbcast, .pgather, .prelay],
            done i fun t => SMap.find t.xfers q.xfer = some { x with sent := x.sent + 1 })
        ∧ (∀ m, q.idx[q.rd]? = some m → (q.n 4 4 + 128 * q.pK * q.rd) % 8 = 0 →
            q.n 4 4 + 128 * q.pK * q.rd + 128 * q.pK ≤ limit →
            done .prscat fun t => goesOn t (·.rd = q.rd + 1) ∧ ∃ p ∈ t.cal, p.ev = .prscatChunkArrival ∧ p.args.a = m)))
    ∧ (s.enginesRun a = true → k.scatters = [] → 1 < s.ev.w.toNat →
        done .prscatChunkArrival fun t => ∃ x, (t.core a).scatters = [x])
    ∧ (∀ x v, SMap.find s.xfers a = some x → x.branches[b]? = some v →
      (done .cancelAtRouter fun t => ∃ y w, SMap.find t.xfers a = some y ∧ y.branches[b]? = some w ∧ w.known = true)
      ∧ (v.ended = 0 → v.dev = none → x.dev = none → v.got = c → c = 0 → s.ev.w = 0 →
        (s.myTurn (s.sectionTurn a b c x v)).2 = true → s.lands v.core = true →
        (SMap.get {} (s.core v.core).land v.slot : Land).st = 1 → (SMap.get {} (s.core v.core).land v.slot : Land).w = x.w →
        (SMap.get {} (s.core v.core).land v.slot : Land).ks = x.ks →
        done .sectionArrival fun t => (SMap.get {} (t.core v.core).land v.slot : Land).xfer = a)))

/-- Every event of the supersteps, of the arbiter, of the scheduler, of the debug units and of the boundary completes, under conditions
on the state and its operands, and what it does first of all is said for each (spec/13_superstep.md to spec/18_boundaries.md).
The model's choices it rests on: log entries 74, 84, 85, 94, 102, 151, 152, 153 and 160. -/
def Obligations.MachineEventsComplete : Prop :=
  ∀ (s : State),
    let a := s.ev.a
    let b := s.ev.b
    let c := s.ev.c
    let w := s.ev.w.toNat
    let data := s.ev.data
    let done (i : Instr) (post : State → Prop) : Prop := ∃ t, exec i s = .next t ∧ post t
    let k := s.core a
    let x := s.ctxAt a b
    let sent (t : State) (i : Instr) : Prop := ∃ p ∈ t.cal, p.ev = i
    (let v := s.group a b
      let ms := s.members a b
      ms.Nodup →
      ((∀ m ∈ ms, ∃ e ∈ v.arrived, e.1 = m) → s.heldBack a b = false →
          done .syncCRelease fun t => (t.group a b).cArr = v.arrived ∧ (t.group a b).arrived = [])
      ∧ ((∀ m ∈ ms, m ∉ v.late → ∃ e ∈ v.arrived, e.1 = m) → (∃ m ∈ ms, (s.core m).ex.phase = true) → s.halts = [] →
          done .syncXRelease fun t => (t.group a b).ssn = v.ssn + 1 ∧ (t.group a b).arrived = [])
      ∧ (v.startAt = c → s.halts = [] → (∃ m ∈ ms, (s.core m).ex.phase = true ∧ ∀ e ∈ v.arrived, e.1 ≠ m) →
          done .exchangeTimeout fun t => (t.group a b).ssn = v.ssn + 1))
    ∧ (c ≠ 1 → k.ex.phase = true → k.ex.waiting = [] → (∀ p ∈ s.cal, ¬ (p.ev = .exchangeWordArrival ∧ p.args.a = a ∧ p.due ≤ s.now)) →
        (SMap.get [] k.ex.queues b).length < 16 →
        done .exchangeWordArrival fun t => SMap.get [] (t.core a).ex.queues b = SMap.get [] k.ex.queues b ++ [s.ev.w])
    ∧ (∀ g j, s.groupKey a = some (g, j) → b = 0 → (s.gang g).chain.rbe = true → (s.group g j).unr = false →
        (s.group g j).rbc < 2 → done .uncorrectableError fun t => ∃ p ∈ t.cal, p.ev = .rollback ∧ p.args.a = g)
    ∧ (s.residentGang a = true → (coresOf (s.gang a).octs).Nodup → (∀ o ∈ (s.gang a).octs, o < 256) →
        (∀ m ∈ coresOf (s.gang a).octs, (s.core m).running = none) → (∀ p ∈ s.cal, s.sentBy a p = false) →
        done .rollback fun t => ∀ m ∈ coresOf (s.gang a).octs, (t.ctxAt m 0).pc = (s.core m).undo.snap.pc)
    ∧ (s.viral = false → s.listedOnce → done .viralEntry fun t => t.viral = true ∧ t.virSrc = a)
    ∧ (∀ q u, SMap.find s.unitReqs a = some q → q.id = a → q.waits = none → q.src = 0 → s.fits q.links 1 1 = true →
        q.candidates.find? (fun u => (SMap.find s.units u).isNone) = some u → (∀ l ∈ q.links, l.use + 8 ≤ facetBase) →
        done .arbitration fun t => ∃ h, SMap.find t.units u = some h ∧ h.gang = some q.who.2)
    ∧ (∀ r rest, k.recalls = r :: rest → s.routineReady a = true → (s.ctxAt a 0).pend = [] → s.routineHeld a = false →
        (∀ i, (s.ctxAt a 0).wait ≠ .watch i) → s.frameFits a 0 →
        done .routineEntry fun t => (t.ctxAt a 0).rt = true ∧ (t.ctxAt a 0).pc = BitVec.ofNat 52 k.routine)
    ∧ (∀ r, k.running = some r → (s.ctxAt a 0).pend = [] → s.openRecall r = true → s.waiting r.unit = [] →
        done .routineOverrun fun t => SMap.find t.units r.unit = none ∧ (t.ctxAt a 0).rt = false)
    ∧ (∀ h, SMap.find s.units a = some h → h.finish = true → h.recalled = some c → s.waiting a = [] →
        done .finishDeadline fun t => SMap.find t.units a = none)
    ∧ (∀ r h, SMap.find s.clauseReqs a = some r → r.id = a → b = 0 → SMap.find s.units (4096 + r.m) = some h → h.gang = some r.gang →
        r.op = 8 → r.b.toNat % 4 = 1 → done .clauseOperationAtArray fun t =>
          SMap.find t.resps a = some { v := (SMap.get {} s.arrays r.m : ClauseArr).last })
    ∧ (∀ q, SMap.find s.sched a = some q → q.id = a → q.node = false →
      let v := s.gang q.gid
      (c = 2 → s.residentGang b = true → (∀ m ∈ coresOf (s.gang b).octs, s.stopped m = false) → q.descr.host = false →
          done .gangStart fun t => SMap.find t.sched a = none
            ∧ SMap.find t.resps a = some { v := BitVec.ofNat 64 (2 ^ 63 + b % 4096) })
      ∧ (SMap.find s.gangs q.gid ≠ none → v.status = .running → v.fail = false →
          done .switchOut fun t => (t.gang q.gid).status = .stopping)
      ∧ (∀ s1, v.status = .out → s.readPages (some q.gang) q.asid q.save (savePages (coresOf v.octs).length) = some s1 →
          s1.tagsAt (some q.gang) q.asid q.save (coresOf v.octs).length = some v.tags → (∀ o ∈ v.octs, o ∉ s.taken) →
          s.viral = false → (v.saved.map (·.1)).Nodup → done .resume fun t => (t.gang q.gid).status = .resuming))
    ∧ (∀ q v, SMap.find s.gangs a = some v → SMap.find s.sched b = some q → q.id = b → q.gid = a → q.node = false →
      (v.status = .resuming → v.resumeBy = some b → q.stamp ≤ s.tb → done .resumeStamp fun t => (t.gang a).status = .running)
      ∧ (∀ s1, v.status = .stopping → v.stopBy = some b → v.ended.length ≠ (coresOf v.octs).length → (coresOf v.octs).Nodup →
          (∀ m ∈ coresOf v.octs, s.stopped m = true ∧ (s.core m).running = none ∧ (s.core m).recalls = [] ∧ s.drainedCore m = true
            ∧ (s.core m).sibs = [] ∧ ∀ y ∈ (s.core m).ctxs, ∀ i, y.2.wait ≠ .watch i) →
          s.writePages (some q.gang) q.asid q.save (128 * (coresOf v.octs).length) (savePages (coresOf v.octs).length) = some s1 →
          done .preemptionStamp fun t => (t.gang a).status = .out ∧ ∀ m ∈ coresOf v.octs, (t.core m).gang = none))
    ∧ (∀ v, SMap.find s.gangs a = some v →
      (c ≠ 1 → v.status = .running → (∀ e ∈ s.sched, e.2.gid = a → e.2.opc ≠ 1 ∧ e.2.opc ≠ 2) →
          done .kill fun t => (t.gang a).fail = true ∧ (t.gang a).status = .stopping)
      ∧ (v.ended.length = (coresOf v.octs).length → v.status ≠ .out → s.stepsDue a = false → done .gangCompletion fun t => SMap.find t.gangs a = none)
      ∧ (v.chain.bcyc ≠ 0 → v.budgetSent = false → s.residentGang a = true → v.chain.bcyc ≤ v.resident + (s.tb - v.started) →
          done .cycleBudgetExpiry fun t => (t.gang a).budgetSent = true))
    ∧ (x.status = .running → x.hp = true → k.ex.phase = false → s.landingHeld a b = false → (∀ i, x.wait ≠ .watch i) →
        done .debugHaltLanding fun t => (t.ctxAt a b).status = .halted ∧ (t.ctxAt a b).hk = 2)
    ∧ (done .ipost fun t => (t.ctxAt a b).soft = (x.soft || s.ev.w.getLsbD 0))
    ∧ (k.injS = true → done .inOrderCheck fun t => (t.ctxAt a b).wait = .checked ∧ (t.core a).injS = false)
    ∧ (done .timerCompare fun t => t = s)
    ∧ (done .tcmpWrite fun t => (t.ctxAt a b).tcmp = s.ev.w ∧ (t.ctxAt a b).tpost = false)
    ∧ (done .ipendWrite fun t => (t.ctxAt a b).soft = (x.soft && !s.ev.w.getLsbD 0))
    ∧ (let trace (i : Instr) (p : Trace → Prop) : Prop := done i fun t => p (SMap.get {} t.traces a)
      let old : Trace := SMap.get {} s.traces a
      trace .traceStart (fun y => y.run = true ∧ y.recs = []) ∧ trace .traceArm (fun y => y.run = false ∧ y.done = false)
      ∧ (old.mode = 2 → trace .traceStamp fun y => y.run = true ∧ y.recs = [])
      ∧ (old.run = true → trace .traceStop (fun y => y.run = false ∧ y.done = true) ∧ trace .traceEnd fun y => y.run = false ∧ y.done = true))
    ∧ (done .injectScalar fun t => (t.core a).injS = true) ∧ (done .injectVector fun t => (t.core a).injV = true)
    ∧ (done .injectMatrix fun t => (t.core a).injM = true)
    ∧ (b = 2 → done .hostMemoryAccess fun t => ∃ bs, t.md.toHost = s.md.toHost ++ [.data a bs] ∧ bs.length = c)
    ∧ (s.md.bonded = true → 0 < w → s.viral = false →
        done .hostCommand fun t => ∃ bs, t.md.toHost = s.md.toHost ++ [.data a bs] ∧ bs.length = w)
    ∧ (a < 256 → w ≠ 0 → w % 64 = 0 → 4 ≤ b → b ≤ 16 →
        done .notifyRegister fun t => t.md.notify = SMap.put s.md.notify a { addr := w, lg := b })
    ∧ (let v := s.port a
      v.down = false → v.queue = [] →
      (v.training = false → s.viral = false → data.length = 256 → ofBytes ((data.drop 248).take 8) = Config.crc64 (data.take 248) % 2 ^ 64 →
          ofBytes (data.take 8) % 2 ^ 16 = v.rx + 2 ^ 12 → ofBytes (data.take 8) / 2 ^ 28 % 4 = 2 → v.rx < 2 ^ 12 →
          done .flitReceive fun t => (t.port a).rx = (v.rx + 1) % 4096)
      ∧ (v.training = false → s.viral = false → v.sent ≠ [] → v.since + 4200 ≤ s.tb → v.replays < 64 →
          done .replayTimeout fun t => (t.port a).replays = v.replays + 1)
      ∧ (v.lane ≤ b % 16 → b % 16 < v.lane + v.width → ∀ n first, widthFor (v.failed ||| 2 ^ (b % 16)) = (n, first) → n ≠ 0 →
          done .laneFailure fun t => (t.port a).training = true ∧ (t.port a).width = n)
      ∧ (v.training = true → v.sent = [] → done .portRetrainDone fun t => (t.port a).training = false))
    ∧ (∀ n first, widthFor (b % 2 ^ 16) = (n, first) → n ≠ 0 → done .portReset fun t => (t.port a).training = true ∧ (t.port a).width = n)
    ∧ (∀ y pa u, SMap.find s.md.bindings (a * 2 ^ 16 + b) = some y → (Away.read c data).kind = 1 →
        (Away.read c data).gen = (s.space y.asid).gen → s.xlateWalk y.asid (w % 2 ^ 42) 2 = .ok (pa, u) → pa < 2 ^ 40 →
        w % (Away.read c data).width = 0 → s.viral = false → (s.port (portTo a)).down = false →
        done .remoteRequest fun t => t.gread pa (Away.read c data).width = (Away.read c data).v % 256 ^ (Away.read c data).width)
    ∧ (done .hbmScrubPass fun t => t.mem = s.mem ∧ SMap.get [] s.md.repair (8 * a + b % 8) <+: SMap.get [] t.md.repair (8 * a + b % 8))
    ∧ (done .powerSample fun t => t.md.power = s.freeN 0 % 2 ^ 32 ∧ sent t .powerSample)
    ∧ (800 ≤ w → w ≤ 2000 → done .plimWrite fun t => t.md.plim = w)
    ∧ (a = 1 → b = 0 → s.md.warm = false → (SMap.get 0 s.md.boot 1 : Nat) = 0 →
        done .startUp fun t => t.md.step = 1 ∧ t.md.starts = s.md.starts + 1 ∧ sent t .startUp)
    ∧ (done .coldReset fun t => t.cores = State.reset.cores ∧ t.mem = State.reset.mem)
    ∧ (s.md.trip = false → done .warmReset fun t => t.cores = State.reset.cores ∧ t.mem = State.reset.mem ∧ t.did = s.did)
    ∧ (s.md.failed = true → done .startFailedReset fun t => t.cores = State.reset.cores ∧ t.mem = State.reset.mem)
    ∧ (1 ≤ a → a ≤ 12 → done .bootRecordPinWrite fun t =>
        (SMap.get 0 s.md.boot a : Nat) < 2 ^ 64 → (SMap.get 0 t.md.boot a : Nat) / 2 ^ 4 % 2 = b % 2)
    ∧ (data.length = 32 → b ≠ 1 → c ≠ 1 → done .quoteRequest fun t => data <+: t.md.attest ∧ sent t .quoteRequest)
    ∧ (a = 0 → s.ev.w = 1 → s.md.tenant = false → s.md.failed = false → done .tenantChange fun t => t.md.tenant = true ∧ t.md.ready = false)
end

