-- ==== Sys2Proof/Laws/Bits.lean ====
section
/-! SUPPORT. Small laws of bit fields, bit counts and bytes. -/
namespace Sys2Proof.Machine

theorem bitLen_eq {n k : Nat} (h : 2 ^ k ≤ n) (h' : n < 2 ^ (k + 1)) : bitLen n = k + 1 := by
  have h0 : n ≠ 0 := by have := Nat.two_pow_pos k; omega
  unfold bitLen
  rw [if_neg h0]
  congr 1
  exact (Nat.log2_eq_iff h0).2 ⟨h, h'⟩

/-- A 64-bit value whose bits from `k` up are 0 is below `2 ^ k`. -/
theorem lt_of_high_bits (x : BitVec 64) (k : Nat) (h : ∀ i, k ≤ i → x.getLsbD i = false) : x.toNat < 2 ^ k := by
  refine Nat.lt_pow_two_of_testBit _ fun i hi => ?_
  simpa [BitVec.getLsbD] using h i hi

theorem clz64_eq {x : Word} {k : Nat} (h : ∀ i, x.getMsbD i = true → k ≤ i) (h' : k = 64 ∨ x.getMsbD k = true) :
    clz64 x.toNat = k := by
  have hx := x.isLt
  have hlow : x.toNat < 2 ^ (64 - k) := by
    refine lt_of_high_bits x _ fun i hi => ?_
    by_contra hne
    have hb : x.getLsbD i = true := by simpa using hne
    have hi' : i < 64 := BitVec.lt_of_getLsbD hb
    have := h (63 - i) (by rw [BitVec.getMsbD_eq_getLsbD]; simp; exact ⟨by omega, by rw [show 63 - (63 - i) = i by omega]; exact hb⟩)
    omega
  unfold clz64
  rw [Nat.mod_eq_of_lt hx]
  rcases h' with rfl | hb
  · have : x.toNat = 0 := by simpa using hlow
    simp [this, bitLen]
  · have hk : k < 64 := BitVec.lt_of_getMsbD hb
    rw [BitVec.getMsbD_eq_getLsbD] at hb
    simp only [Bool.and_eq_true, decide_eq_true_eq] at hb
    have hge : 2 ^ (63 - k) ≤ x.toNat := Nat.ge_two_pow_of_testBit hb.2
    rw [bitLen_eq hge (by rw [show 63 - k + 1 = 64 - k by omega]; exact hlow)]
    omega

theorem ctzN_eq (w : Nat) : ∀ n k, (∀ i, i < k → n.testBit i = false) → k ≤ w → (k = w ∨ n.testBit k = true) → ctzN w n = k := by
  induction w with
  | zero => intro n k _ hk _; unfold ctzN; omega
  | succ w ih =>
    intro n k h hk h'
    unfold ctzN
    cases k with
    | zero =>
      rcases h' with h' | h'
      · omega
      · rw [Nat.testBit_zero] at h'; simp only [decide_eq_true_eq] at h'; simp [h']
    | succ k =>
      have h0 := h 0 (by omega)
      rw [Nat.testBit_zero] at h0
      simp only [decide_eq_false_iff_not] at h0
      rw [if_neg h0, ih (n / 2) k]
      · omega
      · intro i hi; rw [← Nat.testBit_succ]; exact h (i + 1) (by omega)
      · omega
      · rcases h' with h' | h'
        · left; omega
        · right; rw [← Nat.testBit_succ]; exact h'

theorem ctz64_eq {x : Word} {k : Nat} (h : ∀ i, x.getLsbD i = true → k ≤ i) (h' : k = 64 ∨ x.getLsbD k = true) :
    ctzN 64 x.toNat = k := by
  have hk : k ≤ 64 := by
    rcases h' with rfl | hb
    · omega
    · exact Nat.le_of_lt (BitVec.lt_of_getLsbD hb)
  refine ctzN_eq 64 _ _ (fun i hi => ?_) hk h'
  by_contra hne
  have := h i (by simpa [BitVec.getLsbD] using hne)
  omega

theorem popCount_eq (w n : Nat) : popCount w n = (List.range w).countP n.testBit := by
  induction w generalizing n with
  | zero => rfl
  | succ w ih =>
    rw [popCount, ih, List.range_succ_eq_map, List.countP_cons, List.countP_map, Nat.testBit_zero]
    have e : (n.testBit ∘ Nat.succ) = (n / 2).testBit := by
      funext i; exact Nat.testBit_succ n i
    rw [e]
    have := Nat.mod_two_eq_zero_or_one n
    rcases this with h | h <;> simp [h]; omega

theorem ofBytes_append (xs ys : List Byte) : ofBytes (xs ++ ys) = ofBytes xs + 256 ^ xs.length * ofBytes ys := by
  induction xs with
  | nil => simp [ofBytes]
  | cons b bs ih => simp only [List.cons_append, ofBytes, ih, List.length_cons, Nat.pow_succ]; ring

@[simp] theorem toBytes_length (k n : Nat) : (toBytes k n).length = k := by
  induction k generalizing n with
  | zero => rfl
  | succ k ih => simp [toBytes, ih]

theorem ofBytes_lt (bs : List Byte) : ofBytes bs < 256 ^ bs.length := by
  induction bs with
  | nil => simp [ofBytes]
  | cons b bs ih =>
    have := b.isLt
    simp only [ofBytes, List.length_cons, Nat.pow_succ]
    omega

/-- The number that the bytes of a number make, taken modulo their width. -/
theorem ofBytes_toBytes (k n : Nat) : ofBytes (toBytes k n) = n % 256 ^ k := by
  induction k generalizing n with
  | zero => simp [toBytes, ofBytes, Nat.mod_one]
  | succ k ih =>
    have e : (256 : Nat) ^ (k + 1) = 256 * 256 ^ k := by rw [Nat.pow_succ, Nat.mul_comm]
    rw [toBytes, ofBytes, ih, BitVec.toNat_ofNat, e, Nat.mod_mul]

/-- The bytes of the number that bytes make. -/
theorem toBytes_ofBytes (bs : List Byte) : toBytes bs.length (ofBytes bs) = bs := by
  induction bs with
  | nil => rfl
  | cons b bs ih =>
    have hb := b.isLt
    simp only [List.length_cons, toBytes, ofBytes]
    rw [show (b.toNat + 256 * ofBytes bs) / 256 = ofBytes bs by omega, ih]
    congr 1
    apply BitVec.eq_of_toNat_eq
    rw [BitVec.toNat_ofNat]
    omega

/-- A byte of a number. -/
theorem toBytes_getD (k n i : Nat) (h : i < k) : (toBytes k n).getD i 0 = BitVec.ofNat 8 (n / 256 ^ i) := by
  induction k generalizing n i with
  | zero => omega
  | succ k ih =>
    cases i with
    | zero => simp [toBytes]
    | succ i =>
      rw [toBytes, List.getD_cons_succ, ih _ _ (by omega), Nat.div_div_eq_div_mul, Nat.pow_succ, Nat.mul_comm 256]

/-- bswap: the value whose bytes are those of `x` in reverse order. -/
theorem bswap_eq {x v : Word} (h : ∀ i, i < 8 → v.extractLsb' (8 * i) 8 = x.extractLsb' (56 - 8 * i) 8) :
    word (ofBytes (toBytes 8 x.toNat).reverse) = v := by
  have hb : ∀ y : Word, toBytes 8 y.toNat = (List.range 8).map fun i => y.extractLsb' (8 * i) 8 := by
    intro y
    apply List.ext_getElem (by simp)
    intro i h1 h2
    simp only [toBytes_length] at h1
    have := toBytes_getD 8 y.toNat i h1
    rw [List.getD_eq_getElem _ _ (by simpa using h1)] at this
    rw [this]
    simp only [List.getElem_map, List.getElem_range]
    apply BitVec.eq_of_toNat_eq
    simp only [BitVec.toNat_ofNat, BitVec.extractLsb'_toNat, Nat.shiftRight_eq_div_pow]
    rw [show (256 : Nat) ^ i = 2 ^ (8 * i) by rw [Nat.pow_mul]]
  have hv : toBytes 8 v.toNat = (toBytes 8 x.toNat).reverse := by
    rw [hb, hb]
    apply List.ext_getElem (by simp)
    intro i h1 h2
    simp only [List.length_map, List.length_range] at h1
    simp only [List.getElem_map, List.getElem_range, List.getElem_reverse, List.length_map, List.length_range]
    rw [h i h1]
    congr 1
    omega
  rw [← hv, ofBytes_toBytes]
  apply BitVec.eq_of_toNat_eq
  have := v.isLt
  rw [word, BitVec.toNat_ofNat]
  omega

theorem lsh_eq (w : Word) (j : BitVec 16) : (w <<< 16 ||| j.zeroExtend 64) = BitVec.ofNat 64 (w.toNat * 2 ^ 16 + j.toNat) := by
  have hj := j.isLt
  apply BitVec.eq_of_toNat_eq
  rw [BitVec.toNat_or, BitVec.toNat_shiftLeft, BitVec.toNat_ofNat, BitVec.toNat_setWidth, Nat.shiftLeft_eq]
  have h1 : j.toNat % 2 ^ 64 = j.toNat := Nat.mod_eq_of_lt (by omega)
  have h2 : (w.toNat * 2 ^ 16) % 2 ^ 64 = (w.toNat % 2 ^ 48) * 2 ^ 16 := by omega
  rw [h1, h2, ← Nat.shiftLeft_eq, ← Nat.shiftLeft_add_eq_or_of_lt hj, Nat.shiftLeft_eq]
  omega

/-! ### Fields -/

theorem putBits_testBit (n lo w x i : Nat) :
    (putBits n lo w x).testBit i = if lo ≤ i ∧ i < lo + w then x.testBit (i - lo) else n.testBit i := by
  unfold putBits
  have h1 : (x % 2 ^ w) <<< lo + n % 2 ^ lo = (x % 2 ^ w) <<< lo ||| n % 2 ^ lo :=
    Nat.shiftLeft_add_eq_or_of_lt (Nat.mod_lt _ (Nat.two_pow_pos _)) _
  have h2 : (x % 2 ^ w) <<< lo ||| n % 2 ^ lo < 2 ^ (lo + w) := by
    refine Nat.or_lt_two_pow ?_ ?_
    · rw [Nat.shiftLeft_eq, Nat.pow_add, Nat.mul_comm]
      exact Nat.mul_lt_mul_of_pos_left (Nat.mod_lt _ (Nat.two_pow_pos _)) (Nat.two_pow_pos _)
    · exact Nat.lt_of_lt_of_le (Nat.mod_lt _ (Nat.two_pow_pos _)) (Nat.pow_le_pow_right (by omega) (by omega))
  rw [Nat.add_assoc, h1, Nat.shiftLeft_add_eq_or_of_lt h2]
  simp only [Nat.testBit_or, Nat.testBit_shiftLeft, Nat.testBit_mod_two_pow, Nat.testBit_shiftRight]
  by_cases a : lo ≤ i
  · by_cases b : i < lo + w
    · have c1 : ¬ lo + w ≤ i := by omega
      have c2 : ¬ i < lo := by omega
      have c3 : i - lo < w := by omega
      simp [a, b, c1, c2, c3]
    · have c1 : lo + w ≤ i := by omega
      have c2 : ¬ i < lo := by omega
      have c3 : ¬ i - lo < w := by omega
      have c4 : lo + w + (i - (lo + w)) = i := by omega
      simp [b, c1, c2, c3, c4]
  · have c1 : ¬ lo + w ≤ i := by omega
    have c2 : i < lo := by omega
    simp [a, c1, c2]

theorem putFld_getLsbD (v : Word) (lo w x i : Nat) :
    (putFld v lo w x).getLsbD i =
      if i < 64 then (if lo ≤ i ∧ i < lo + w then x.testBit (i - lo) else v.getLsbD i) else false := by
  unfold putFld
  rw [BitVec.getLsbD_ofNat, putBits_testBit]
  by_cases h : i < 64 <;> simp [h, BitVec.getLsbD]

theorem fld_testBit (v : Word) (lo w i : Nat) : (fld v lo w).testBit i = (decide (i < w) && v.getLsbD (lo + i)) := by
  simp [fld, bitsOf, Nat.testBit_mod_two_pow, Nat.testBit_shiftRight, BitVec.getLsbD]

/-- A field just written reads as what was written, modulo its width. -/
theorem fld_putFld_same (v : Word) {lo w : Nat} (x : Nat) (h : lo + w ≤ 64) : fld (putFld v lo w x) lo w = x % 2 ^ w := by
  apply Nat.eq_of_testBit_eq
  intro i
  rw [fld_testBit, putFld_getLsbD, Nat.testBit_mod_two_pow]
  by_cases hi : i < w
  · have h1 : lo + i < 64 := by omega
    simp [hi, h1]
  · simp [hi]

/-- A field apart from the one written reads as before. -/
theorem fld_putFld_other (v : Word) {lo w lo' w' : Nat} (x : Nat) (h : lo + w ≤ lo' ∨ lo' + w' ≤ lo) (h' : lo' + w' ≤ 64) :
    fld (putFld v lo w x) lo' w' = fld v lo' w' := by
  apply Nat.eq_of_testBit_eq
  intro i
  rw [fld_testBit, fld_testBit, putFld_getLsbD]
  by_cases hi : i < w'
  · have h1 : lo' + i < 64 := by omega
    have h2 : ¬ (lo ≤ lo' + i ∧ lo' + i < lo + w) := by omega
    simp [hi, h1, h2]
  · simp [hi]

theorem bit_putFld_other (v : Word) {lo w i : Nat} (x : Nat) (h : i < lo ∨ lo + w ≤ i) : bit (putFld v lo w x) i = bit v i := by
  unfold bit
  rw [putFld_getLsbD]
  have h2 : ¬ (lo ≤ i ∧ i < lo + w) := by omega
  by_cases hi : i < 64
  · simp [hi, h2]
  · simp [hi, BitVec.getLsbD_of_ge v i (by omega)]

end Sys2Proof.Machine
end

