-- ==== Sys2Proof/Laws/Exec.lean ====
section
/-! SUPPORT. What exec does with each constructor: one direct call of its meaning. -/
namespace Sys2Proof.Machine

@[simp] theorem exec_add (S) (d) (a) (b) (s : State) : exec (.add S d a b) s = execAdd S d a b s := rfl
@[simp] theorem exec_sub (S) (d) (a) (b) (s : State) : exec (.sub S d a b) s = execSub S d a b s := rfl
@[simp] theorem exec_and (S) (d) (a) (b) (s : State) : exec (.and S d a b) s = execAnd S d a b s := rfl
@[simp] theorem exec_or (S) (d) (a) (b) (s : State) : exec (.or S d a b) s = execOr S d a b s := rfl
@[simp] theorem exec_xor (S) (d) (a) (b) (s : State) : exec (.xor S d a b) s = execXor S d a b s := rfl
@[simp] theorem exec_andn (S) (d) (a) (b) (s : State) : exec (.andn S d a b) s = execAndn S d a b s := rfl
@[simp] theorem exec_shl (S) (d) (a) (b) (s : State) : exec (.shl S d a b) s = execShl S d a b s := rfl
@[simp] theorem exec_shr (S) (d) (a) (b) (s : State) : exec (.shr S d a b) s = execShr S d a b s := rfl
@[simp] theorem exec_sar (S) (d) (a) (b) (s : State) : exec (.sar S d a b) s = execSar S d a b s := rfl
@[simp] theorem exec_rot (S) (d) (a) (b) (s : State) : exec (.rot S d a b) s = execRot S d a b s := rfl
@[simp] theorem exec_min (S) (d) (a) (b) (s : State) : exec (.min S d a b) s = execMin S d a b s := rfl
@[simp] theorem exec_minc (S) (d) (a) (b) (s : State) : exec (.minc S d a b) s = execMinc S d a b s := rfl
@[simp] theorem exec_max (S) (d) (a) (b) (s : State) : exec (.max S d a b) s = execMax S d a b s := rfl
@[simp] theorem exec_maxc (S) (d) (a) (b) (s : State) : exec (.maxc S d a b) s = execMaxc S d a b s := rfl
@[simp] theorem exec_sel (S) (d) (a) (b) (s : State) : exec (.sel S d a b) s = execSel S d a b s := rfl
@[simp] theorem exec_mul (S) (d) (a) (b) (s : State) : exec (.mul S d a b) s = execMul S d a b s := rfl
@[simp] theorem exec_mulh (S) (d) (a) (b) (s : State) : exec (.mulh S d a b) s = execMulh S d a b s := rfl
@[simp] theorem exec_mulhc (S) (d) (a) (b) (s : State) : exec (.mulhc S d a b) s = execMulhc S d a b s := rfl
@[simp] theorem exec_div (S) (d) (a) (b) (s : State) : exec (.div S d a b) s = execDiv S d a b s := rfl
@[simp] theorem exec_divc (S) (d) (a) (b) (s : State) : exec (.divc S d a b) s = execDivc S d a b s := rfl
@[simp] theorem exec_rem (S) (d) (a) (b) (s : State) : exec (.rem S d a b) s = execRem S d a b s := rfl
@[simp] theorem exec_remc (S) (d) (a) (b) (s : State) : exec (.remc S d a b) s = execRemc S d a b s := rfl
@[simp] theorem exec_clz (S) (d) (a) (s : State) : exec (.clz S d a) s = execClz S d a s := rfl
@[simp] theorem exec_ctz (S) (d) (a) (s : State) : exec (.ctz S d a) s = execCtz S d a s := rfl
@[simp] theorem exec_popc (S) (d) (a) (s : State) : exec (.popc S d a) s = execPopc S d a s := rfl
@[simp] theorem exec_bswap (S) (d) (a) (s : State) : exec (.bswap S d a) s = execBswap S d a s := rfl
@[simp] theorem exec_mov (S) (d) (a) (s : State) : exec (.mov S d a) s = execMov S d a s := rfl
@[simp] theorem exec_cmp (S) (d) (a) (b) (c) (s : State) : exec (.cmp S d a b c) s = execCmp S d a b c s := rfl
@[simp] theorem exec_addi (S) (d) (a) (i) (s : State) : exec (.addi S d a i) s = execAddi S d a i s := rfl
@[simp] theorem exec_andi (S) (d) (a) (i) (s : State) : exec (.andi S d a i) s = execAndi S d a i s := rfl
@[simp] theorem exec_ori (S) (d) (a) (i) (s : State) : exec (.ori S d a i) s = execOri S d a i s := rfl
@[simp] theorem exec_xori (S) (d) (a) (i) (s : State) : exec (.xori S d a i) s = execXori S d a i s := rfl
@[simp] theorem exec_shli (S) (d) (a) (i) (s : State) : exec (.shli S d a i) s = execShli S d a i s := rfl
@[simp] theorem exec_shri (S) (d) (a) (i) (s : State) : exec (.shri S d a i) s = execShri S d a i s := rfl
@[simp] theorem exec_sari (S) (d) (a) (i) (s : State) : exec (.sari S d a i) s = execSari S d a i s := rfl
@[simp] theorem exec_li (S) (d) (i) (s : State) : exec (.li S d i) s = execLi S d i s := rfl
@[simp] theorem exec_lsh (S) (d) (i) (s : State) : exec (.lsh S d i) s = execLsh S d i s := rfl
@[simp] theorem exec_br (S) (a) (c) (o) (s : State) : exec (.br S a c o) s = execBr S a c o s := rfl
@[simp] theorem exec_bcEq (S) (a) (b) (o) (s : State) : exec (.bcEq S a b o) s = execBcEq S a b o s := rfl
@[simp] theorem exec_bcNe (S) (a) (b) (o) (s : State) : exec (.bcNe S a b o) s = execBcNe S a b o s := rfl
@[simp] theorem exec_bcLt (S) (a) (b) (o) (s : State) : exec (.bcLt S a b o) s = execBcLt S a b o s := rfl
@[simp] theorem exec_bcLtc (S) (a) (b) (o) (s : State) : exec (.bcLtc S a b o) s = execBcLtc S a b o s := rfl
@[simp] theorem exec_bcLe (S) (a) (b) (o) (s : State) : exec (.bcLe S a b o) s = execBcLe S a b o s := rfl
@[simp] theorem exec_bcLec (S) (a) (b) (o) (s : State) : exec (.bcLec S a b o) s = execBcLec S a b o s := rfl
@[simp] theorem exec_j (S) (o) (s : State) : exec (.j S o) s = execJ S o s := rfl
@[simp] theorem exec_jal (S) (o) (s : State) : exec (.jal S o) s = execJal S o s := rfl
@[simp] theorem exec_jr (S) (d) (a) (s : State) : exec (.jr S d a) s = execJr S d a s := rfl
@[simp] theorem exec_stall (S) (i) (s : State) : exec (.stall S i) s = execStall S i s := rfl
@[simp] theorem exec_fadd (S) (d) (a) (b) (s : State) : exec (.fadd S d a b) s = execFadd S d a b s := rfl
@[simp] theorem exec_fsub (S) (d) (a) (b) (s : State) : exec (.fsub S d a b) s = execFsub S d a b s := rfl
@[simp] theorem exec_fmul (S) (d) (a) (b) (s : State) : exec (.fmul S d a b) s = execFmul S d a b s := rfl
@[simp] theorem exec_fdiv (S) (d) (a) (b) (s : State) : exec (.fdiv S d a b) s = execFdiv S d a b s := rfl
@[simp] theorem exec_fsqrt (S) (d) (a) (s : State) : exec (.fsqrt S d a) s = execFsqrt S d a s := rfl
@[simp] theorem exec_fmin (S) (d) (a) (b) (s : State) : exec (.fmin S d a b) s = execFmin S d a b s := rfl
@[simp] theorem exec_fmax (S) (d) (a) (b) (s : State) : exec (.fmax S d a b) s = execFmax S d a b s := rfl
@[simp] theorem exec_fneg (S) (d) (a) (s : State) : exec (.fneg S d a) s = execFneg S d a s := rfl
@[simp] theorem exec_fclass (S) (d) (a) (s : State) : exec (.fclass S d a) s = execFclass S d a s := rfl
@[simp] theorem exec_fma (S) (d) (a) (b) (s : State) : exec (.fma S d a b) s = execFma S d a b s := rfl
@[simp] theorem exec_fcmp (S) (d) (a) (b) (c) (s : State) : exec (.fcmp S d a b c) s = execFcmp S d a b c s := rfl
@[simp] theorem exec_cvt (S) (d) (a) (s : State) : exec (.cvt S d a) s = execCvt S d a s := rfl
@[simp] theorem exec_bxenc (S) (d) (a) (b) (s : State) : exec (.bxenc S d a b) s = execBxenc S d a b s := rfl
@[simp] theorem exec_bxdec (S) (d) (a) (b) (s : State) : exec (.bxdec S d a b) s = execBxdec S d a b s := rfl
@[simp] theorem exec_bxexp (S) (d) (a) (s : State) : exec (.bxexp S d a) s = execBxexp S d a s := rfl
@[simp] theorem exec_ld (S) (d) (b) (o) (s : State) : exec (.ld S d b o) s = execLd S d b o s := rfl
@[simp] theorem exec_st (S) (v) (b) (o) (s : State) : exec (.st S v b o) s = execSt S v b o s := rfl
@[simp] theorem exec_ldx (S) (d) (a) (b) (s : State) : exec (.ldx S d a b) s = execLdx S d a b s := rfl
@[simp] theorem exec_stx (S) (v) (a) (b) (s : State) : exec (.stx S v a b) s = execStx S v a b s := rfl
@[simp] theorem exec_ldg (S) (d) (b) (o) (s : State) : exec (.ldg S d b o) s = execLdg S d b o s := rfl
@[simp] theorem exec_stg (S) (v) (b) (o) (s : State) : exec (.stg S v b o) s = execStg S v b o s := rfl
@[simp] theorem exec_ldgAcq (S) (d) (a) (c) (s : State) : exec (.ldgAcq S d a c) s = execLdgAcq S d a c s := rfl
@[simp] theorem exec_stgRel (S) (v) (a) (c) (s : State) : exec (.stgRel S v a c) s = execStgRel S v a c s := rfl
@[simp] theorem exec_lsr (S) (b) (z) (n) (p) (s : State) : exec (.lsr S b z n p) s = execLsr S b z n p s := rfl
@[simp] theorem exec_pref (S) (a) (s : State) : exec (.pref S a) s = execPref S a s := rfl
@[simp] theorem exec_waitc (S) (n) (k) (s : State) : exec (.waitc S n k) s = execWaitc S n k s := rfl
@[simp] theorem exec_waitv (S) (v) (a) (s : State) : exec (.waitv S v a) s = execWaitv S v a s := rfl
@[simp] theorem exec_wbk (S) (a) (s : State) : exec (.wbk S a) s = execWbk S a s := rfl
@[simp] theorem exec_ldgx (S) (d) (a) (b) (s : State) : exec (.ldgx S d a b) s = execLdgx S d a b s := rfl
@[simp] theorem exec_aadd (S) (d) (a) (o) (c) (l) (s : State) : exec (.aadd S d a o c l) s = execAadd S d a o c l s := rfl
@[simp] theorem exec_aand (S) (d) (a) (o) (c) (l) (s : State) : exec (.aand S d a o c l) s = execAand S d a o c l s := rfl
@[simp] theorem exec_aor (S) (d) (a) (o) (c) (l) (s : State) : exec (.aor S d a o c l) s = execAor S d a o c l s := rfl
@[simp] theorem exec_axor (S) (d) (a) (o) (c) (l) (s : State) : exec (.axor S d a o c l) s = execAxor S d a o c l s := rfl
@[simp] theorem exec_amin (S) (d) (a) (o) (c) (l) (s : State) : exec (.amin S d a o c l) s = execAmin S d a o c l s := rfl
@[simp] theorem exec_amax (S) (d) (a) (o) (c) (l) (s : State) : exec (.amax S d a o c l) s = execAmax S d a o c l s := rfl
@[simp] theorem exec_aswp (S) (d) (a) (o) (c) (l) (s : State) : exec (.aswp S d a o c l) s = execAswp S d a o c l s := rfl
@[simp] theorem exec_acas (S) (d) (a) (o) (c) (l) (s : State) : exec (.acas S d a o c l) s = execAcas S d a o c l s := rfl
@[simp] theorem exec_aincw (S) (d) (a) (o) (c) (l) (s : State) : exec (.aincw S d a o c l) s = execAincw S d a o c l s := rfl
@[simp] theorem exec_abadd (S) (d) (a) (o) (c) (l) (s : State) : exec (.abadd S d a o c l) s = execAbadd S d a o c l s := rfl
@[simp] theorem exec_red (S) (d) (a) (x) (o) (c) (s : State) : exec (.red S d a x o c) s = execRed S d a x o c s := rfl
@[simp] theorem exec_barm (S) (d) (a) (s : State) : exec (.barm S d a) s = execBarm S d a s := rfl
@[simp] theorem exec_bwait (S) (d) (a) (p) (s : State) : exec (.bwait S d a p) s = execBwait S d a p s := rfl
@[simp] theorem exec_vadd (S) (d) (a) (b) (k) (s : State) : exec (.vadd S d a b k) s = execVadd S d a b k s := rfl
@[simp] theorem exec_vsub (S) (d) (a) (b) (k) (s : State) : exec (.vsub S d a b k) s = execVsub S d a b k s := rfl
@[simp] theorem exec_vmul (S) (d) (a) (b) (k) (s : State) : exec (.vmul S d a b k) s = execVmul S d a b k s := rfl
@[simp] theorem exec_vfma (S) (d) (a) (b) (k) (s : State) : exec (.vfma S d a b k) s = execVfma S d a b k s := rfl
@[simp] theorem exec_vmin (S) (d) (a) (b) (k) (s : State) : exec (.vmin S d a b k) s = execVmin S d a b k s := rfl
@[simp] theorem exec_vmax (S) (d) (a) (b) (k) (s : State) : exec (.vmax S d a b k) s = execVmax S d a b k s := rfl
@[simp] theorem exec_vabs (S) (d) (a) (s : State) : exec (.vabs S d a) s = execVabs S d a s := rfl
@[simp] theorem exec_vneg (S) (d) (a) (s : State) : exec (.vneg S d a) s = execVneg S d a s := rfl
@[simp] theorem exec_vand (S) (d) (a) (b) (k) (s : State) : exec (.vand S d a b k) s = execVand S d a b k s := rfl
@[simp] theorem exec_vor (S) (d) (a) (b) (k) (s : State) : exec (.vor S d a b k) s = execVor S d a b k s := rfl
@[simp] theorem exec_vxor (S) (d) (a) (b) (k) (s : State) : exec (.vxor S d a b k) s = execVxor S d a b k s := rfl
@[simp] theorem exec_vshl (S) (d) (a) (b) (k) (s : State) : exec (.vshl S d a b k) s = execVshl S d a b k s := rfl
@[simp] theorem exec_vshr (S) (d) (a) (b) (k) (s : State) : exec (.vshr S d a b k) s = execVshr S d a b k s := rfl
@[simp] theorem exec_vsar (S) (d) (a) (b) (k) (s : State) : exec (.vsar S d a b k) s = execVsar S d a b k s := rfl
@[simp] theorem exec_vcmp (S) (d) (a) (b) (k) (m) (s : State) : exec (.vcmp S d a b k m) s = execVcmp S d a b k m s := rfl
@[simp] theorem exec_vsel (S) (d) (a) (b) (k) (s : State) : exec (.vsel S d a b k) s = execVsel S d a b k s := rfl
@[simp] theorem exec_vcvt (S) (d) (a) (s : State) : exec (.vcvt S d a) s = execVcvt S d a s := rfl
@[simp] theorem exec_vperm (S) (d) (a) (b) (k) (s : State) : exec (.vperm S d a b k) s = execVperm S d a b k s := rfl
@[simp] theorem exec_vbcast (S) (d) (b) (s : State) : exec (.vbcast S d b) s = execVbcast S d b s := rfl
@[simp] theorem exec_vred (S) (d) (a) (b) (m) (s : State) : exec (.vred S d a b m) s = execVred S d a b m s := rfl
@[simp] theorem exec_vscan (S) (d) (a) (b) (m) (s : State) : exec (.vscan S d a b m) s = execVscan S d a b m s := rfl
@[simp] theorem exec_vld (S) (d) (a) (b) (k) (m) (s : State) : exec (.vld S d a b k m) s = execVld S d a b k m s := rfl
@[simp] theorem exec_vst (S) (d) (a) (b) (k) (m) (s : State) : exec (.vst S d a b k m) s = execVst S d a b k m s := rfl
@[simp] theorem exec_vldx (S) (d) (a) (b) (s : State) : exec (.vldx S d a b) s = execVldx S d a b s := rfl
@[simp] theorem exec_vstx (S) (d) (a) (b) (s : State) : exec (.vstx S d a b) s = execVstx S d a b s := rfl
@[simp] theorem exec_vidx (S) (a) (b) (k) (m) (s : State) : exec (.vidx S a b k m) s = execVidx S a b k m s := rfl
@[simp] theorem exec_vsetvl (S) (d) (a) (s : State) : exec (.vsetvl S d a) s = execVsetvl S d a s := rfl
@[simp] theorem exec_vmovsWrite (S) (d) (a) (b) (s : State) : exec (.vmovsWrite S d a b) s = execVmovsWrite S d a b s := rfl
@[simp] theorem exec_vmovsRead (S) (d) (a) (b) (s : State) : exec (.vmovsRead S d a b) s = execVmovsRead S d a b s := rfl
@[simp] theorem exec_vrcp (S) (d) (a) (s : State) : exec (.vrcp S d a) s = execVrcp S d a s := rfl
@[simp] theorem exec_vrsqrt (S) (d) (a) (s : State) : exec (.vrsqrt S d a) s = execVrsqrt S d a s := rfl
@[simp] theorem exec_vexp2 (S) (d) (a) (s : State) : exec (.vexp2 S d a) s = execVexp2 S d a s := rfl
@[simp] theorem exec_vdot4 (S) (d) (a) (b) (s : State) : exec (.vdot4 S d a b) s = execVdot4 S d a b s := rfl
@[simp] theorem exec_mma (S) (c) (a) (b) (x) (p) (m) (s : State) : exec (.mma S c a b x p m) s = execMma S c a b x p m s := rfl
@[simp] theorem exec_mmr (S) (c) (a) (b) (x) (s : State) : exec (.mmr S c a b x) s = execMmr S c a b x s := rfl
@[simp] theorem exec_mtile (S) (d) (x) (p) (m) (s : State) : exec (.mtile S d x p m) s = execMtile S d x p m s := rfl
@[simp] theorem exec_mtileExpansion (s : State) : exec (.mtileExpansion) s = execMtileExpansion s := rfl
@[simp] theorem exec_mzero (S) (c) (p) (s : State) : exec (.mzero S c p) s = execMzero S c p s := rfl
@[simp] theorem exec_mrd (S) (d) (r) (c) (p) (s : State) : exec (.mrd S d r c p) s = execMrd S d r c p s := rfl
@[simp] theorem exec_mwr (S) (d) (r) (c) (p) (s : State) : exec (.mwr S d r c p) s = execMwr S d r c p s := rfl
@[simp] theorem exec_msk (S) (a) (s : State) : exec (.msk S a) s = execMsk S a s := rfl
@[simp] theorem exec_mcommit (S) (d) (s : State) : exec (.mcommit S d) s = execMcommit S d s := rfl
@[simp] theorem exec_mwaitb (S) (a) (s : State) : exec (.mwaitb S a) s = execMwaitb S a s := rfl
@[simp] theorem exec_mstat (S) (d) (a) (s : State) : exec (.mstat S d a) s = execMstat S d a s := rfl
@[simp] theorem exec_kprobe (S) (d) (a) (e) (s : State) : exec (.kprobe S d a e) s = execKprobe S d a e s := rfl
@[simp] theorem exec_kins (S) (d) (a) (e) (s : State) : exec (.kins S d a e) s = execKins S d a e s := rfl
@[simp] theorem exec_kups (S) (d) (a) (e) (s : State) : exec (.kups S d a e) s = execKups S d a e s := rfl
@[simp] theorem exec_krem (S) (d) (a) (e) (s : State) : exec (.krem S d a e) s = execKrem S d a e s := rfl
@[simp] theorem exec_knew (S) (d) (a) (b) (s : State) : exec (.knew S d a b) s = execKnew S d a b s := rfl
@[simp] theorem exec_kdel (S) (d) (a) (s : State) : exec (.kdel S d a) s = execKdel S d a s := rfl
@[simp] theorem exec_kpub (S) (d) (a) (b) (s : State) : exec (.kpub S d a b) s = execKpub S d a b s := rfl
@[simp] theorem exec_kcfg (S) (d) (a) (b) (s : State) : exec (.kcfg S d a b) s = execKcfg S d a b s := rfl
@[simp] theorem exec_kiter (S) (d) (a) (b) (s : State) : exec (.kiter S d a b) s = execKiter S d a b s := rfl
@[simp] theorem exec_kstat (S) (d) (a) (b) (s : State) : exec (.kstat S d a b) s = execKstat S d a b s := rfl
@[simp] theorem exec_fpush (S) (d) (a) (f) (s : State) : exec (.fpush S d a f) s = execFpush S d a f s := rfl
@[simp] theorem exec_fpop (S) (d) (f) (s : State) : exec (.fpop S d f) s = execFpop S d f s := rfl
@[simp] theorem exec_fpeek (S) (d) (f) (s : State) : exec (.fpeek S d f) s = execFpeek S d f s := rfl
@[simp] theorem exec_fstat (S) (d) (f) (s : State) : exec (.fstat S d f) s = execFstat S d f s := rfl
@[simp] theorem exec_pland (S) (d) (a) (l) (s : State) : exec (.pland S d a l) s = execPland S d a l s := rfl
@[simp] theorem exec_pcnt (S) (d) (l) (s : State) : exec (.pcnt S d l) s = execPcnt S d l s := rfl
@[simp] theorem exec_pwait (S) (d) (a) (l) (s : State) : exec (.pwait S d a l) s = execPwait S d a l s := rfl
@[simp] theorem exec_pcancel (S) (d) (l) (s : State) : exec (.pcancel S d l) s = execPcancel S d l s := rfl
@[simp] theorem exec_syncC (S) (d) (a) (c) (s : State) : exec (.syncC S d a c) s = execSyncC S d a c s := rfl
@[simp] theorem exec_syncX (S) (d) (c) (s : State) : exec (.syncX S d c) s = execSyncX S d c s := rfl
@[simp] theorem exec_xmit (S) (b) (o) (s : State) : exec (.xmit S b o) s = execXmit S b o s := rfl
@[simp] theorem exec_xsel (S) (b) (k) (o) (s : State) : exec (.xsel S b k o) s = execXsel S b k o s := rfl
@[simp] theorem exec_ssrd (S) (d) (a) (s : State) : exec (.ssrd S d a) s = execSsrd S d a s := rfl
@[simp] theorem exec_ulog (S) (d) (a) (o) (s : State) : exec (.ulog S d a o) s = execUlog S d a o s := rfl
@[simp] theorem exec_facq (S) (d) (a) (c) (k) (s : State) : exec (.facq S d a c k) s = execFacq S d a c k s := rfl
@[simp] theorem exec_fsur (S) (d) (a) (s : State) : exec (.fsur S d a) s = execFsur S d a s := rfl
@[simp] theorem exec_fans (S) (n) (s : State) : exec (.fans S n) s = execFans S n s := rfl
@[simp] theorem exec_frel (S) (d) (a) (s : State) : exec (.frel S d a) s = execFrel S d a s := rfl
@[simp] theorem exec_frecall (S) (d) (a) (s : State) : exec (.frecall S d a) s = execFrecall S d a s := rfl
@[simp] theorem exec_cwr (S) (d) (a) (b) (s : State) : exec (.cwr S d a b) s = execCwr S d a b s := rfl
@[simp] theorem exec_cclr (S) (d) (a) (b) (s : State) : exec (.cclr S d a b) s = execCclr S d a b s := rfl
@[simp] theorem exec_clrn (S) (d) (a) (b) (s : State) : exec (.clrn S d a b) s = execClrn S d a b s := rfl
@[simp] theorem exec_cdec (S) (d) (a) (b) (s : State) : exec (.cdec S d a b) s = execCdec S d a b s := rfl
@[simp] theorem exec_cback (S) (d) (a) (b) (s : State) : exec (.cback S d a b) s = execCback S d a b s := rfl
@[simp] theorem exec_cprop (S) (d) (a) (b) (s : State) : exec (.cprop S d a b) s = execCprop S d a b s := rfl
@[simp] theorem exec_ctrail (S) (d) (a) (b) (s : State) : exec (.ctrail S d a b) s = execCtrail S d a b s := rfl
@[simp] theorem exec_cval (S) (d) (a) (b) (s : State) : exec (.cval S d a b) s = execCval S d a b s := rfl
@[simp] theorem exec_cconf (S) (d) (a) (b) (s : State) : exec (.cconf S d a b) s = execCconf S d a b s := rfl
@[simp] theorem exec_launch (S) (d) (a) (s : State) : exec (.launch S d a) s = execLaunch S d a s := rfl
@[simp] theorem exec_hstart (S) (d) (a) (o) (s : State) : exec (.hstart S d a o) s = execHstart S d a o s := rfl
@[simp] theorem exec_hexit (S) (s : State) : exec (.hexit S) s = execHexit S s := rfl
@[simp] theorem exec_hjoin (S) (a) (s : State) : exec (.hjoin S a) s = execHjoin S a s := rfl
@[simp] theorem exec_gdone (S) (d) (a) (m) (s : State) : exec (.gdone S d a m) s = execGdone S d a m s := rfl
@[simp] theorem exec_schsel (S) (d) (a) (b) (s : State) : exec (.schsel S d a b) s = execSchsel S d a b s := rfl
@[simp] theorem exec_trap (S) (n) (s : State) : exec (.trap S n) s = execTrap S n s := rfl
@[simp] theorem exec_eret (S) (s : State) : exec (.eret S) s = execEret S s := rfl
@[simp] theorem exec_halt (S) (d) (a) (s : State) : exec (.halt S d a) s = execHalt S d a s := rfl
@[simp] theorem exec_yield (S) (s : State) : exec (.yield S) s = execYield S s := rfl
@[simp] theorem exec_srr (S) (d) (n) (s : State) : exec (.srr S d n) s = execSrr S d n s := rfl
@[simp] theorem exec_srw (S) (v) (n) (s : State) : exec (.srw S v n) s = execSrw S v n s := rfl
@[simp] theorem exec_wrd (S) (d) (a) (b) (s : State) : exec (.wrd S d a b) s = execWrd S d a b s := rfl
@[simp] theorem exec_wwr (S) (v) (a) (b) (s : State) : exec (.wwr S v a b) s = execWwr S v a b s := rfl
@[simp] theorem exec_wres (S) (d) (a) (b) (s : State) : exec (.wres S d a b) s = execWres S d a b s := rfl
@[simp] theorem exec_gen (S) (d) (a) (s : State) : exec (.gen S d a) s = execGen S d a s := rfl
@[simp] theorem exec_tlbi (S) (d) (a) (b) (s : State) : exec (.tlbi S d a b) s = execTlbi S d a b s := rfl
@[simp] theorem exec_scrub (S) (d) (a) (s : State) : exec (.scrub S d a) s = execScrub S d a s := rfl
@[simp] theorem exec_rpt (S) (m) (c) (t) (p) (s : State) : exec (.rpt S m c t p) s = execRpt S m c t p s := rfl
@[simp] theorem exec_pfx (S) (a) (b) (d) (r) (s : State) : exec (.pfx S a b d r) s = execPfx S a b d r s := rfl
@[simp] theorem exec_illegalWordHalt (s : State) : exec (.illegalWordHalt) s = execIllegalWordHalt s := rfl
@[simp] theorem exec_fetchFault (s : State) : exec (.fetchFault) s = execFetchFault s := rfl
@[simp] theorem exec_inOrderCheck (s : State) : exec (.inOrderCheck) s = execInOrderCheck s := rfl
@[simp] theorem exec_resultArrival (s : State) : exec (.resultArrival) s = execResultArrival s := rfl
@[simp] theorem exec_storeAcknowledgement (s : State) : exec (.storeAcknowledgement) s = execStoreAcknowledgement s := rfl
@[simp] theorem exec_trapEntry (s : State) : exec (.trapEntry) s = execTrapEntry s := rfl
@[simp] theorem exec_interrupt (s : State) : exec (.interrupt) s = execInterrupt s := rfl
@[simp] theorem exec_timerCompare (s : State) : exec (.timerCompare) s = execTimerCompare s := rfl
@[simp] theorem exec_tcmpWrite (s : State) : exec (.tcmpWrite) s = execTcmpWrite s := rfl
@[simp] theorem exec_ipendWrite (s : State) : exec (.ipendWrite) s = execIpendWrite s := rfl
@[simp] theorem exec_translationWalk (s : State) : exec (.translationWalk) s = execTranslationWalk s := rfl
@[simp] theorem exec_globalAccessAtSlice (s : State) : exec (.globalAccessAtSlice) s = execGlobalAccessAtSlice s := rfl
@[simp] theorem exec_releaseDepart (s : State) : exec (.releaseDepart) s = execReleaseDepart s := rfl
@[simp] theorem exec_watchArrival (s : State) : exec (.watchArrival) s = execWatchArrival s := rfl
@[simp] theorem exec_atomicAtSlice (s : State) : exec (.atomicAtSlice) s = execAtomicAtSlice s := rfl
@[simp] theorem exec_reductionAtSlice (s : State) : exec (.reductionAtSlice) s = execReductionAtSlice s := rfl
@[simp] theorem exec_barrierArrival (s : State) : exec (.barrierArrival) s = execBarrierArrival s := rfl
@[simp] theorem exec_vectorEntryBegin (s : State) : exec (.vectorEntryBegin) s = execVectorEntryBegin s := rfl
@[simp] theorem exec_gatheringPointBegin (s : State) : exec (.gatheringPointBegin) s = execGatheringPointBegin s := rfl
@[simp] theorem exec_vectorEntryRetire (s : State) : exec (.vectorEntryRetire) s = execVectorEntryRetire s := rfl
@[simp] theorem exec_matrixEntryBegin (s : State) : exec (.matrixEntryBegin) s = execMatrixEntryBegin s := rfl
@[simp] theorem exec_matrixEntryCompletion (s : State) : exec (.matrixEntryCompletion) s = execMatrixEntryCompletion s := rfl
@[simp] theorem exec_keyedOperationAccept (s : State) : exec (.keyedOperationAccept) s = execKeyedOperationAccept s := rfl
@[simp] theorem exec_combiningBufferWrite (s : State) : exec (.combiningBufferWrite) s = execCombiningBufferWrite s := rfl
@[simp] theorem exec_splitStep (s : State) : exec (.splitStep) s = execSplitStep s := rfl
@[simp] theorem exec_facetMigration (s : State) : exec (.facetMigration) s = execFacetMigration s := rfl
@[simp] theorem exec_mapUnitSurrender (s : State) : exec (.mapUnitSurrender) s = execMapUnitSurrender s := rfl
@[simp] theorem exec_copy (s : State) : exec (.copy) s = execCopy s := rfl
@[simp] theorem exec_copyl (s : State) : exec (.copyl) s = execCopyl s := rfl
@[simp] theorem exec_gather (s : State) : exec (.gather) s = execGather s := rfl
@[simp] theorem exec_gpre (s : State) : exec (.gpre) s = execGpre s := rfl
@[simp] theorem exec_hotset (s : State) : exec (.hotset) s = execHotset s := rfl
@[simp] theorem exec_codecCompress (s : State) : exec (.codecCompress) s = execCodecCompress s := rfl
@[simp] theorem exec_codecExpand (s : State) : exec (.codecExpand) s = execCodecExpand s := rfl
@[simp] theorem exec_codecBlockEncode (s : State) : exec (.codecBlockEncode) s = execCodecBlockEncode s := rfl
@[simp] theorem exec_codecBlockDecode (s : State) : exec (.codecBlockDecode) s = execCodecBlockDecode s := rfl
@[simp] theorem exec_pbcast (s : State) : exec (.pbcast) s = execPbcast s := rfl
@[simp] theorem exec_pgather (s : State) : exec (.pgather) s = execPgather s := rfl
@[simp] theorem exec_prscat (s : State) : exec (.prscat) s = execPrscat s := rfl
@[simp] theorem exec_prelay (s : State) : exec (.prelay) s = execPrelay s := rfl
@[simp] theorem exec_commandCompletion (s : State) : exec (.commandCompletion) s = execCommandCompletion s := rfl
@[simp] theorem exec_engineBlockSurrender (s : State) : exec (.engineBlockSurrender) s = execEngineBlockSurrender s := rfl
@[simp] theorem exec_sectionArrival (s : State) : exec (.sectionArrival) s = execSectionArrival s := rfl
@[simp] theorem exec_prscatChunkArrival (s : State) : exec (.prscatChunkArrival) s = execPrscatChunkArrival s := rfl
@[simp] theorem exec_cancelAtRouter (s : State) : exec (.cancelAtRouter) s = execCancelAtRouter s := rfl
@[simp] theorem exec_syncCRelease (s : State) : exec (.syncCRelease) s = execSyncCRelease s := rfl
@[simp] theorem exec_syncXRelease (s : State) : exec (.syncXRelease) s = execSyncXRelease s := rfl
@[simp] theorem exec_exchangeWordArrival (s : State) : exec (.exchangeWordArrival) s = execExchangeWordArrival s := rfl
@[simp] theorem exec_exchangeTimeout (s : State) : exec (.exchangeTimeout) s = execExchangeTimeout s := rfl
@[simp] theorem exec_uncorrectableError (s : State) : exec (.uncorrectableError) s = execUncorrectableError s := rfl
@[simp] theorem exec_rollback (s : State) : exec (.rollback) s = execRollback s := rfl
@[simp] theorem exec_viralEntry (s : State) : exec (.viralEntry) s = execViralEntry s := rfl
@[simp] theorem exec_arbitration (s : State) : exec (.arbitration) s = execArbitration s := rfl
@[simp] theorem exec_routineEntry (s : State) : exec (.routineEntry) s = execRoutineEntry s := rfl
@[simp] theorem exec_routineOverrun (s : State) : exec (.routineOverrun) s = execRoutineOverrun s := rfl
@[simp] theorem exec_finishDeadline (s : State) : exec (.finishDeadline) s = execFinishDeadline s := rfl
@[simp] theorem exec_clauseOperationAtArray (s : State) : exec (.clauseOperationAtArray) s = execClauseOperationAtArray s := rfl
@[simp] theorem exec_gangStart (s : State) : exec (.gangStart) s = execGangStart s := rfl
@[simp] theorem exec_switchOut (s : State) : exec (.switchOut) s = execSwitchOut s := rfl
@[simp] theorem exec_preemptionStamp (s : State) : exec (.preemptionStamp) s = execPreemptionStamp s := rfl
@[simp] theorem exec_resume (s : State) : exec (.resume) s = execResume s := rfl
@[simp] theorem exec_kill (s : State) : exec (.kill) s = execKill s := rfl
@[simp] theorem exec_gangCompletion (s : State) : exec (.gangCompletion) s = execGangCompletion s := rfl
@[simp] theorem exec_cycleBudgetExpiry (s : State) : exec (.cycleBudgetExpiry) s = execCycleBudgetExpiry s := rfl
@[simp] theorem exec_debugHaltLanding (s : State) : exec (.debugHaltLanding) s = execDebugHaltLanding s := rfl
@[simp] theorem exec_ipost (s : State) : exec (.ipost) s = execIpost s := rfl
@[simp] theorem exec_traceStart (s : State) : exec (.traceStart) s = execTraceStart s := rfl
@[simp] theorem exec_traceArm (s : State) : exec (.traceArm) s = execTraceArm s := rfl
@[simp] theorem exec_traceStamp (s : State) : exec (.traceStamp) s = execTraceStamp s := rfl
@[simp] theorem exec_traceStop (s : State) : exec (.traceStop) s = execTraceStop s := rfl
@[simp] theorem exec_traceEnd (s : State) : exec (.traceEnd) s = execTraceEnd s := rfl
@[simp] theorem exec_injectScalar (s : State) : exec (.injectScalar) s = execInjectScalar s := rfl
@[simp] theorem exec_injectVector (s : State) : exec (.injectVector) s = execInjectVector s := rfl
@[simp] theorem exec_injectMatrix (s : State) : exec (.injectMatrix) s = execInjectMatrix s := rfl
@[simp] theorem exec_hostMemoryAccess (s : State) : exec (.hostMemoryAccess) s = execHostMemoryAccess s := rfl
@[simp] theorem exec_hostCommand (s : State) : exec (.hostCommand) s = execHostCommand s := rfl
@[simp] theorem exec_warmReset (s : State) : exec (.warmReset) s = execWarmReset s := rfl
@[simp] theorem exec_coldReset (s : State) : exec (.coldReset) s = execColdReset s := rfl
@[simp] theorem exec_plimWrite (s : State) : exec (.plimWrite) s = execPlimWrite s := rfl
@[simp] theorem exec_tenantChange (s : State) : exec (.tenantChange) s = execTenantChange s := rfl
@[simp] theorem exec_notifyRegister (s : State) : exec (.notifyRegister) s = execNotifyRegister s := rfl
@[simp] theorem exec_quoteRequest (s : State) : exec (.quoteRequest) s = execQuoteRequest s := rfl
@[simp] theorem exec_flitReceive (s : State) : exec (.flitReceive) s = execFlitReceive s := rfl
@[simp] theorem exec_replayTimeout (s : State) : exec (.replayTimeout) s = execReplayTimeout s := rfl
@[simp] theorem exec_laneFailure (s : State) : exec (.laneFailure) s = execLaneFailure s := rfl
@[simp] theorem exec_portRetrainDone (s : State) : exec (.portRetrainDone) s = execPortRetrainDone s := rfl
@[simp] theorem exec_remoteRequest (s : State) : exec (.remoteRequest) s = execRemoteRequest s := rfl
@[simp] theorem exec_hbmScrubPass (s : State) : exec (.hbmScrubPass) s = execHbmScrubPass s := rfl
@[simp] theorem exec_powerSample (s : State) : exec (.powerSample) s = execPowerSample s := rfl
@[simp] theorem exec_startUp (s : State) : exec (.startUp) s = execStartUp s := rfl
@[simp] theorem exec_startFailedReset (s : State) : exec (.startFailedReset) s = execStartFailedReset s := rfl
@[simp] theorem exec_portReset (s : State) : exec (.portReset) s = execPortReset s := rfl
@[simp] theorem exec_resumeStamp (s : State) : exec (.resumeStamp) s = execResumeStamp s := rfl
@[simp] theorem exec_bootRecordPinWrite (s : State) : exec (.bootRecordPinWrite) s = execBootRecordPinWrite s := rfl

end Sys2Proof.Machine
end

