-- ==== Sys2Proof/Laws/SMap.lean ====
section
/-! SUPPORT. The laws of the sparse tables: a read after a write, and the canonical form, which every operation keeps. -/
namespace Sys2Proof.Machine

@[simp] theorem SMap.get_nil {α : Type} (d : α) (k : Nat) : SMap.get d [] k = d := rfl

/-- Reading the key just written gives the value written; any other key reads as before. -/
theorem SMap.get_put {α : Type} (d : α) (m : SMap α) (k j : Nat) (v : α) :
    SMap.get d (SMap.put m k v) j = if k = j then v else SMap.get d m j := by
  induction m with
  | nil => simp [SMap.put, SMap.get]
  | cons e m ih =>
    obtain ⟨i, w⟩ := e
    simp only [SMap.put]
    split
    · simp [SMap.get]
    · split
      · subst_vars; simp only [SMap.get]; split <;> simp_all
      · simp only [SMap.get, ih]; split
        · split
          · omega
          · rfl
        · rfl

@[simp] theorem SMap.get_put_same {α : Type} (d : α) (m : SMap α) (k : Nat) (v : α) :
    SMap.get d (SMap.put m k v) k = v := by simp [SMap.get_put]

theorem SMap.get_put_other {α : Type} (d : α) (m : SMap α) {k j : Nat} (v : α) (h : k ≠ j) :
    SMap.get d (SMap.put m k v) j = SMap.get d m j := by simp [SMap.get_put, h]

/-- Unlisting a key makes it read as unlisted. -/
theorem SMap.get_del {α : Type} (d : α) (m : SMap α) (k j : Nat) :
    SMap.get d (SMap.del m k) j = if k = j then d else SMap.get d m j := by
  induction m with
  | nil => simp [SMap.del, SMap.get]
  | cons e m ih =>
    obtain ⟨i, w⟩ := e
    simp only [SMap.del]
    split
    · subst_vars; rw [ih]; split <;> simp_all [SMap.get]
    · simp only [SMap.get, ih]; split
      · split
        · omega
        · rfl
      · rfl

/-- A read after a store, by default. -/
theorem SMap.get_set {α : Type} [DecidableEq α] (d : α) (m : SMap α) (k j : Nat) (v : α) :
    SMap.get d (SMap.set d m k v) j = if k = j then v else SMap.get d m j := by
  unfold SMap.set
  split
  · subst_vars; exact SMap.get_del _ _ _ _
  · exact SMap.get_put d m k j v

@[simp] theorem SMap.get_set_same {α : Type} [DecidableEq α] (d : α) (m : SMap α) (k : Nat) (v : α) :
    SMap.get d (SMap.set d m k v) k = v := by simp [SMap.get_set]

theorem SMap.get_set_other {α : Type} [DecidableEq α] (d : α) (m : SMap α) {k j : Nat} (v : α) (h : k ≠ j) :
    SMap.get d (SMap.set d m k v) j = SMap.get d m j := by simp [SMap.get_set, h]

/-- What is found at a key after a write. -/
theorem SMap.find_put {α : Type} (m : SMap α) (k j : Nat) (v : α) :
    SMap.find (SMap.put m k v) j = if k = j then some v else SMap.find m j := by
  induction m with
  | nil => simp [SMap.put, SMap.find]
  | cons e m ih =>
    obtain ⟨i, w⟩ := e
    simp only [SMap.put]
    split
    · simp [SMap.find]
    · split
      · subst_vars; simp only [SMap.find]; split <;> simp_all
      · simp only [SMap.find, ih]; split
        · split
          · omega
          · rfl
        · rfl

@[simp] theorem SMap.find_put_same {α : Type} (m : SMap α) (k : Nat) (v : α) : SMap.find (SMap.put m k v) k = some v := by
  simp [SMap.find_put]

/-- What is found at a key after another, or the same, was unlisted. -/
theorem SMap.find_del {α : Type} (m : SMap α) (k j : Nat) :
    SMap.find (SMap.del m k) j = if k = j then none else SMap.find m j := by
  induction m with
  | nil => simp [SMap.del, SMap.find]
  | cons e m ih =>
    obtain ⟨i, w⟩ := e
    simp only [SMap.del]
    split
    · subst_vars; rw [ih]; split <;> simp_all [SMap.find]
    · simp only [SMap.find, ih]; split
      · split
        · omega
        · rfl
      · rfl

/-! ### The canonical form -/

theorem SMap.rising_mono {α : Type} {m : SMap α} {lo hi : Nat} (h : SMap.rising hi m = true) (le : lo ≤ hi) :
    SMap.rising lo m = true := by
  cases m with
  | nil => rfl
  | cons e m => simp only [SMap.rising, Bool.and_eq_true, decide_eq_true_eq] at *; exact ⟨by omega, h.2⟩

theorem SMap.rising_put {α : Type} {m : SMap α} {lo k : Nat} {v : α} (h : SMap.rising lo m = true) (le : lo ≤ k) :
    SMap.rising lo (SMap.put m k v) = true := by
  induction m generalizing lo with
  | nil => simp [SMap.put, SMap.rising, le]
  | cons e m ih =>
    obtain ⟨i, w⟩ := e
    simp only [SMap.rising, Bool.and_eq_true, decide_eq_true_eq] at h
    simp only [SMap.put]
    split
    · simp only [SMap.rising, Bool.and_eq_true, decide_eq_true_eq]; exact ⟨le, by omega, h.2⟩
    · split
      · subst_vars; simp only [SMap.rising, Bool.and_eq_true, decide_eq_true_eq]; exact ⟨le, h.2⟩
      · simp only [SMap.rising, Bool.and_eq_true, decide_eq_true_eq]; exact ⟨h.1, ih h.2 (by omega)⟩

theorem SMap.rising_del {α : Type} {m : SMap α} {lo k : Nat} (h : SMap.rising lo m = true) :
    SMap.rising lo (SMap.del m k) = true := by
  induction m generalizing lo with
  | nil => rfl
  | cons e m ih =>
    obtain ⟨i, w⟩ := e
    simp only [SMap.rising, Bool.and_eq_true, decide_eq_true_eq] at h
    simp only [SMap.del]
    split
    · exact SMap.rising_mono (ih h.2) (by omega)
    · simp only [SMap.rising, Bool.and_eq_true, decide_eq_true_eq]; exact ⟨h.1, ih h.2⟩

theorem SMap.all_put {α : Type} {m : SMap α} {k : Nat} {v : α} {p : Nat × α → Bool} (h : m.all p = true)
    (hv : p (k, v) = true) : (SMap.put m k v).all p = true := by
  induction m with
  | nil => simp [SMap.put, hv]
  | cons e m ih =>
    obtain ⟨i, w⟩ := e
    simp only [List.all_cons, Bool.and_eq_true] at h
    simp only [SMap.put]
    split
    · simp [List.all_cons, hv, h.1]; simpa using h.2
    · split
      · simp [List.all_cons, hv]; simpa using h.2
      · simp only [List.all_cons, h.1, ih h.2, Bool.and_self]

theorem SMap.all_del {α : Type} {m : SMap α} {k : Nat} {p : Nat × α → Bool} (h : m.all p = true) :
    (SMap.del m k).all p = true := by
  induction m with
  | nil => rfl
  | cons e m ih =>
    obtain ⟨i, w⟩ := e
    simp only [List.all_cons, Bool.and_eq_true] at h
    simp only [SMap.del]
    split
    · exact ih h.2
    · simp only [List.all_cons, h.1, ih h.2, Bool.and_self]

/-- A store keeps a table in canonical form. -/
theorem SMap.wf_set {α : Type} [DecidableEq α] {d : α} {m : SMap α} (k : Nat) (v : α) (h : SMap.wf d m = true) :
    SMap.wf d (SMap.set d m k v) = true := by
  unfold SMap.wf at *
  rw [Bool.and_eq_true] at *
  unfold SMap.set
  split
  · exact ⟨SMap.rising_del h.1, SMap.all_del h.2⟩
  · next hv => exact ⟨SMap.rising_put h.1 (by omega), SMap.all_put h.2 (by simpa using hv)⟩

@[simp] theorem SMap.wf_nil {α : Type} [DecidableEq α] (d : α) : SMap.wf d ([] : SMap α) = true := rfl

/-- In canonical form, tables that read alike are equal. -/
theorem SMap.get_lt_rising {α : Type} (d : α) {m : SMap α} {lo k : Nat} (h : SMap.rising lo m = true) (lt : k < lo) :
    SMap.get d m k = d := by
  induction m generalizing lo with
  | nil => rfl
  | cons e m ih =>
    obtain ⟨i, w⟩ := e
    simp only [SMap.rising, Bool.and_eq_true, decide_eq_true_eq] at h
    simp only [SMap.get]
    split
    · omega
    · exact ih h.2 (by omega)

end Sys2Proof.Machine
end

