-- ==== Sys2Proof/Laws/State.lean ====
section
/-! SUPPORT. One lemma for each field after each basic update of the state, of a core and of a context. -/
namespace Sys2Proof.Machine

/-! ### setCore -/

@[simp] theorem State.setCore_now (s : State) (c : Nat) (k : CoreState) : (s.setCore c k).now = s.now := rfl
@[simp] theorem State.setCore_clk (s : State) (c : Nat) (k : CoreState) : (s.setCore c k).clk = s.clk := rfl
@[simp] theorem State.setCore_tb (s : State) (c : Nat) (k : CoreState) : (s.setCore c k).tb = s.tb := rfl
@[simp] theorem State.setCore_tbFrac (s : State) (c : Nat) (k : CoreState) : (s.setCore c k).tbFrac = s.tbFrac := rfl
@[simp] theorem State.setCore_cc (s : State) (c : Nat) (k : CoreState) : (s.setCore c k).cc = s.cc := rfl
@[simp] theorem State.setCore_cx (s : State) (c : Nat) (k : CoreState) : (s.setCore c k).cx = s.cx := rfl
@[simp] theorem State.setCore_scan (s : State) (c : Nat) (k : CoreState) : (s.setCore c k).scan = s.scan := rfl
@[simp] theorem State.setCore_fresh (s : State) (c : Nat) (k : CoreState) : (s.setCore c k).fresh = s.fresh := rfl
@[simp] theorem State.setCore_nextId (s : State) (c : Nat) (k : CoreState) : (s.setCore c k).nextId = s.nextId := rfl
@[simp] theorem State.setCore_code (s : State) (c : Nat) (k : CoreState) : (s.setCore c k).code = s.code := rfl
@[simp] theorem State.setCore_ev (s : State) (c : Nat) (k : CoreState) : (s.setCore c k).ev = s.ev := rfl
@[simp] theorem State.setCore_cal (s : State) (c : Nat) (k : CoreState) : (s.setCore c k).cal = s.cal := rfl
@[simp] theorem State.setCore_inputs (s : State) (c : Nat) (k : CoreState) : (s.setCore c k).inputs = s.inputs := rfl
@[simp] theorem State.setCore_cores (s : State) (c : Nat) (k : CoreState) : (s.setCore c k).cores = SMap.put s.cores c k := rfl
@[simp] theorem State.setCore_mem (s : State) (c : Nat) (k : CoreState) : (s.setCore c k).mem = s.mem := rfl
@[simp] theorem State.setCore_stale (s : State) (c : Nat) (k : CoreState) : (s.setCore c k).stale = s.stale := rfl
@[simp] theorem State.setCore_spaces (s : State) (c : Nat) (k : CoreState) : (s.setCore c k).spaces = s.spaces := rfl
@[simp] theorem State.setCore_parts (s : State) (c : Nat) (k : CoreState) : (s.setCore c k).parts = s.parts := rfl
@[simp] theorem State.setCore_gangs (s : State) (c : Nat) (k : CoreState) : (s.setCore c k).gangs = s.gangs := rfl
@[simp] theorem State.setCore_sched (s : State) (c : Nat) (k : CoreState) : (s.setCore c k).sched = s.sched := rfl
@[simp] theorem State.setCore_counters (s : State) (c : Nat) (k : CoreState) : (s.setCore c k).counters = s.counters := rfl
@[simp] theorem State.setCore_reqs (s : State) (c : Nat) (k : CoreState) : (s.setCore c k).reqs = s.reqs := rfl
@[simp] theorem State.setCore_held (s : State) (c : Nat) (k : CoreState) : (s.setCore c k).held = s.held := rfl
@[simp] theorem State.setCore_resps (s : State) (c : Nat) (k : CoreState) : (s.setCore c k).resps = s.resps := rfl
@[simp] theorem State.setCore_watches (s : State) (c : Nat) (k : CoreState) : (s.setCore c k).watches = s.watches := rfl
@[simp] theorem State.setCore_journals (s : State) (c : Nat) (k : CoreState) : (s.setCore c k).journals = s.journals := rfl
@[simp] theorem State.setCore_did (s : State) (c : Nat) (k : CoreState) : (s.setCore c k).did = s.did := rfl
@[simp] theorem State.setCore_units (s : State) (c : Nat) (k : CoreState) : (s.setCore c k).units = s.units := rfl
@[simp] theorem State.setCore_halts (s : State) (c : Nat) (k : CoreState) : (s.setCore c k).halts = s.halts := rfl
@[simp] theorem State.setCore_genWaits (s : State) (c : Nat) (k : CoreState) : (s.setCore c k).genWaits = s.genWaits := rfl
@[simp] theorem State.setCore_tlbWaits (s : State) (c : Nat) (k : CoreState) : (s.setCore c k).tlbWaits = s.tlbWaits := rfl
@[simp] theorem State.setCore_traces (s : State) (c : Nat) (k : CoreState) : (s.setCore c k).traces = s.traces := rfl
@[simp] theorem State.setCore_chkCore (s : State) (c : Nat) (k : CoreState) : (s.setCore c k).chkCore = s.chkCore := rfl
@[simp] theorem State.setCore_mism (s : State) (c : Nat) (k : CoreState) : (s.setCore c k).mism = s.mism := rfl
@[simp] theorem State.setCore_viral (s : State) (c : Nat) (k : CoreState) : (s.setCore c k).viral = s.viral := rfl
@[simp] theorem State.setCore_virSrc (s : State) (c : Nat) (k : CoreState) : (s.setCore c k).virSrc = s.virSrc := rfl
@[simp] theorem State.setCore_virUnit (s : State) (c : Nat) (k : CoreState) : (s.setCore c k).virUnit = s.virUnit := rfl
@[simp] theorem State.setCore_vgroups (s : State) (c : Nat) (k : CoreState) : (s.setCore c k).vgroups = s.vgroups := rfl
@[simp] theorem State.setCore_xfers (s : State) (c : Nat) (k : CoreState) : (s.setCore c k).xfers = s.xfers := rfl
@[simp] theorem State.setCore_unitReqs (s : State) (c : Nat) (k : CoreState) : (s.setCore c k).unitReqs = s.unitReqs := rfl
@[simp] theorem State.setCore_refusals (s : State) (c : Nat) (k : CoreState) : (s.setCore c k).refusals = s.refusals := rfl
@[simp] theorem State.setCore_arrays (s : State) (c : Nat) (k : CoreState) : (s.setCore c k).arrays = s.arrays := rfl
@[simp] theorem State.setCore_clauseReqs (s : State) (c : Nat) (k : CoreState) : (s.setCore c k).clauseReqs = s.clauseReqs := rfl
@[simp] theorem State.setCore_maps (s : State) (c : Nat) (k : CoreState) : (s.setCore c k).maps = s.maps := rfl
@[simp] theorem State.setCore_versions (s : State) (c : Nat) (k : CoreState) : (s.setCore c k).versions = s.versions := rfl
@[simp] theorem State.setCore_kreqs (s : State) (c : Nat) (k : CoreState) : (s.setCore c k).kreqs = s.kreqs := rfl
@[simp] theorem State.setCore_kwait (s : State) (c : Nat) (k : CoreState) : (s.setCore c k).kwait = s.kwait := rfl
@[simp] theorem State.setCore_combs (s : State) (c : Nat) (k : CoreState) : (s.setCore c k).combs = s.combs := rfl
@[simp] theorem State.setCore_hots (s : State) (c : Nat) (k : CoreState) : (s.setCore c k).hots = s.hots := rfl
@[simp] theorem State.setCore_sides (s : State) (c : Nat) (k : CoreState) : (s.setCore c k).sides = s.sides := rfl
@[simp] theorem State.setCore_landq (s : State) (c : Nat) (k : CoreState) : (s.setCore c k).landq = s.landq := rfl
@[simp] theorem State.setCore_md (s : State) (c : Nat) (k : CoreState) : (s.setCore c k).md = s.md := rfl

/-! ### modCore -/

@[simp] theorem State.modCore_now (s : State) (c : Nat) (f : CoreState → CoreState) : (s.modCore c f).now = s.now := rfl
@[simp] theorem State.modCore_clk (s : State) (c : Nat) (f : CoreState → CoreState) : (s.modCore c f).clk = s.clk := rfl
@[simp] theorem State.modCore_tb (s : State) (c : Nat) (f : CoreState → CoreState) : (s.modCore c f).tb = s.tb := rfl
@[simp] theorem State.modCore_tbFrac (s : State) (c : Nat) (f : CoreState → CoreState) : (s.modCore c f).tbFrac = s.tbFrac := rfl
@[simp] theorem State.modCore_cc (s : State) (c : Nat) (f : CoreState → CoreState) : (s.modCore c f).cc = s.cc := rfl
@[simp] theorem State.modCore_cx (s : State) (c : Nat) (f : CoreState → CoreState) : (s.modCore c f).cx = s.cx := rfl
@[simp] theorem State.modCore_scan (s : State) (c : Nat) (f : CoreState → CoreState) : (s.modCore c f).scan = s.scan := rfl
@[simp] theorem State.modCore_fresh (s : State) (c : Nat) (f : CoreState → CoreState) : (s.modCore c f).fresh = s.fresh := rfl
@[simp] theorem State.modCore_nextId (s : State) (c : Nat) (f : CoreState → CoreState) : (s.modCore c f).nextId = s.nextId := rfl
@[simp] theorem State.modCore_code (s : State) (c : Nat) (f : CoreState → CoreState) : (s.modCore c f).code = s.code := rfl
@[simp] theorem State.modCore_ev (s : State) (c : Nat) (f : CoreState → CoreState) : (s.modCore c f).ev = s.ev := rfl
@[simp] theorem State.modCore_cal (s : State) (c : Nat) (f : CoreState → CoreState) : (s.modCore c f).cal = s.cal := rfl
@[simp] theorem State.modCore_inputs (s : State) (c : Nat) (f : CoreState → CoreState) : (s.modCore c f).inputs = s.inputs := rfl
@[simp] theorem State.modCore_cores (s : State) (c : Nat) (f : CoreState → CoreState) : (s.modCore c f).cores = SMap.put s.cores c (f (s.core c)) := rfl
@[simp] theorem State.modCore_mem (s : State) (c : Nat) (f : CoreState → CoreState) : (s.modCore c f).mem = s.mem := rfl
@[simp] theorem State.modCore_stale (s : State) (c : Nat) (f : CoreState → CoreState) : (s.modCore c f).stale = s.stale := rfl
@[simp] theorem State.modCore_spaces (s : State) (c : Nat) (f : CoreState → CoreState) : (s.modCore c f).spaces = s.spaces := rfl
@[simp] theorem State.modCore_parts (s : State) (c : Nat) (f : CoreState → CoreState) : (s.modCore c f).parts = s.parts := rfl
@[simp] theorem State.modCore_gangs (s : State) (c : Nat) (f : CoreState → CoreState) : (s.modCore c f).gangs = s.gangs := rfl
@[simp] theorem State.modCore_sched (s : State) (c : Nat) (f : CoreState → CoreState) : (s.modCore c f).sched = s.sched := rfl
@[simp] theorem State.modCore_counters (s : State) (c : Nat) (f : CoreState → CoreState) : (s.modCore c f).counters = s.counters := rfl
@[simp] theorem State.modCore_reqs (s : State) (c : Nat) (f : CoreState → CoreState) : (s.modCore c f).reqs = s.reqs := rfl
@[simp] theorem State.modCore_held (s : State) (c : Nat) (f : CoreState → CoreState) : (s.modCore c f).held = s.held := rfl
@[simp] theorem State.modCore_resps (s : State) (c : Nat) (f : CoreState → CoreState) : (s.modCore c f).resps = s.resps := rfl
@[simp] theorem State.modCore_watches (s : State) (c : Nat) (f : CoreState → CoreState) : (s.modCore c f).watches = s.watches := rfl
@[simp] theorem State.modCore_journals (s : State) (c : Nat) (f : CoreState → CoreState) : (s.modCore c f).journals = s.journals := rfl
@[simp] theorem State.modCore_did (s : State) (c : Nat) (f : CoreState → CoreState) : (s.modCore c f).did = s.did := rfl
@[simp] theorem State.modCore_units (s : State) (c : Nat) (f : CoreState → CoreState) : (s.modCore c f).units = s.units := rfl
@[simp] theorem State.modCore_halts (s : State) (c : Nat) (f : CoreState → CoreState) : (s.modCore c f).halts = s.halts := rfl
@[simp] theorem State.modCore_genWaits (s : State) (c : Nat) (f : CoreState → CoreState) : (s.modCore c f).genWaits = s.genWaits := rfl
@[simp] theorem State.modCore_tlbWaits (s : State) (c : Nat) (f : CoreState → CoreState) : (s.modCore c f).tlbWaits = s.tlbWaits := rfl
@[simp] theorem State.modCore_traces (s : State) (c : Nat) (f : CoreState → CoreState) : (s.modCore c f).traces = s.traces := rfl
@[simp] theorem State.modCore_chkCore (s : State) (c : Nat) (f : CoreState → CoreState) : (s.modCore c f).chkCore = s.chkCore := rfl
@[simp] theorem State.modCore_mism (s : State) (c : Nat) (f : CoreState → CoreState) : (s.modCore c f).mism = s.mism := rfl
@[simp] theorem State.modCore_viral (s : State) (c : Nat) (f : CoreState → CoreState) : (s.modCore c f).viral = s.viral := rfl
@[simp] theorem State.modCore_virSrc (s : State) (c : Nat) (f : CoreState → CoreState) : (s.modCore c f).virSrc = s.virSrc := rfl
@[simp] theorem State.modCore_virUnit (s : State) (c : Nat) (f : CoreState → CoreState) : (s.modCore c f).virUnit = s.virUnit := rfl
@[simp] theorem State.modCore_vgroups (s : State) (c : Nat) (f : CoreState → CoreState) : (s.modCore c f).vgroups = s.vgroups := rfl
@[simp] theorem State.modCore_xfers (s : State) (c : Nat) (f : CoreState → CoreState) : (s.modCore c f).xfers = s.xfers := rfl
@[simp] theorem State.modCore_unitReqs (s : State) (c : Nat) (f : CoreState → CoreState) : (s.modCore c f).unitReqs = s.unitReqs := rfl
@[simp] theorem State.modCore_refusals (s : State) (c : Nat) (f : CoreState → CoreState) : (s.modCore c f).refusals = s.refusals := rfl
@[simp] theorem State.modCore_arrays (s : State) (c : Nat) (f : CoreState → CoreState) : (s.modCore c f).arrays = s.arrays := rfl
@[simp] theorem State.modCore_clauseReqs (s : State) (c : Nat) (f : CoreState → CoreState) : (s.modCore c f).clauseReqs = s.clauseReqs := rfl
@[simp] theorem State.modCore_maps (s : State) (c : Nat) (f : CoreState → CoreState) : (s.modCore c f).maps = s.maps := rfl
@[simp] theorem State.modCore_versions (s : State) (c : Nat) (f : CoreState → CoreState) : (s.modCore c f).versions = s.versions := rfl
@[simp] theorem State.modCore_kreqs (s : State) (c : Nat) (f : CoreState → CoreState) : (s.modCore c f).kreqs = s.kreqs := rfl
@[simp] theorem State.modCore_kwait (s : State) (c : Nat) (f : CoreState → CoreState) : (s.modCore c f).kwait = s.kwait := rfl
@[simp] theorem State.modCore_combs (s : State) (c : Nat) (f : CoreState → CoreState) : (s.modCore c f).combs = s.combs := rfl
@[simp] theorem State.modCore_hots (s : State) (c : Nat) (f : CoreState → CoreState) : (s.modCore c f).hots = s.hots := rfl
@[simp] theorem State.modCore_sides (s : State) (c : Nat) (f : CoreState → CoreState) : (s.modCore c f).sides = s.sides := rfl
@[simp] theorem State.modCore_landq (s : State) (c : Nat) (f : CoreState → CoreState) : (s.modCore c f).landq = s.landq := rfl
@[simp] theorem State.modCore_md (s : State) (c : Nat) (f : CoreState → CoreState) : (s.modCore c f).md = s.md := rfl

/-! ### setCtx -/

@[simp] theorem State.setCtx_now (s : State) (c x : Nat) (t : Ctx) : (s.setCtx c x t).now = s.now := rfl
@[simp] theorem State.setCtx_clk (s : State) (c x : Nat) (t : Ctx) : (s.setCtx c x t).clk = s.clk := rfl
@[simp] theorem State.setCtx_tb (s : State) (c x : Nat) (t : Ctx) : (s.setCtx c x t).tb = s.tb := rfl
@[simp] theorem State.setCtx_tbFrac (s : State) (c x : Nat) (t : Ctx) : (s.setCtx c x t).tbFrac = s.tbFrac := rfl
@[simp] theorem State.setCtx_cc (s : State) (c x : Nat) (t : Ctx) : (s.setCtx c x t).cc = s.cc := rfl
@[simp] theorem State.setCtx_cx (s : State) (c x : Nat) (t : Ctx) : (s.setCtx c x t).cx = s.cx := rfl
@[simp] theorem State.setCtx_scan (s : State) (c x : Nat) (t : Ctx) : (s.setCtx c x t).scan = s.scan := rfl
@[simp] theorem State.setCtx_fresh (s : State) (c x : Nat) (t : Ctx) : (s.setCtx c x t).fresh = s.fresh := rfl
@[simp] theorem State.setCtx_nextId (s : State) (c x : Nat) (t : Ctx) : (s.setCtx c x t).nextId = s.nextId := rfl
@[simp] theorem State.setCtx_code (s : State) (c x : Nat) (t : Ctx) : (s.setCtx c x t).code = s.code := rfl
@[simp] theorem State.setCtx_ev (s : State) (c x : Nat) (t : Ctx) : (s.setCtx c x t).ev = s.ev := rfl
@[simp] theorem State.setCtx_cal (s : State) (c x : Nat) (t : Ctx) : (s.setCtx c x t).cal = s.cal := rfl
@[simp] theorem State.setCtx_inputs (s : State) (c x : Nat) (t : Ctx) : (s.setCtx c x t).inputs = s.inputs := rfl
@[simp] theorem State.setCtx_cores (s : State) (c x : Nat) (t : Ctx) : (s.setCtx c x t).cores = SMap.put s.cores c ((s.core c).setCtx x t) := rfl
@[simp] theorem State.setCtx_mem (s : State) (c x : Nat) (t : Ctx) : (s.setCtx c x t).mem = s.mem := rfl
@[simp] theorem State.setCtx_stale (s : State) (c x : Nat) (t : Ctx) : (s.setCtx c x t).stale = s.stale := rfl
@[simp] theorem State.setCtx_spaces (s : State) (c x : Nat) (t : Ctx) : (s.setCtx c x t).spaces = s.spaces := rfl
@[simp] theorem State.setCtx_parts (s : State) (c x : Nat) (t : Ctx) : (s.setCtx c x t).parts = s.parts := rfl
@[simp] theorem State.setCtx_gangs (s : State) (c x : Nat) (t : Ctx) : (s.setCtx c x t).gangs = s.gangs := rfl
@[simp] theorem State.setCtx_sched (s : State) (c x : Nat) (t : Ctx) : (s.setCtx c x t).sched = s.sched := rfl
@[simp] theorem State.setCtx_counters (s : State) (c x : Nat) (t : Ctx) : (s.setCtx c x t).counters = s.counters := rfl
@[simp] theorem State.setCtx_reqs (s : State) (c x : Nat) (t : Ctx) : (s.setCtx c x t).reqs = s.reqs := rfl
@[simp] theorem State.setCtx_held (s : State) (c x : Nat) (t : Ctx) : (s.setCtx c x t).held = s.held := rfl
@[simp] theorem State.setCtx_resps (s : State) (c x : Nat) (t : Ctx) : (s.setCtx c x t).resps = s.resps := rfl
@[simp] theorem State.setCtx_watches (s : State) (c x : Nat) (t : Ctx) : (s.setCtx c x t).watches = s.watches := rfl
@[simp] theorem State.setCtx_journals (s : State) (c x : Nat) (t : Ctx) : (s.setCtx c x t).journals = s.journals := rfl
@[simp] theorem State.setCtx_did (s : State) (c x : Nat) (t : Ctx) : (s.setCtx c x t).did = s.did := rfl
@[simp] theorem State.setCtx_units (s : State) (c x : Nat) (t : Ctx) : (s.setCtx c x t).units = s.units := rfl
@[simp] theorem State.setCtx_halts (s : State) (c x : Nat) (t : Ctx) : (s.setCtx c x t).halts = s.halts := rfl
@[simp] theorem State.setCtx_genWaits (s : State) (c x : Nat) (t : Ctx) : (s.setCtx c x t).genWaits = s.genWaits := rfl
@[simp] theorem State.setCtx_tlbWaits (s : State) (c x : Nat) (t : Ctx) : (s.setCtx c x t).tlbWaits = s.tlbWaits := rfl
@[simp] theorem State.setCtx_traces (s : State) (c x : Nat) (t : Ctx) : (s.setCtx c x t).traces = s.traces := rfl
@[simp] theorem State.setCtx_chkCore (s : State) (c x : Nat) (t : Ctx) : (s.setCtx c x t).chkCore = s.chkCore := rfl
@[simp] theorem State.setCtx_mism (s : State) (c x : Nat) (t : Ctx) : (s.setCtx c x t).mism = s.mism := rfl
@[simp] theorem State.setCtx_viral (s : State) (c x : Nat) (t : Ctx) : (s.setCtx c x t).viral = s.viral := rfl
@[simp] theorem State.setCtx_virSrc (s : State) (c x : Nat) (t : Ctx) : (s.setCtx c x t).virSrc = s.virSrc := rfl
@[simp] theorem State.setCtx_virUnit (s : State) (c x : Nat) (t : Ctx) : (s.setCtx c x t).virUnit = s.virUnit := rfl
@[simp] theorem State.setCtx_vgroups (s : State) (c x : Nat) (t : Ctx) : (s.setCtx c x t).vgroups = s.vgroups := rfl
@[simp] theorem State.setCtx_xfers (s : State) (c x : Nat) (t : Ctx) : (s.setCtx c x t).xfers = s.xfers := rfl
@[simp] theorem State.setCtx_unitReqs (s : State) (c x : Nat) (t : Ctx) : (s.setCtx c x t).unitReqs = s.unitReqs := rfl
@[simp] theorem State.setCtx_refusals (s : State) (c x : Nat) (t : Ctx) : (s.setCtx c x t).refusals = s.refusals := rfl
@[simp] theorem State.setCtx_arrays (s : State) (c x : Nat) (t : Ctx) : (s.setCtx c x t).arrays = s.arrays := rfl
@[simp] theorem State.setCtx_clauseReqs (s : State) (c x : Nat) (t : Ctx) : (s.setCtx c x t).clauseReqs = s.clauseReqs := rfl
@[simp] theorem State.setCtx_maps (s : State) (c x : Nat) (t : Ctx) : (s.setCtx c x t).maps = s.maps := rfl
@[simp] theorem State.setCtx_versions (s : State) (c x : Nat) (t : Ctx) : (s.setCtx c x t).versions = s.versions := rfl
@[simp] theorem State.setCtx_kreqs (s : State) (c x : Nat) (t : Ctx) : (s.setCtx c x t).kreqs = s.kreqs := rfl
@[simp] theorem State.setCtx_kwait (s : State) (c x : Nat) (t : Ctx) : (s.setCtx c x t).kwait = s.kwait := rfl
@[simp] theorem State.setCtx_combs (s : State) (c x : Nat) (t : Ctx) : (s.setCtx c x t).combs = s.combs := rfl
@[simp] theorem State.setCtx_hots (s : State) (c x : Nat) (t : Ctx) : (s.setCtx c x t).hots = s.hots := rfl
@[simp] theorem State.setCtx_sides (s : State) (c x : Nat) (t : Ctx) : (s.setCtx c x t).sides = s.sides := rfl
@[simp] theorem State.setCtx_landq (s : State) (c x : Nat) (t : Ctx) : (s.setCtx c x t).landq = s.landq := rfl
@[simp] theorem State.setCtx_md (s : State) (c x : Nat) (t : Ctx) : (s.setCtx c x t).md = s.md := rfl

/-! ### modCtx -/

@[simp] theorem State.modCtx_now (s : State) (c x : Nat) (f : Ctx → Ctx) : (s.modCtx c x f).now = s.now := rfl
@[simp] theorem State.modCtx_clk (s : State) (c x : Nat) (f : Ctx → Ctx) : (s.modCtx c x f).clk = s.clk := rfl
@[simp] theorem State.modCtx_tb (s : State) (c x : Nat) (f : Ctx → Ctx) : (s.modCtx c x f).tb = s.tb := rfl
@[simp] theorem State.modCtx_tbFrac (s : State) (c x : Nat) (f : Ctx → Ctx) : (s.modCtx c x f).tbFrac = s.tbFrac := rfl
@[simp] theorem State.modCtx_cc (s : State) (c x : Nat) (f : Ctx → Ctx) : (s.modCtx c x f).cc = s.cc := rfl
@[simp] theorem State.modCtx_cx (s : State) (c x : Nat) (f : Ctx → Ctx) : (s.modCtx c x f).cx = s.cx := rfl
@[simp] theorem State.modCtx_scan (s : State) (c x : Nat) (f : Ctx → Ctx) : (s.modCtx c x f).scan = s.scan := rfl
@[simp] theorem State.modCtx_fresh (s : State) (c x : Nat) (f : Ctx → Ctx) : (s.modCtx c x f).fresh = s.fresh := rfl
@[simp] theorem State.modCtx_nextId (s : State) (c x : Nat) (f : Ctx → Ctx) : (s.modCtx c x f).nextId = s.nextId := rfl
@[simp] theorem State.modCtx_code (s : State) (c x : Nat) (f : Ctx → Ctx) : (s.modCtx c x f).code = s.code := rfl
@[simp] theorem State.modCtx_ev (s : State) (c x : Nat) (f : Ctx → Ctx) : (s.modCtx c x f).ev = s.ev := rfl
@[simp] theorem State.modCtx_cal (s : State) (c x : Nat) (f : Ctx → Ctx) : (s.modCtx c x f).cal = s.cal := rfl
@[simp] theorem State.modCtx_inputs (s : State) (c x : Nat) (f : Ctx → Ctx) : (s.modCtx c x f).inputs = s.inputs := rfl
@[simp] theorem State.modCtx_cores (s : State) (c x : Nat) (f : Ctx → Ctx) : (s.modCtx c x f).cores = SMap.put s.cores c ((s.core c).setCtx x (f (s.ctxAt c x))) := rfl
@[simp] theorem State.modCtx_mem (s : State) (c x : Nat) (f : Ctx → Ctx) : (s.modCtx c x f).mem = s.mem := rfl
@[simp] theorem State.modCtx_stale (s : State) (c x : Nat) (f : Ctx → Ctx) : (s.modCtx c x f).stale = s.stale := rfl
@[simp] theorem State.modCtx_spaces (s : State) (c x : Nat) (f : Ctx → Ctx) : (s.modCtx c x f).spaces = s.spaces := rfl
@[simp] theorem State.modCtx_parts (s : State) (c x : Nat) (f : Ctx → Ctx) : (s.modCtx c x f).parts = s.parts := rfl
@[simp] theorem State.modCtx_gangs (s : State) (c x : Nat) (f : Ctx → Ctx) : (s.modCtx c x f).gangs = s.gangs := rfl
@[simp] theorem State.modCtx_sched (s : State) (c x : Nat) (f : Ctx → Ctx) : (s.modCtx c x f).sched = s.sched := rfl
@[simp] theorem State.modCtx_counters (s : State) (c x : Nat) (f : Ctx → Ctx) : (s.modCtx c x f).counters = s.counters := rfl
@[simp] theorem State.modCtx_reqs (s : State) (c x : Nat) (f : Ctx → Ctx) : (s.modCtx c x f).reqs = s.reqs := rfl
@[simp] theorem State.modCtx_held (s : State) (c x : Nat) (f : Ctx → Ctx) : (s.modCtx c x f).held = s.held := rfl
@[simp] theorem State.modCtx_resps (s : State) (c x : Nat) (f : Ctx → Ctx) : (s.modCtx c x f).resps = s.resps := rfl
@[simp] theorem State.modCtx_watches (s : State) (c x : Nat) (f : Ctx → Ctx) : (s.modCtx c x f).watches = s.watches := rfl
@[simp] theorem State.modCtx_journals (s : State) (c x : Nat) (f : Ctx → Ctx) : (s.modCtx c x f).journals = s.journals := rfl
@[simp] theorem State.modCtx_did (s : State) (c x : Nat) (f : Ctx → Ctx) : (s.modCtx c x f).did = s.did := rfl
@[simp] theorem State.modCtx_units (s : State) (c x : Nat) (f : Ctx → Ctx) : (s.modCtx c x f).units = s.units := rfl
@[simp] theorem State.modCtx_halts (s : State) (c x : Nat) (f : Ctx → Ctx) : (s.modCtx c x f).halts = s.halts := rfl
@[simp] theorem State.modCtx_genWaits (s : State) (c x : Nat) (f : Ctx → Ctx) : (s.modCtx c x f).genWaits = s.genWaits := rfl
@[simp] theorem State.modCtx_tlbWaits (s : State) (c x : Nat) (f : Ctx → Ctx) : (s.modCtx c x f).tlbWaits = s.tlbWaits := rfl
@[simp] theorem State.modCtx_traces (s : State) (c x : Nat) (f : Ctx → Ctx) : (s.modCtx c x f).traces = s.traces := rfl
@[simp] theorem State.modCtx_chkCore (s : State) (c x : Nat) (f : Ctx → Ctx) : (s.modCtx c x f).chkCore = s.chkCore := rfl
@[simp] theorem State.modCtx_mism (s : State) (c x : Nat) (f : Ctx → Ctx) : (s.modCtx c x f).mism = s.mism := rfl
@[simp] theorem State.modCtx_viral (s : State) (c x : Nat) (f : Ctx → Ctx) : (s.modCtx c x f).viral = s.viral := rfl
@[simp] theorem State.modCtx_virSrc (s : State) (c x : Nat) (f : Ctx → Ctx) : (s.modCtx c x f).virSrc = s.virSrc := rfl
@[simp] theorem State.modCtx_virUnit (s : State) (c x : Nat) (f : Ctx → Ctx) : (s.modCtx c x f).virUnit = s.virUnit := rfl
@[simp] theorem State.modCtx_vgroups (s : State) (c x : Nat) (f : Ctx → Ctx) : (s.modCtx c x f).vgroups = s.vgroups := rfl
@[simp] theorem State.modCtx_xfers (s : State) (c x : Nat) (f : Ctx → Ctx) : (s.modCtx c x f).xfers = s.xfers := rfl
@[simp] theorem State.modCtx_unitReqs (s : State) (c x : Nat) (f : Ctx → Ctx) : (s.modCtx c x f).unitReqs = s.unitReqs := rfl
@[simp] theorem State.modCtx_refusals (s : State) (c x : Nat) (f : Ctx → Ctx) : (s.modCtx c x f).refusals = s.refusals := rfl
@[simp] theorem State.modCtx_arrays (s : State) (c x : Nat) (f : Ctx → Ctx) : (s.modCtx c x f).arrays = s.arrays := rfl
@[simp] theorem State.modCtx_clauseReqs (s : State) (c x : Nat) (f : Ctx → Ctx) : (s.modCtx c x f).clauseReqs = s.clauseReqs := rfl
@[simp] theorem State.modCtx_maps (s : State) (c x : Nat) (f : Ctx → Ctx) : (s.modCtx c x f).maps = s.maps := rfl
@[simp] theorem State.modCtx_versions (s : State) (c x : Nat) (f : Ctx → Ctx) : (s.modCtx c x f).versions = s.versions := rfl
@[simp] theorem State.modCtx_kreqs (s : State) (c x : Nat) (f : Ctx → Ctx) : (s.modCtx c x f).kreqs = s.kreqs := rfl
@[simp] theorem State.modCtx_kwait (s : State) (c x : Nat) (f : Ctx → Ctx) : (s.modCtx c x f).kwait = s.kwait := rfl
@[simp] theorem State.modCtx_combs (s : State) (c x : Nat) (f : Ctx → Ctx) : (s.modCtx c x f).combs = s.combs := rfl
@[simp] theorem State.modCtx_hots (s : State) (c x : Nat) (f : Ctx → Ctx) : (s.modCtx c x f).hots = s.hots := rfl
@[simp] theorem State.modCtx_sides (s : State) (c x : Nat) (f : Ctx → Ctx) : (s.modCtx c x f).sides = s.sides := rfl
@[simp] theorem State.modCtx_landq (s : State) (c x : Nat) (f : Ctx → Ctx) : (s.modCtx c x f).landq = s.landq := rfl
@[simp] theorem State.modCtx_md (s : State) (c x : Nat) (f : Ctx → Ctx) : (s.modCtx c x f).md = s.md := rfl

/-! ### modCur -/

@[simp] theorem State.modCur_now (s : State) (f : Ctx → Ctx) : (s.modCur f).now = s.now := rfl
@[simp] theorem State.modCur_clk (s : State) (f : Ctx → Ctx) : (s.modCur f).clk = s.clk := rfl
@[simp] theorem State.modCur_tb (s : State) (f : Ctx → Ctx) : (s.modCur f).tb = s.tb := rfl
@[simp] theorem State.modCur_tbFrac (s : State) (f : Ctx → Ctx) : (s.modCur f).tbFrac = s.tbFrac := rfl
@[simp] theorem State.modCur_cc (s : State) (f : Ctx → Ctx) : (s.modCur f).cc = s.cc := rfl
@[simp] theorem State.modCur_cx (s : State) (f : Ctx → Ctx) : (s.modCur f).cx = s.cx := rfl
@[simp] theorem State.modCur_scan (s : State) (f : Ctx → Ctx) : (s.modCur f).scan = s.scan := rfl
@[simp] theorem State.modCur_fresh (s : State) (f : Ctx → Ctx) : (s.modCur f).fresh = s.fresh := rfl
@[simp] theorem State.modCur_nextId (s : State) (f : Ctx → Ctx) : (s.modCur f).nextId = s.nextId := rfl
@[simp] theorem State.modCur_code (s : State) (f : Ctx → Ctx) : (s.modCur f).code = s.code := rfl
@[simp] theorem State.modCur_ev (s : State) (f : Ctx → Ctx) : (s.modCur f).ev = s.ev := rfl
@[simp] theorem State.modCur_cal (s : State) (f : Ctx → Ctx) : (s.modCur f).cal = s.cal := rfl
@[simp] theorem State.modCur_inputs (s : State) (f : Ctx → Ctx) : (s.modCur f).inputs = s.inputs := rfl
@[simp] theorem State.modCur_cores (s : State) (f : Ctx → Ctx) : (s.modCur f).cores = SMap.put s.cores s.cc (s.curCore.setCtx s.cx (f s.cur)) := rfl
@[simp] theorem State.modCur_mem (s : State) (f : Ctx → Ctx) : (s.modCur f).mem = s.mem := rfl
@[simp] theorem State.modCur_stale (s : State) (f : Ctx → Ctx) : (s.modCur f).stale = s.stale := rfl
@[simp] theorem State.modCur_spaces (s : State) (f : Ctx → Ctx) : (s.modCur f).spaces = s.spaces := rfl
@[simp] theorem State.modCur_parts (s : State) (f : Ctx → Ctx) : (s.modCur f).parts = s.parts := rfl
@[simp] theorem State.modCur_gangs (s : State) (f : Ctx → Ctx) : (s.modCur f).gangs = s.gangs := rfl
@[simp] theorem State.modCur_sched (s : State) (f : Ctx → Ctx) : (s.modCur f).sched = s.sched := rfl
@[simp] theorem State.modCur_counters (s : State) (f : Ctx → Ctx) : (s.modCur f).counters = s.counters := rfl
@[simp] theorem State.modCur_reqs (s : State) (f : Ctx → Ctx) : (s.modCur f).reqs = s.reqs := rfl
@[simp] theorem State.modCur_held (s : State) (f : Ctx → Ctx) : (s.modCur f).held = s.held := rfl
@[simp] theorem State.modCur_resps (s : State) (f : Ctx → Ctx) : (s.modCur f).resps = s.resps := rfl
@[simp] theorem State.modCur_watches (s : State) (f : Ctx → Ctx) : (s.modCur f).watches = s.watches := rfl
@[simp] theorem State.modCur_journals (s : State) (f : Ctx → Ctx) : (s.modCur f).journals = s.journals := rfl
@[simp] theorem State.modCur_did (s : State) (f : Ctx → Ctx) : (s.modCur f).did = s.did := rfl
@[simp] theorem State.modCur_units (s : State) (f : Ctx → Ctx) : (s.modCur f).units = s.units := rfl
@[simp] theorem State.modCur_halts (s : State) (f : Ctx → Ctx) : (s.modCur f).halts = s.halts := rfl
@[simp] theorem State.modCur_genWaits (s : State) (f : Ctx → Ctx) : (s.modCur f).genWaits = s.genWaits := rfl
@[simp] theorem State.modCur_tlbWaits (s : State) (f : Ctx → Ctx) : (s.modCur f).tlbWaits = s.tlbWaits := rfl
@[simp] theorem State.modCur_traces (s : State) (f : Ctx → Ctx) : (s.modCur f).traces = s.traces := rfl
@[simp] theorem State.modCur_chkCore (s : State) (f : Ctx → Ctx) : (s.modCur f).chkCore = s.chkCore := rfl
@[simp] theorem State.modCur_mism (s : State) (f : Ctx → Ctx) : (s.modCur f).mism = s.mism := rfl
@[simp] theorem State.modCur_viral (s : State) (f : Ctx → Ctx) : (s.modCur f).viral = s.viral := rfl
@[simp] theorem State.modCur_virSrc (s : State) (f : Ctx → Ctx) : (s.modCur f).virSrc = s.virSrc := rfl
@[simp] theorem State.modCur_virUnit (s : State) (f : Ctx → Ctx) : (s.modCur f).virUnit = s.virUnit := rfl
@[simp] theorem State.modCur_vgroups (s : State) (f : Ctx → Ctx) : (s.modCur f).vgroups = s.vgroups := rfl
@[simp] theorem State.modCur_xfers (s : State) (f : Ctx → Ctx) : (s.modCur f).xfers = s.xfers := rfl
@[simp] theorem State.modCur_unitReqs (s : State) (f : Ctx → Ctx) : (s.modCur f).unitReqs = s.unitReqs := rfl
@[simp] theorem State.modCur_refusals (s : State) (f : Ctx → Ctx) : (s.modCur f).refusals = s.refusals := rfl
@[simp] theorem State.modCur_arrays (s : State) (f : Ctx → Ctx) : (s.modCur f).arrays = s.arrays := rfl
@[simp] theorem State.modCur_clauseReqs (s : State) (f : Ctx → Ctx) : (s.modCur f).clauseReqs = s.clauseReqs := rfl
@[simp] theorem State.modCur_maps (s : State) (f : Ctx → Ctx) : (s.modCur f).maps = s.maps := rfl
@[simp] theorem State.modCur_versions (s : State) (f : Ctx → Ctx) : (s.modCur f).versions = s.versions := rfl
@[simp] theorem State.modCur_kreqs (s : State) (f : Ctx → Ctx) : (s.modCur f).kreqs = s.kreqs := rfl
@[simp] theorem State.modCur_kwait (s : State) (f : Ctx → Ctx) : (s.modCur f).kwait = s.kwait := rfl
@[simp] theorem State.modCur_combs (s : State) (f : Ctx → Ctx) : (s.modCur f).combs = s.combs := rfl
@[simp] theorem State.modCur_hots (s : State) (f : Ctx → Ctx) : (s.modCur f).hots = s.hots := rfl
@[simp] theorem State.modCur_sides (s : State) (f : Ctx → Ctx) : (s.modCur f).sides = s.sides := rfl
@[simp] theorem State.modCur_landq (s : State) (f : Ctx → Ctx) : (s.modCur f).landq = s.landq := rfl
@[simp] theorem State.modCur_md (s : State) (f : Ctx → Ctx) : (s.modCur f).md = s.md := rfl

/-! ### modCurCore -/

@[simp] theorem State.modCurCore_now (s : State) (f : CoreState → CoreState) : (s.modCurCore f).now = s.now := rfl
@[simp] theorem State.modCurCore_clk (s : State) (f : CoreState → CoreState) : (s.modCurCore f).clk = s.clk := rfl
@[simp] theorem State.modCurCore_tb (s : State) (f : CoreState → CoreState) : (s.modCurCore f).tb = s.tb := rfl
@[simp] theorem State.modCurCore_tbFrac (s : State) (f : CoreState → CoreState) : (s.modCurCore f).tbFrac = s.tbFrac := rfl
@[simp] theorem State.modCurCore_cc (s : State) (f : CoreState → CoreState) : (s.modCurCore f).cc = s.cc := rfl
@[simp] theorem State.modCurCore_cx (s : State) (f : CoreState → CoreState) : (s.modCurCore f).cx = s.cx := rfl
@[simp] theorem State.modCurCore_scan (s : State) (f : CoreState → CoreState) : (s.modCurCore f).scan = s.scan := rfl
@[simp] theorem State.modCurCore_fresh (s : State) (f : CoreState → CoreState) : (s.modCurCore f).fresh = s.fresh := rfl
@[simp] theorem State.modCurCore_nextId (s : State) (f : CoreState → CoreState) : (s.modCurCore f).nextId = s.nextId := rfl
@[simp] theorem State.modCurCore_code (s : State) (f : CoreState → CoreState) : (s.modCurCore f).code = s.code := rfl
@[simp] theorem State.modCurCore_ev (s : State) (f : CoreState → CoreState) : (s.modCurCore f).ev = s.ev := rfl
@[simp] theorem State.modCurCore_cal (s : State) (f : CoreState → CoreState) : (s.modCurCore f).cal = s.cal := rfl
@[simp] theorem State.modCurCore_inputs (s : State) (f : CoreState → CoreState) : (s.modCurCore f).inputs = s.inputs := rfl
@[simp] theorem State.modCurCore_cores (s : State) (f : CoreState → CoreState) : (s.modCurCore f).cores = SMap.put s.cores s.cc (f s.curCore) := rfl
@[simp] theorem State.modCurCore_mem (s : State) (f : CoreState → CoreState) : (s.modCurCore f).mem = s.mem := rfl
@[simp] theorem State.modCurCore_stale (s : State) (f : CoreState → CoreState) : (s.modCurCore f).stale = s.stale := rfl
@[simp] theorem State.modCurCore_spaces (s : State) (f : CoreState → CoreState) : (s.modCurCore f).spaces = s.spaces := rfl
@[simp] theorem State.modCurCore_parts (s : State) (f : CoreState → CoreState) : (s.modCurCore f).parts = s.parts := rfl
@[simp] theorem State.modCurCore_gangs (s : State) (f : CoreState → CoreState) : (s.modCurCore f).gangs = s.gangs := rfl
@[simp] theorem State.modCurCore_sched (s : State) (f : CoreState → CoreState) : (s.modCurCore f).sched = s.sched := rfl
@[simp] theorem State.modCurCore_counters (s : State) (f : CoreState → CoreState) : (s.modCurCore f).counters = s.counters := rfl
@[simp] theorem State.modCurCore_reqs (s : State) (f : CoreState → CoreState) : (s.modCurCore f).reqs = s.reqs := rfl
@[simp] theorem State.modCurCore_held (s : State) (f : CoreState → CoreState) : (s.modCurCore f).held = s.held := rfl
@[simp] theorem State.modCurCore_resps (s : State) (f : CoreState → CoreState) : (s.modCurCore f).resps = s.resps := rfl
@[simp] theorem State.modCurCore_watches (s : State) (f : CoreState → CoreState) : (s.modCurCore f).watches = s.watches := rfl
@[simp] theorem State.modCurCore_journals (s : State) (f : CoreState → CoreState) : (s.modCurCore f).journals = s.journals := rfl
@[simp] theorem State.modCurCore_did (s : State) (f : CoreState → CoreState) : (s.modCurCore f).did = s.did := rfl
@[simp] theorem State.modCurCore_units (s : State) (f : CoreState → CoreState) : (s.modCurCore f).units = s.units := rfl
@[simp] theorem State.modCurCore_halts (s : State) (f : CoreState → CoreState) : (s.modCurCore f).halts = s.halts := rfl
@[simp] theorem State.modCurCore_genWaits (s : State) (f : CoreState → CoreState) : (s.modCurCore f).genWaits = s.genWaits := rfl
@[simp] theorem State.modCurCore_tlbWaits (s : State) (f : CoreState → CoreState) : (s.modCurCore f).tlbWaits = s.tlbWaits := rfl
@[simp] theorem State.modCurCore_traces (s : State) (f : CoreState → CoreState) : (s.modCurCore f).traces = s.traces := rfl
@[simp] theorem State.modCurCore_chkCore (s : State) (f : CoreState → CoreState) : (s.modCurCore f).chkCore = s.chkCore := rfl
@[simp] theorem State.modCurCore_mism (s : State) (f : CoreState → CoreState) : (s.modCurCore f).mism = s.mism := rfl
@[simp] theorem State.modCurCore_viral (s : State) (f : CoreState → CoreState) : (s.modCurCore f).viral = s.viral := rfl
@[simp] theorem State.modCurCore_virSrc (s : State) (f : CoreState → CoreState) : (s.modCurCore f).virSrc = s.virSrc := rfl
@[simp] theorem State.modCurCore_virUnit (s : State) (f : CoreState → CoreState) : (s.modCurCore f).virUnit = s.virUnit := rfl
@[simp] theorem State.modCurCore_vgroups (s : State) (f : CoreState → CoreState) : (s.modCurCore f).vgroups = s.vgroups := rfl
@[simp] theorem State.modCurCore_xfers (s : State) (f : CoreState → CoreState) : (s.modCurCore f).xfers = s.xfers := rfl
@[simp] theorem State.modCurCore_unitReqs (s : State) (f : CoreState → CoreState) : (s.modCurCore f).unitReqs = s.unitReqs := rfl
@[simp] theorem State.modCurCore_refusals (s : State) (f : CoreState → CoreState) : (s.modCurCore f).refusals = s.refusals := rfl
@[simp] theorem State.modCurCore_arrays (s : State) (f : CoreState → CoreState) : (s.modCurCore f).arrays = s.arrays := rfl
@[simp] theorem State.modCurCore_clauseReqs (s : State) (f : CoreState → CoreState) : (s.modCurCore f).clauseReqs = s.clauseReqs := rfl
@[simp] theorem State.modCurCore_maps (s : State) (f : CoreState → CoreState) : (s.modCurCore f).maps = s.maps := rfl
@[simp] theorem State.modCurCore_versions (s : State) (f : CoreState → CoreState) : (s.modCurCore f).versions = s.versions := rfl
@[simp] theorem State.modCurCore_kreqs (s : State) (f : CoreState → CoreState) : (s.modCurCore f).kreqs = s.kreqs := rfl
@[simp] theorem State.modCurCore_kwait (s : State) (f : CoreState → CoreState) : (s.modCurCore f).kwait = s.kwait := rfl
@[simp] theorem State.modCurCore_combs (s : State) (f : CoreState → CoreState) : (s.modCurCore f).combs = s.combs := rfl
@[simp] theorem State.modCurCore_hots (s : State) (f : CoreState → CoreState) : (s.modCurCore f).hots = s.hots := rfl
@[simp] theorem State.modCurCore_sides (s : State) (f : CoreState → CoreState) : (s.modCurCore f).sides = s.sides := rfl
@[simp] theorem State.modCurCore_landq (s : State) (f : CoreState → CoreState) : (s.modCurCore f).landq = s.landq := rfl
@[simp] theorem State.modCurCore_md (s : State) (f : CoreState → CoreState) : (s.modCurCore f).md = s.md := rfl

/-! ### setGang -/

@[simp] theorem State.setGang_now (s : State) (g : Nat) (v : Gang) : (s.setGang g v).now = s.now := rfl
@[simp] theorem State.setGang_clk (s : State) (g : Nat) (v : Gang) : (s.setGang g v).clk = s.clk := rfl
@[simp] theorem State.setGang_tb (s : State) (g : Nat) (v : Gang) : (s.setGang g v).tb = s.tb := rfl
@[simp] theorem State.setGang_tbFrac (s : State) (g : Nat) (v : Gang) : (s.setGang g v).tbFrac = s.tbFrac := rfl
@[simp] theorem State.setGang_cc (s : State) (g : Nat) (v : Gang) : (s.setGang g v).cc = s.cc := rfl
@[simp] theorem State.setGang_cx (s : State) (g : Nat) (v : Gang) : (s.setGang g v).cx = s.cx := rfl
@[simp] theorem State.setGang_scan (s : State) (g : Nat) (v : Gang) : (s.setGang g v).scan = s.scan := rfl
@[simp] theorem State.setGang_fresh (s : State) (g : Nat) (v : Gang) : (s.setGang g v).fresh = s.fresh := rfl
@[simp] theorem State.setGang_nextId (s : State) (g : Nat) (v : Gang) : (s.setGang g v).nextId = s.nextId := rfl
@[simp] theorem State.setGang_code (s : State) (g : Nat) (v : Gang) : (s.setGang g v).code = s.code := rfl
@[simp] theorem State.setGang_ev (s : State) (g : Nat) (v : Gang) : (s.setGang g v).ev = s.ev := rfl
@[simp] theorem State.setGang_cal (s : State) (g : Nat) (v : Gang) : (s.setGang g v).cal = s.cal := rfl
@[simp] theorem State.setGang_inputs (s : State) (g : Nat) (v : Gang) : (s.setGang g v).inputs = s.inputs := rfl
@[simp] theorem State.setGang_cores (s : State) (g : Nat) (v : Gang) : (s.setGang g v).cores = s.cores := rfl
@[simp] theorem State.setGang_mem (s : State) (g : Nat) (v : Gang) : (s.setGang g v).mem = s.mem := rfl
@[simp] theorem State.setGang_stale (s : State) (g : Nat) (v : Gang) : (s.setGang g v).stale = s.stale := rfl
@[simp] theorem State.setGang_spaces (s : State) (g : Nat) (v : Gang) : (s.setGang g v).spaces = s.spaces := rfl
@[simp] theorem State.setGang_parts (s : State) (g : Nat) (v : Gang) : (s.setGang g v).parts = s.parts := rfl
@[simp] theorem State.setGang_gangs (s : State) (g : Nat) (v : Gang) : (s.setGang g v).gangs = SMap.put s.gangs g v := rfl
@[simp] theorem State.setGang_sched (s : State) (g : Nat) (v : Gang) : (s.setGang g v).sched = s.sched := rfl
@[simp] theorem State.setGang_counters (s : State) (g : Nat) (v : Gang) : (s.setGang g v).counters = s.counters := rfl
@[simp] theorem State.setGang_reqs (s : State) (g : Nat) (v : Gang) : (s.setGang g v).reqs = s.reqs := rfl
@[simp] theorem State.setGang_held (s : State) (g : Nat) (v : Gang) : (s.setGang g v).held = s.held := rfl
@[simp] theorem State.setGang_resps (s : State) (g : Nat) (v : Gang) : (s.setGang g v).resps = s.resps := rfl
@[simp] theorem State.setGang_watches (s : State) (g : Nat) (v : Gang) : (s.setGang g v).watches = s.watches := rfl
@[simp] theorem State.setGang_journals (s : State) (g : Nat) (v : Gang) : (s.setGang g v).journals = s.journals := rfl
@[simp] theorem State.setGang_did (s : State) (g : Nat) (v : Gang) : (s.setGang g v).did = s.did := rfl
@[simp] theorem State.setGang_units (s : State) (g : Nat) (v : Gang) : (s.setGang g v).units = s.units := rfl
@[simp] theorem State.setGang_halts (s : State) (g : Nat) (v : Gang) : (s.setGang g v).halts = s.halts := rfl
@[simp] theorem State.setGang_genWaits (s : State) (g : Nat) (v : Gang) : (s.setGang g v).genWaits = s.genWaits := rfl
@[simp] theorem State.setGang_tlbWaits (s : State) (g : Nat) (v : Gang) : (s.setGang g v).tlbWaits = s.tlbWaits := rfl
@[simp] theorem State.setGang_traces (s : State) (g : Nat) (v : Gang) : (s.setGang g v).traces = s.traces := rfl
@[simp] theorem State.setGang_chkCore (s : State) (g : Nat) (v : Gang) : (s.setGang g v).chkCore = s.chkCore := rfl
@[simp] theorem State.setGang_mism (s : State) (g : Nat) (v : Gang) : (s.setGang g v).mism = s.mism := rfl
@[simp] theorem State.setGang_viral (s : State) (g : Nat) (v : Gang) : (s.setGang g v).viral = s.viral := rfl
@[simp] theorem State.setGang_virSrc (s : State) (g : Nat) (v : Gang) : (s.setGang g v).virSrc = s.virSrc := rfl
@[simp] theorem State.setGang_virUnit (s : State) (g : Nat) (v : Gang) : (s.setGang g v).virUnit = s.virUnit := rfl
@[simp] theorem State.setGang_vgroups (s : State) (g : Nat) (v : Gang) : (s.setGang g v).vgroups = s.vgroups := rfl
@[simp] theorem State.setGang_xfers (s : State) (g : Nat) (v : Gang) : (s.setGang g v).xfers = s.xfers := rfl
@[simp] theorem State.setGang_unitReqs (s : State) (g : Nat) (v : Gang) : (s.setGang g v).unitReqs = s.unitReqs := rfl
@[simp] theorem State.setGang_refusals (s : State) (g : Nat) (v : Gang) : (s.setGang g v).refusals = s.refusals := rfl
@[simp] theorem State.setGang_arrays (s : State) (g : Nat) (v : Gang) : (s.setGang g v).arrays = s.arrays := rfl
@[simp] theorem State.setGang_clauseReqs (s : State) (g : Nat) (v : Gang) : (s.setGang g v).clauseReqs = s.clauseReqs := rfl
@[simp] theorem State.setGang_maps (s : State) (g : Nat) (v : Gang) : (s.setGang g v).maps = s.maps := rfl
@[simp] theorem State.setGang_versions (s : State) (g : Nat) (v : Gang) : (s.setGang g v).versions = s.versions := rfl
@[simp] theorem State.setGang_kreqs (s : State) (g : Nat) (v : Gang) : (s.setGang g v).kreqs = s.kreqs := rfl
@[simp] theorem State.setGang_kwait (s : State) (g : Nat) (v : Gang) : (s.setGang g v).kwait = s.kwait := rfl
@[simp] theorem State.setGang_combs (s : State) (g : Nat) (v : Gang) : (s.setGang g v).combs = s.combs := rfl
@[simp] theorem State.setGang_hots (s : State) (g : Nat) (v : Gang) : (s.setGang g v).hots = s.hots := rfl
@[simp] theorem State.setGang_sides (s : State) (g : Nat) (v : Gang) : (s.setGang g v).sides = s.sides := rfl
@[simp] theorem State.setGang_landq (s : State) (g : Nat) (v : Gang) : (s.setGang g v).landq = s.landq := rfl
@[simp] theorem State.setGang_md (s : State) (g : Nat) (v : Gang) : (s.setGang g v).md = s.md := rfl

/-! ### modGang -/

@[simp] theorem State.modGang_now (s : State) (g : Nat) (f : Gang → Gang) : (s.modGang g f).now = s.now := rfl
@[simp] theorem State.modGang_clk (s : State) (g : Nat) (f : Gang → Gang) : (s.modGang g f).clk = s.clk := rfl
@[simp] theorem State.modGang_tb (s : State) (g : Nat) (f : Gang → Gang) : (s.modGang g f).tb = s.tb := rfl
@[simp] theorem State.modGang_tbFrac (s : State) (g : Nat) (f : Gang → Gang) : (s.modGang g f).tbFrac = s.tbFrac := rfl
@[simp] theorem State.modGang_cc (s : State) (g : Nat) (f : Gang → Gang) : (s.modGang g f).cc = s.cc := rfl
@[simp] theorem State.modGang_cx (s : State) (g : Nat) (f : Gang → Gang) : (s.modGang g f).cx = s.cx := rfl
@[simp] theorem State.modGang_scan (s : State) (g : Nat) (f : Gang → Gang) : (s.modGang g f).scan = s.scan := rfl
@[simp] theorem State.modGang_fresh (s : State) (g : Nat) (f : Gang → Gang) : (s.modGang g f).fresh = s.fresh := rfl
@[simp] theorem State.modGang_nextId (s : State) (g : Nat) (f : Gang → Gang) : (s.modGang g f).nextId = s.nextId := rfl
@[simp] theorem State.modGang_code (s : State) (g : Nat) (f : Gang → Gang) : (s.modGang g f).code = s.code := rfl
@[simp] theorem State.modGang_ev (s : State) (g : Nat) (f : Gang → Gang) : (s.modGang g f).ev = s.ev := rfl
@[simp] theorem State.modGang_cal (s : State) (g : Nat) (f : Gang → Gang) : (s.modGang g f).cal = s.cal := rfl
@[simp] theorem State.modGang_inputs (s : State) (g : Nat) (f : Gang → Gang) : (s.modGang g f).inputs = s.inputs := rfl
@[simp] theorem State.modGang_cores (s : State) (g : Nat) (f : Gang → Gang) : (s.modGang g f).cores = s.cores := rfl
@[simp] theorem State.modGang_mem (s : State) (g : Nat) (f : Gang → Gang) : (s.modGang g f).mem = s.mem := rfl
@[simp] theorem State.modGang_stale (s : State) (g : Nat) (f : Gang → Gang) : (s.modGang g f).stale = s.stale := rfl
@[simp] theorem State.modGang_spaces (s : State) (g : Nat) (f : Gang → Gang) : (s.modGang g f).spaces = s.spaces := rfl
@[simp] theorem State.modGang_parts (s : State) (g : Nat) (f : Gang → Gang) : (s.modGang g f).parts = s.parts := rfl
@[simp] theorem State.modGang_gangs (s : State) (g : Nat) (f : Gang → Gang) : (s.modGang g f).gangs = SMap.put s.gangs g (f (s.gang g)) := rfl
@[simp] theorem State.modGang_sched (s : State) (g : Nat) (f : Gang → Gang) : (s.modGang g f).sched = s.sched := rfl
@[simp] theorem State.modGang_counters (s : State) (g : Nat) (f : Gang → Gang) : (s.modGang g f).counters = s.counters := rfl
@[simp] theorem State.modGang_reqs (s : State) (g : Nat) (f : Gang → Gang) : (s.modGang g f).reqs = s.reqs := rfl
@[simp] theorem State.modGang_held (s : State) (g : Nat) (f : Gang → Gang) : (s.modGang g f).held = s.held := rfl
@[simp] theorem State.modGang_resps (s : State) (g : Nat) (f : Gang → Gang) : (s.modGang g f).resps = s.resps := rfl
@[simp] theorem State.modGang_watches (s : State) (g : Nat) (f : Gang → Gang) : (s.modGang g f).watches = s.watches := rfl
@[simp] theorem State.modGang_journals (s : State) (g : Nat) (f : Gang → Gang) : (s.modGang g f).journals = s.journals := rfl
@[simp] theorem State.modGang_did (s : State) (g : Nat) (f : Gang → Gang) : (s.modGang g f).did = s.did := rfl
@[simp] theorem State.modGang_units (s : State) (g : Nat) (f : Gang → Gang) : (s.modGang g f).units = s.units := rfl
@[simp] theorem State.modGang_halts (s : State) (g : Nat) (f : Gang → Gang) : (s.modGang g f).halts = s.halts := rfl
@[simp] theorem State.modGang_genWaits (s : State) (g : Nat) (f : Gang → Gang) : (s.modGang g f).genWaits = s.genWaits := rfl
@[simp] theorem State.modGang_tlbWaits (s : State) (g : Nat) (f : Gang → Gang) : (s.modGang g f).tlbWaits = s.tlbWaits := rfl
@[simp] theorem State.modGang_traces (s : State) (g : Nat) (f : Gang → Gang) : (s.modGang g f).traces = s.traces := rfl
@[simp] theorem State.modGang_chkCore (s : State) (g : Nat) (f : Gang → Gang) : (s.modGang g f).chkCore = s.chkCore := rfl
@[simp] theorem State.modGang_mism (s : State) (g : Nat) (f : Gang → Gang) : (s.modGang g f).mism = s.mism := rfl
@[simp] theorem State.modGang_viral (s : State) (g : Nat) (f : Gang → Gang) : (s.modGang g f).viral = s.viral := rfl
@[simp] theorem State.modGang_virSrc (s : State) (g : Nat) (f : Gang → Gang) : (s.modGang g f).virSrc = s.virSrc := rfl
@[simp] theorem State.modGang_virUnit (s : State) (g : Nat) (f : Gang → Gang) : (s.modGang g f).virUnit = s.virUnit := rfl
@[simp] theorem State.modGang_vgroups (s : State) (g : Nat) (f : Gang → Gang) : (s.modGang g f).vgroups = s.vgroups := rfl
@[simp] theorem State.modGang_xfers (s : State) (g : Nat) (f : Gang → Gang) : (s.modGang g f).xfers = s.xfers := rfl
@[simp] theorem State.modGang_unitReqs (s : State) (g : Nat) (f : Gang → Gang) : (s.modGang g f).unitReqs = s.unitReqs := rfl
@[simp] theorem State.modGang_refusals (s : State) (g : Nat) (f : Gang → Gang) : (s.modGang g f).refusals = s.refusals := rfl
@[simp] theorem State.modGang_arrays (s : State) (g : Nat) (f : Gang → Gang) : (s.modGang g f).arrays = s.arrays := rfl
@[simp] theorem State.modGang_clauseReqs (s : State) (g : Nat) (f : Gang → Gang) : (s.modGang g f).clauseReqs = s.clauseReqs := rfl
@[simp] theorem State.modGang_maps (s : State) (g : Nat) (f : Gang → Gang) : (s.modGang g f).maps = s.maps := rfl
@[simp] theorem State.modGang_versions (s : State) (g : Nat) (f : Gang → Gang) : (s.modGang g f).versions = s.versions := rfl
@[simp] theorem State.modGang_kreqs (s : State) (g : Nat) (f : Gang → Gang) : (s.modGang g f).kreqs = s.kreqs := rfl
@[simp] theorem State.modGang_kwait (s : State) (g : Nat) (f : Gang → Gang) : (s.modGang g f).kwait = s.kwait := rfl
@[simp] theorem State.modGang_combs (s : State) (g : Nat) (f : Gang → Gang) : (s.modGang g f).combs = s.combs := rfl
@[simp] theorem State.modGang_hots (s : State) (g : Nat) (f : Gang → Gang) : (s.modGang g f).hots = s.hots := rfl
@[simp] theorem State.modGang_sides (s : State) (g : Nat) (f : Gang → Gang) : (s.modGang g f).sides = s.sides := rfl
@[simp] theorem State.modGang_landq (s : State) (g : Nat) (f : Gang → Gang) : (s.modGang g f).landq = s.landq := rfl
@[simp] theorem State.modGang_md (s : State) (g : Nat) (f : Gang → Gang) : (s.modGang g f).md = s.md := rfl

/-! ### modPart -/

@[simp] theorem State.modPart_now (s : State) (p : Nat) (f : Part → Part) : (s.modPart p f).now = s.now := rfl
@[simp] theorem State.modPart_clk (s : State) (p : Nat) (f : Part → Part) : (s.modPart p f).clk = s.clk := rfl
@[simp] theorem State.modPart_tb (s : State) (p : Nat) (f : Part → Part) : (s.modPart p f).tb = s.tb := rfl
@[simp] theorem State.modPart_tbFrac (s : State) (p : Nat) (f : Part → Part) : (s.modPart p f).tbFrac = s.tbFrac := rfl
@[simp] theorem State.modPart_cc (s : State) (p : Nat) (f : Part → Part) : (s.modPart p f).cc = s.cc := rfl
@[simp] theorem State.modPart_cx (s : State) (p : Nat) (f : Part → Part) : (s.modPart p f).cx = s.cx := rfl
@[simp] theorem State.modPart_scan (s : State) (p : Nat) (f : Part → Part) : (s.modPart p f).scan = s.scan := rfl
@[simp] theorem State.modPart_fresh (s : State) (p : Nat) (f : Part → Part) : (s.modPart p f).fresh = s.fresh := rfl
@[simp] theorem State.modPart_nextId (s : State) (p : Nat) (f : Part → Part) : (s.modPart p f).nextId = s.nextId := rfl
@[simp] theorem State.modPart_code (s : State) (p : Nat) (f : Part → Part) : (s.modPart p f).code = s.code := rfl
@[simp] theorem State.modPart_ev (s : State) (p : Nat) (f : Part → Part) : (s.modPart p f).ev = s.ev := rfl
@[simp] theorem State.modPart_cal (s : State) (p : Nat) (f : Part → Part) : (s.modPart p f).cal = s.cal := rfl
@[simp] theorem State.modPart_inputs (s : State) (p : Nat) (f : Part → Part) : (s.modPart p f).inputs = s.inputs := rfl
@[simp] theorem State.modPart_cores (s : State) (p : Nat) (f : Part → Part) : (s.modPart p f).cores = s.cores := rfl
@[simp] theorem State.modPart_mem (s : State) (p : Nat) (f : Part → Part) : (s.modPart p f).mem = s.mem := rfl
@[simp] theorem State.modPart_stale (s : State) (p : Nat) (f : Part → Part) : (s.modPart p f).stale = s.stale := rfl
@[simp] theorem State.modPart_spaces (s : State) (p : Nat) (f : Part → Part) : (s.modPart p f).spaces = s.spaces := rfl
@[simp] theorem State.modPart_parts (s : State) (p : Nat) (f : Part → Part) : (s.modPart p f).parts = SMap.put s.parts p (f (s.part p)) := rfl
@[simp] theorem State.modPart_gangs (s : State) (p : Nat) (f : Part → Part) : (s.modPart p f).gangs = s.gangs := rfl
@[simp] theorem State.modPart_sched (s : State) (p : Nat) (f : Part → Part) : (s.modPart p f).sched = s.sched := rfl
@[simp] theorem State.modPart_counters (s : State) (p : Nat) (f : Part → Part) : (s.modPart p f).counters = s.counters := rfl
@[simp] theorem State.modPart_reqs (s : State) (p : Nat) (f : Part → Part) : (s.modPart p f).reqs = s.reqs := rfl
@[simp] theorem State.modPart_held (s : State) (p : Nat) (f : Part → Part) : (s.modPart p f).held = s.held := rfl
@[simp] theorem State.modPart_resps (s : State) (p : Nat) (f : Part → Part) : (s.modPart p f).resps = s.resps := rfl
@[simp] theorem State.modPart_watches (s : State) (p : Nat) (f : Part → Part) : (s.modPart p f).watches = s.watches := rfl
@[simp] theorem State.modPart_journals (s : State) (p : Nat) (f : Part → Part) : (s.modPart p f).journals = s.journals := rfl
@[simp] theorem State.modPart_did (s : State) (p : Nat) (f : Part → Part) : (s.modPart p f).did = s.did := rfl
@[simp] theorem State.modPart_units (s : State) (p : Nat) (f : Part → Part) : (s.modPart p f).units = s.units := rfl
@[simp] theorem State.modPart_halts (s : State) (p : Nat) (f : Part → Part) : (s.modPart p f).halts = s.halts := rfl
@[simp] theorem State.modPart_genWaits (s : State) (p : Nat) (f : Part → Part) : (s.modPart p f).genWaits = s.genWaits := rfl
@[simp] theorem State.modPart_tlbWaits (s : State) (p : Nat) (f : Part → Part) : (s.modPart p f).tlbWaits = s.tlbWaits := rfl
@[simp] theorem State.modPart_traces (s : State) (p : Nat) (f : Part → Part) : (s.modPart p f).traces = s.traces := rfl
@[simp] theorem State.modPart_chkCore (s : State) (p : Nat) (f : Part → Part) : (s.modPart p f).chkCore = s.chkCore := rfl
@[simp] theorem State.modPart_mism (s : State) (p : Nat) (f : Part → Part) : (s.modPart p f).mism = s.mism := rfl
@[simp] theorem State.modPart_viral (s : State) (p : Nat) (f : Part → Part) : (s.modPart p f).viral = s.viral := rfl
@[simp] theorem State.modPart_virSrc (s : State) (p : Nat) (f : Part → Part) : (s.modPart p f).virSrc = s.virSrc := rfl
@[simp] theorem State.modPart_virUnit (s : State) (p : Nat) (f : Part → Part) : (s.modPart p f).virUnit = s.virUnit := rfl
@[simp] theorem State.modPart_vgroups (s : State) (p : Nat) (f : Part → Part) : (s.modPart p f).vgroups = s.vgroups := rfl
@[simp] theorem State.modPart_xfers (s : State) (p : Nat) (f : Part → Part) : (s.modPart p f).xfers = s.xfers := rfl
@[simp] theorem State.modPart_unitReqs (s : State) (p : Nat) (f : Part → Part) : (s.modPart p f).unitReqs = s.unitReqs := rfl
@[simp] theorem State.modPart_refusals (s : State) (p : Nat) (f : Part → Part) : (s.modPart p f).refusals = s.refusals := rfl
@[simp] theorem State.modPart_arrays (s : State) (p : Nat) (f : Part → Part) : (s.modPart p f).arrays = s.arrays := rfl
@[simp] theorem State.modPart_clauseReqs (s : State) (p : Nat) (f : Part → Part) : (s.modPart p f).clauseReqs = s.clauseReqs := rfl
@[simp] theorem State.modPart_maps (s : State) (p : Nat) (f : Part → Part) : (s.modPart p f).maps = s.maps := rfl
@[simp] theorem State.modPart_versions (s : State) (p : Nat) (f : Part → Part) : (s.modPart p f).versions = s.versions := rfl
@[simp] theorem State.modPart_kreqs (s : State) (p : Nat) (f : Part → Part) : (s.modPart p f).kreqs = s.kreqs := rfl
@[simp] theorem State.modPart_kwait (s : State) (p : Nat) (f : Part → Part) : (s.modPart p f).kwait = s.kwait := rfl
@[simp] theorem State.modPart_combs (s : State) (p : Nat) (f : Part → Part) : (s.modPart p f).combs = s.combs := rfl
@[simp] theorem State.modPart_hots (s : State) (p : Nat) (f : Part → Part) : (s.modPart p f).hots = s.hots := rfl
@[simp] theorem State.modPart_sides (s : State) (p : Nat) (f : Part → Part) : (s.modPart p f).sides = s.sides := rfl
@[simp] theorem State.modPart_landq (s : State) (p : Nat) (f : Part → Part) : (s.modPart p f).landq = s.landq := rfl
@[simp] theorem State.modPart_md (s : State) (p : Nat) (f : Part → Part) : (s.modPart p f).md = s.md := rfl

/-! ### modSpace -/

@[simp] theorem State.modSpace_now (s : State) (a : Nat) (f : Space → Space) : (s.modSpace a f).now = s.now := rfl
@[simp] theorem State.modSpace_clk (s : State) (a : Nat) (f : Space → Space) : (s.modSpace a f).clk = s.clk := rfl
@[simp] theorem State.modSpace_tb (s : State) (a : Nat) (f : Space → Space) : (s.modSpace a f).tb = s.tb := rfl
@[simp] theorem State.modSpace_tbFrac (s : State) (a : Nat) (f : Space → Space) : (s.modSpace a f).tbFrac = s.tbFrac := rfl
@[simp] theorem State.modSpace_cc (s : State) (a : Nat) (f : Space → Space) : (s.modSpace a f).cc = s.cc := rfl
@[simp] theorem State.modSpace_cx (s : State) (a : Nat) (f : Space → Space) : (s.modSpace a f).cx = s.cx := rfl
@[simp] theorem State.modSpace_scan (s : State) (a : Nat) (f : Space → Space) : (s.modSpace a f).scan = s.scan := rfl
@[simp] theorem State.modSpace_fresh (s : State) (a : Nat) (f : Space → Space) : (s.modSpace a f).fresh = s.fresh := rfl
@[simp] theorem State.modSpace_nextId (s : State) (a : Nat) (f : Space → Space) : (s.modSpace a f).nextId = s.nextId := rfl
@[simp] theorem State.modSpace_code (s : State) (a : Nat) (f : Space → Space) : (s.modSpace a f).code = s.code := rfl
@[simp] theorem State.modSpace_ev (s : State) (a : Nat) (f : Space → Space) : (s.modSpace a f).ev = s.ev := rfl
@[simp] theorem State.modSpace_cal (s : State) (a : Nat) (f : Space → Space) : (s.modSpace a f).cal = s.cal := rfl
@[simp] theorem State.modSpace_inputs (s : State) (a : Nat) (f : Space → Space) : (s.modSpace a f).inputs = s.inputs := rfl
@[simp] theorem State.modSpace_cores (s : State) (a : Nat) (f : Space → Space) : (s.modSpace a f).cores = s.cores := rfl
@[simp] theorem State.modSpace_mem (s : State) (a : Nat) (f : Space → Space) : (s.modSpace a f).mem = s.mem := rfl
@[simp] theorem State.modSpace_stale (s : State) (a : Nat) (f : Space → Space) : (s.modSpace a f).stale = s.stale := rfl
@[simp] theorem State.modSpace_spaces (s : State) (a : Nat) (f : Space → Space) : (s.modSpace a f).spaces = SMap.put s.spaces a (f (s.space a)) := rfl
@[simp] theorem State.modSpace_parts (s : State) (a : Nat) (f : Space → Space) : (s.modSpace a f).parts = s.parts := rfl
@[simp] theorem State.modSpace_gangs (s : State) (a : Nat) (f : Space → Space) : (s.modSpace a f).gangs = s.gangs := rfl
@[simp] theorem State.modSpace_sched (s : State) (a : Nat) (f : Space → Space) : (s.modSpace a f).sched = s.sched := rfl
@[simp] theorem State.modSpace_counters (s : State) (a : Nat) (f : Space → Space) : (s.modSpace a f).counters = s.counters := rfl
@[simp] theorem State.modSpace_reqs (s : State) (a : Nat) (f : Space → Space) : (s.modSpace a f).reqs = s.reqs := rfl
@[simp] theorem State.modSpace_held (s : State) (a : Nat) (f : Space → Space) : (s.modSpace a f).held = s.held := rfl
@[simp] theorem State.modSpace_resps (s : State) (a : Nat) (f : Space → Space) : (s.modSpace a f).resps = s.resps := rfl
@[simp] theorem State.modSpace_watches (s : State) (a : Nat) (f : Space → Space) : (s.modSpace a f).watches = s.watches := rfl
@[simp] theorem State.modSpace_journals (s : State) (a : Nat) (f : Space → Space) : (s.modSpace a f).journals = s.journals := rfl
@[simp] theorem State.modSpace_did (s : State) (a : Nat) (f : Space → Space) : (s.modSpace a f).did = s.did := rfl
@[simp] theorem State.modSpace_units (s : State) (a : Nat) (f : Space → Space) : (s.modSpace a f).units = s.units := rfl
@[simp] theorem State.modSpace_halts (s : State) (a : Nat) (f : Space → Space) : (s.modSpace a f).halts = s.halts := rfl
@[simp] theorem State.modSpace_genWaits (s : State) (a : Nat) (f : Space → Space) : (s.modSpace a f).genWaits = s.genWaits := rfl
@[simp] theorem State.modSpace_tlbWaits (s : State) (a : Nat) (f : Space → Space) : (s.modSpace a f).tlbWaits = s.tlbWaits := rfl
@[simp] theorem State.modSpace_traces (s : State) (a : Nat) (f : Space → Space) : (s.modSpace a f).traces = s.traces := rfl
@[simp] theorem State.modSpace_chkCore (s : State) (a : Nat) (f : Space → Space) : (s.modSpace a f).chkCore = s.chkCore := rfl
@[simp] theorem State.modSpace_mism (s : State) (a : Nat) (f : Space → Space) : (s.modSpace a f).mism = s.mism := rfl
@[simp] theorem State.modSpace_viral (s : State) (a : Nat) (f : Space → Space) : (s.modSpace a f).viral = s.viral := rfl
@[simp] theorem State.modSpace_virSrc (s : State) (a : Nat) (f : Space → Space) : (s.modSpace a f).virSrc = s.virSrc := rfl
@[simp] theorem State.modSpace_virUnit (s : State) (a : Nat) (f : Space → Space) : (s.modSpace a f).virUnit = s.virUnit := rfl
@[simp] theorem State.modSpace_vgroups (s : State) (a : Nat) (f : Space → Space) : (s.modSpace a f).vgroups = s.vgroups := rfl
@[simp] theorem State.modSpace_xfers (s : State) (a : Nat) (f : Space → Space) : (s.modSpace a f).xfers = s.xfers := rfl
@[simp] theorem State.modSpace_unitReqs (s : State) (a : Nat) (f : Space → Space) : (s.modSpace a f).unitReqs = s.unitReqs := rfl
@[simp] theorem State.modSpace_refusals (s : State) (a : Nat) (f : Space → Space) : (s.modSpace a f).refusals = s.refusals := rfl
@[simp] theorem State.modSpace_arrays (s : State) (a : Nat) (f : Space → Space) : (s.modSpace a f).arrays = s.arrays := rfl
@[simp] theorem State.modSpace_clauseReqs (s : State) (a : Nat) (f : Space → Space) : (s.modSpace a f).clauseReqs = s.clauseReqs := rfl
@[simp] theorem State.modSpace_maps (s : State) (a : Nat) (f : Space → Space) : (s.modSpace a f).maps = s.maps := rfl
@[simp] theorem State.modSpace_versions (s : State) (a : Nat) (f : Space → Space) : (s.modSpace a f).versions = s.versions := rfl
@[simp] theorem State.modSpace_kreqs (s : State) (a : Nat) (f : Space → Space) : (s.modSpace a f).kreqs = s.kreqs := rfl
@[simp] theorem State.modSpace_kwait (s : State) (a : Nat) (f : Space → Space) : (s.modSpace a f).kwait = s.kwait := rfl
@[simp] theorem State.modSpace_combs (s : State) (a : Nat) (f : Space → Space) : (s.modSpace a f).combs = s.combs := rfl
@[simp] theorem State.modSpace_hots (s : State) (a : Nat) (f : Space → Space) : (s.modSpace a f).hots = s.hots := rfl
@[simp] theorem State.modSpace_sides (s : State) (a : Nat) (f : Space → Space) : (s.modSpace a f).sides = s.sides := rfl
@[simp] theorem State.modSpace_landq (s : State) (a : Nat) (f : Space → Space) : (s.modSpace a f).landq = s.landq := rfl
@[simp] theorem State.modSpace_md (s : State) (a : Nat) (f : Space → Space) : (s.modSpace a f).md = s.md := rfl

/-! ### modGroup -/

@[simp] theorem State.modGroup_now (s : State) (g i : Nat) (f : Group → Group) : (s.modGroup g i f).now = s.now := rfl
@[simp] theorem State.modGroup_clk (s : State) (g i : Nat) (f : Group → Group) : (s.modGroup g i f).clk = s.clk := rfl
@[simp] theorem State.modGroup_tb (s : State) (g i : Nat) (f : Group → Group) : (s.modGroup g i f).tb = s.tb := rfl
@[simp] theorem State.modGroup_tbFrac (s : State) (g i : Nat) (f : Group → Group) : (s.modGroup g i f).tbFrac = s.tbFrac := rfl
@[simp] theorem State.modGroup_cc (s : State) (g i : Nat) (f : Group → Group) : (s.modGroup g i f).cc = s.cc := rfl
@[simp] theorem State.modGroup_cx (s : State) (g i : Nat) (f : Group → Group) : (s.modGroup g i f).cx = s.cx := rfl
@[simp] theorem State.modGroup_scan (s : State) (g i : Nat) (f : Group → Group) : (s.modGroup g i f).scan = s.scan := rfl
@[simp] theorem State.modGroup_fresh (s : State) (g i : Nat) (f : Group → Group) : (s.modGroup g i f).fresh = s.fresh := rfl
@[simp] theorem State.modGroup_nextId (s : State) (g i : Nat) (f : Group → Group) : (s.modGroup g i f).nextId = s.nextId := rfl
@[simp] theorem State.modGroup_code (s : State) (g i : Nat) (f : Group → Group) : (s.modGroup g i f).code = s.code := rfl
@[simp] theorem State.modGroup_ev (s : State) (g i : Nat) (f : Group → Group) : (s.modGroup g i f).ev = s.ev := rfl
@[simp] theorem State.modGroup_cal (s : State) (g i : Nat) (f : Group → Group) : (s.modGroup g i f).cal = s.cal := rfl
@[simp] theorem State.modGroup_inputs (s : State) (g i : Nat) (f : Group → Group) : (s.modGroup g i f).inputs = s.inputs := rfl
@[simp] theorem State.modGroup_cores (s : State) (g i : Nat) (f : Group → Group) : (s.modGroup g i f).cores = s.cores := rfl
@[simp] theorem State.modGroup_mem (s : State) (g i : Nat) (f : Group → Group) : (s.modGroup g i f).mem = s.mem := rfl
@[simp] theorem State.modGroup_stale (s : State) (g i : Nat) (f : Group → Group) : (s.modGroup g i f).stale = s.stale := rfl
@[simp] theorem State.modGroup_spaces (s : State) (g i : Nat) (f : Group → Group) : (s.modGroup g i f).spaces = s.spaces := rfl
@[simp] theorem State.modGroup_parts (s : State) (g i : Nat) (f : Group → Group) : (s.modGroup g i f).parts = s.parts := rfl
@[simp] theorem State.modGroup_sched (s : State) (g i : Nat) (f : Group → Group) : (s.modGroup g i f).sched = s.sched := rfl
@[simp] theorem State.modGroup_counters (s : State) (g i : Nat) (f : Group → Group) : (s.modGroup g i f).counters = s.counters := rfl
@[simp] theorem State.modGroup_reqs (s : State) (g i : Nat) (f : Group → Group) : (s.modGroup g i f).reqs = s.reqs := rfl
@[simp] theorem State.modGroup_held (s : State) (g i : Nat) (f : Group → Group) : (s.modGroup g i f).held = s.held := rfl
@[simp] theorem State.modGroup_resps (s : State) (g i : Nat) (f : Group → Group) : (s.modGroup g i f).resps = s.resps := rfl
@[simp] theorem State.modGroup_watches (s : State) (g i : Nat) (f : Group → Group) : (s.modGroup g i f).watches = s.watches := rfl
@[simp] theorem State.modGroup_journals (s : State) (g i : Nat) (f : Group → Group) : (s.modGroup g i f).journals = s.journals := rfl
@[simp] theorem State.modGroup_did (s : State) (g i : Nat) (f : Group → Group) : (s.modGroup g i f).did = s.did := rfl
@[simp] theorem State.modGroup_units (s : State) (g i : Nat) (f : Group → Group) : (s.modGroup g i f).units = s.units := rfl
@[simp] theorem State.modGroup_halts (s : State) (g i : Nat) (f : Group → Group) : (s.modGroup g i f).halts = s.halts := rfl
@[simp] theorem State.modGroup_genWaits (s : State) (g i : Nat) (f : Group → Group) : (s.modGroup g i f).genWaits = s.genWaits := rfl
@[simp] theorem State.modGroup_tlbWaits (s : State) (g i : Nat) (f : Group → Group) : (s.modGroup g i f).tlbWaits = s.tlbWaits := rfl
@[simp] theorem State.modGroup_traces (s : State) (g i : Nat) (f : Group → Group) : (s.modGroup g i f).traces = s.traces := rfl
@[simp] theorem State.modGroup_chkCore (s : State) (g i : Nat) (f : Group → Group) : (s.modGroup g i f).chkCore = s.chkCore := rfl
@[simp] theorem State.modGroup_mism (s : State) (g i : Nat) (f : Group → Group) : (s.modGroup g i f).mism = s.mism := rfl
@[simp] theorem State.modGroup_viral (s : State) (g i : Nat) (f : Group → Group) : (s.modGroup g i f).viral = s.viral := rfl
@[simp] theorem State.modGroup_virSrc (s : State) (g i : Nat) (f : Group → Group) : (s.modGroup g i f).virSrc = s.virSrc := rfl
@[simp] theorem State.modGroup_virUnit (s : State) (g i : Nat) (f : Group → Group) : (s.modGroup g i f).virUnit = s.virUnit := rfl
@[simp] theorem State.modGroup_vgroups (s : State) (g i : Nat) (f : Group → Group) : (s.modGroup g i f).vgroups = s.vgroups := rfl
@[simp] theorem State.modGroup_xfers (s : State) (g i : Nat) (f : Group → Group) : (s.modGroup g i f).xfers = s.xfers := rfl
@[simp] theorem State.modGroup_unitReqs (s : State) (g i : Nat) (f : Group → Group) : (s.modGroup g i f).unitReqs = s.unitReqs := rfl
@[simp] theorem State.modGroup_refusals (s : State) (g i : Nat) (f : Group → Group) : (s.modGroup g i f).refusals = s.refusals := rfl
@[simp] theorem State.modGroup_arrays (s : State) (g i : Nat) (f : Group → Group) : (s.modGroup g i f).arrays = s.arrays := rfl
@[simp] theorem State.modGroup_clauseReqs (s : State) (g i : Nat) (f : Group → Group) : (s.modGroup g i f).clauseReqs = s.clauseReqs := rfl
@[simp] theorem State.modGroup_maps (s : State) (g i : Nat) (f : Group → Group) : (s.modGroup g i f).maps = s.maps := rfl
@[simp] theorem State.modGroup_versions (s : State) (g i : Nat) (f : Group → Group) : (s.modGroup g i f).versions = s.versions := rfl
@[simp] theorem State.modGroup_kreqs (s : State) (g i : Nat) (f : Group → Group) : (s.modGroup g i f).kreqs = s.kreqs := rfl
@[simp] theorem State.modGroup_kwait (s : State) (g i : Nat) (f : Group → Group) : (s.modGroup g i f).kwait = s.kwait := rfl
@[simp] theorem State.modGroup_combs (s : State) (g i : Nat) (f : Group → Group) : (s.modGroup g i f).combs = s.combs := rfl
@[simp] theorem State.modGroup_hots (s : State) (g i : Nat) (f : Group → Group) : (s.modGroup g i f).hots = s.hots := rfl
@[simp] theorem State.modGroup_sides (s : State) (g i : Nat) (f : Group → Group) : (s.modGroup g i f).sides = s.sides := rfl
@[simp] theorem State.modGroup_landq (s : State) (g i : Nat) (f : Group → Group) : (s.modGroup g i f).landq = s.landq := rfl
@[simp] theorem State.modGroup_md (s : State) (g i : Nat) (f : Group → Group) : (s.modGroup g i f).md = s.md := rfl

/-! ### postAt -/

@[simp] theorem State.postAt_now (s : State) (due chan : Nat) (ev : Instr) (o : Ev) : (s.postAt due chan ev o).now = s.now := rfl
@[simp] theorem State.postAt_clk (s : State) (due chan : Nat) (ev : Instr) (o : Ev) : (s.postAt due chan ev o).clk = s.clk := rfl
@[simp] theorem State.postAt_tb (s : State) (due chan : Nat) (ev : Instr) (o : Ev) : (s.postAt due chan ev o).tb = s.tb := rfl
@[simp] theorem State.postAt_tbFrac (s : State) (due chan : Nat) (ev : Instr) (o : Ev) : (s.postAt due chan ev o).tbFrac = s.tbFrac := rfl
@[simp] theorem State.postAt_cc (s : State) (due chan : Nat) (ev : Instr) (o : Ev) : (s.postAt due chan ev o).cc = s.cc := rfl
@[simp] theorem State.postAt_cx (s : State) (due chan : Nat) (ev : Instr) (o : Ev) : (s.postAt due chan ev o).cx = s.cx := rfl
@[simp] theorem State.postAt_scan (s : State) (due chan : Nat) (ev : Instr) (o : Ev) : (s.postAt due chan ev o).scan = s.scan := rfl
@[simp] theorem State.postAt_fresh (s : State) (due chan : Nat) (ev : Instr) (o : Ev) : (s.postAt due chan ev o).fresh = s.fresh := rfl
@[simp] theorem State.postAt_nextId (s : State) (due chan : Nat) (ev : Instr) (o : Ev) : (s.postAt due chan ev o).nextId = s.nextId := rfl
@[simp] theorem State.postAt_code (s : State) (due chan : Nat) (ev : Instr) (o : Ev) : (s.postAt due chan ev o).code = s.code := rfl
@[simp] theorem State.postAt_ev (s : State) (due chan : Nat) (ev : Instr) (o : Ev) : (s.postAt due chan ev o).ev = s.ev := rfl
@[simp] theorem State.postAt_cal (s : State) (due chan : Nat) (ev : Instr) (o : Ev) : (s.postAt due chan ev o).cal = s.cal ++ [⟨Nat.max due (if chan = 0 then 0 else lastDue chan s.cal), chan, ev, o⟩] := rfl
@[simp] theorem State.postAt_inputs (s : State) (due chan : Nat) (ev : Instr) (o : Ev) : (s.postAt due chan ev o).inputs = s.inputs := rfl
@[simp] theorem State.postAt_cores (s : State) (due chan : Nat) (ev : Instr) (o : Ev) : (s.postAt due chan ev o).cores = s.cores := rfl
@[simp] theorem State.postAt_mem (s : State) (due chan : Nat) (ev : Instr) (o : Ev) : (s.postAt due chan ev o).mem = s.mem := rfl
@[simp] theorem State.postAt_stale (s : State) (due chan : Nat) (ev : Instr) (o : Ev) : (s.postAt due chan ev o).stale = s.stale := rfl
@[simp] theorem State.postAt_spaces (s : State) (due chan : Nat) (ev : Instr) (o : Ev) : (s.postAt due chan ev o).spaces = s.spaces := rfl
@[simp] theorem State.postAt_parts (s : State) (due chan : Nat) (ev : Instr) (o : Ev) : (s.postAt due chan ev o).parts = s.parts := rfl
@[simp] theorem State.postAt_gangs (s : State) (due chan : Nat) (ev : Instr) (o : Ev) : (s.postAt due chan ev o).gangs = s.gangs := rfl
@[simp] theorem State.postAt_sched (s : State) (due chan : Nat) (ev : Instr) (o : Ev) : (s.postAt due chan ev o).sched = s.sched := rfl
@[simp] theorem State.postAt_counters (s : State) (due chan : Nat) (ev : Instr) (o : Ev) : (s.postAt due chan ev o).counters = s.counters := rfl
@[simp] theorem State.postAt_reqs (s : State) (due chan : Nat) (ev : Instr) (o : Ev) : (s.postAt due chan ev o).reqs = s.reqs := rfl
@[simp] theorem State.postAt_held (s : State) (due chan : Nat) (ev : Instr) (o : Ev) : (s.postAt due chan ev o).held = s.held := rfl
@[simp] theorem State.postAt_resps (s : State) (due chan : Nat) (ev : Instr) (o : Ev) : (s.postAt due chan ev o).resps = s.resps := rfl
@[simp] theorem State.postAt_watches (s : State) (due chan : Nat) (ev : Instr) (o : Ev) : (s.postAt due chan ev o).watches = s.watches := rfl
@[simp] theorem State.postAt_journals (s : State) (due chan : Nat) (ev : Instr) (o : Ev) : (s.postAt due chan ev o).journals = s.journals := rfl
@[simp] theorem State.postAt_did (s : State) (due chan : Nat) (ev : Instr) (o : Ev) : (s.postAt due chan ev o).did = s.did := rfl
@[simp] theorem State.postAt_units (s : State) (due chan : Nat) (ev : Instr) (o : Ev) : (s.postAt due chan ev o).units = s.units := rfl
@[simp] theorem State.postAt_halts (s : State) (due chan : Nat) (ev : Instr) (o : Ev) : (s.postAt due chan ev o).halts = s.halts := rfl
@[simp] theorem State.postAt_genWaits (s : State) (due chan : Nat) (ev : Instr) (o : Ev) : (s.postAt due chan ev o).genWaits = s.genWaits := rfl
@[simp] theorem State.postAt_tlbWaits (s : State) (due chan : Nat) (ev : Instr) (o : Ev) : (s.postAt due chan ev o).tlbWaits = s.tlbWaits := rfl
@[simp] theorem State.postAt_traces (s : State) (due chan : Nat) (ev : Instr) (o : Ev) : (s.postAt due chan ev o).traces = s.traces := rfl
@[simp] theorem State.postAt_chkCore (s : State) (due chan : Nat) (ev : Instr) (o : Ev) : (s.postAt due chan ev o).chkCore = s.chkCore := rfl
@[simp] theorem State.postAt_mism (s : State) (due chan : Nat) (ev : Instr) (o : Ev) : (s.postAt due chan ev o).mism = s.mism := rfl
@[simp] theorem State.postAt_viral (s : State) (due chan : Nat) (ev : Instr) (o : Ev) : (s.postAt due chan ev o).viral = s.viral := rfl
@[simp] theorem State.postAt_virSrc (s : State) (due chan : Nat) (ev : Instr) (o : Ev) : (s.postAt due chan ev o).virSrc = s.virSrc := rfl
@[simp] theorem State.postAt_virUnit (s : State) (due chan : Nat) (ev : Instr) (o : Ev) : (s.postAt due chan ev o).virUnit = s.virUnit := rfl
@[simp] theorem State.postAt_vgroups (s : State) (due chan : Nat) (ev : Instr) (o : Ev) : (s.postAt due chan ev o).vgroups = s.vgroups := rfl
@[simp] theorem State.postAt_xfers (s : State) (due chan : Nat) (ev : Instr) (o : Ev) : (s.postAt due chan ev o).xfers = s.xfers := rfl
@[simp] theorem State.postAt_unitReqs (s : State) (due chan : Nat) (ev : Instr) (o : Ev) : (s.postAt due chan ev o).unitReqs = s.unitReqs := rfl
@[simp] theorem State.postAt_refusals (s : State) (due chan : Nat) (ev : Instr) (o : Ev) : (s.postAt due chan ev o).refusals = s.refusals := rfl
@[simp] theorem State.postAt_arrays (s : State) (due chan : Nat) (ev : Instr) (o : Ev) : (s.postAt due chan ev o).arrays = s.arrays := rfl
@[simp] theorem State.postAt_clauseReqs (s : State) (due chan : Nat) (ev : Instr) (o : Ev) : (s.postAt due chan ev o).clauseReqs = s.clauseReqs := rfl
@[simp] theorem State.postAt_maps (s : State) (due chan : Nat) (ev : Instr) (o : Ev) : (s.postAt due chan ev o).maps = s.maps := rfl
@[simp] theorem State.postAt_versions (s : State) (due chan : Nat) (ev : Instr) (o : Ev) : (s.postAt due chan ev o).versions = s.versions := rfl
@[simp] theorem State.postAt_kreqs (s : State) (due chan : Nat) (ev : Instr) (o : Ev) : (s.postAt due chan ev o).kreqs = s.kreqs := rfl
@[simp] theorem State.postAt_kwait (s : State) (due chan : Nat) (ev : Instr) (o : Ev) : (s.postAt due chan ev o).kwait = s.kwait := rfl
@[simp] theorem State.postAt_combs (s : State) (due chan : Nat) (ev : Instr) (o : Ev) : (s.postAt due chan ev o).combs = s.combs := rfl
@[simp] theorem State.postAt_hots (s : State) (due chan : Nat) (ev : Instr) (o : Ev) : (s.postAt due chan ev o).hots = s.hots := rfl
@[simp] theorem State.postAt_sides (s : State) (due chan : Nat) (ev : Instr) (o : Ev) : (s.postAt due chan ev o).sides = s.sides := rfl
@[simp] theorem State.postAt_landq (s : State) (due chan : Nat) (ev : Instr) (o : Ev) : (s.postAt due chan ev o).landq = s.landq := rfl
@[simp] theorem State.postAt_md (s : State) (due chan : Nat) (ev : Instr) (o : Ev) : (s.postAt due chan ev o).md = s.md := rfl

/-! ### post -/

@[simp] theorem State.post_now (s : State) (chan : Nat) (ev : Instr) (o : Ev) : (s.post chan ev o).now = s.now := rfl
@[simp] theorem State.post_clk (s : State) (chan : Nat) (ev : Instr) (o : Ev) : (s.post chan ev o).clk = s.clk := rfl
@[simp] theorem State.post_tb (s : State) (chan : Nat) (ev : Instr) (o : Ev) : (s.post chan ev o).tb = s.tb := rfl
@[simp] theorem State.post_tbFrac (s : State) (chan : Nat) (ev : Instr) (o : Ev) : (s.post chan ev o).tbFrac = s.tbFrac := rfl
@[simp] theorem State.post_cc (s : State) (chan : Nat) (ev : Instr) (o : Ev) : (s.post chan ev o).cc = s.cc := rfl
@[simp] theorem State.post_cx (s : State) (chan : Nat) (ev : Instr) (o : Ev) : (s.post chan ev o).cx = s.cx := rfl
@[simp] theorem State.post_scan (s : State) (chan : Nat) (ev : Instr) (o : Ev) : (s.post chan ev o).scan = s.scan := rfl
@[simp] theorem State.post_fresh (s : State) (chan : Nat) (ev : Instr) (o : Ev) : (s.post chan ev o).fresh = s.fresh + 1 := rfl
@[simp] theorem State.post_nextId (s : State) (chan : Nat) (ev : Instr) (o : Ev) : (s.post chan ev o).nextId = s.nextId := rfl
@[simp] theorem State.post_code (s : State) (chan : Nat) (ev : Instr) (o : Ev) : (s.post chan ev o).code = s.code := rfl
@[simp] theorem State.post_ev (s : State) (chan : Nat) (ev : Instr) (o : Ev) : (s.post chan ev o).ev = s.ev := rfl
@[simp] theorem State.post_cal (s : State) (chan : Nat) (ev : Instr) (o : Ev) : (s.post chan ev o).cal = s.cal ++ [⟨Nat.max (s.now + 1 + s.freeN 0) (if chan = 0 then 0 else lastDue chan s.cal), chan, ev, o⟩] := rfl
@[simp] theorem State.post_inputs (s : State) (chan : Nat) (ev : Instr) (o : Ev) : (s.post chan ev o).inputs = s.inputs := rfl
@[simp] theorem State.post_cores (s : State) (chan : Nat) (ev : Instr) (o : Ev) : (s.post chan ev o).cores = s.cores := rfl
@[simp] theorem State.post_mem (s : State) (chan : Nat) (ev : Instr) (o : Ev) : (s.post chan ev o).mem = s.mem := rfl
@[simp] theorem State.post_stale (s : State) (chan : Nat) (ev : Instr) (o : Ev) : (s.post chan ev o).stale = s.stale := rfl
@[simp] theorem State.post_spaces (s : State) (chan : Nat) (ev : Instr) (o : Ev) : (s.post chan ev o).spaces = s.spaces := rfl
@[simp] theorem State.post_parts (s : State) (chan : Nat) (ev : Instr) (o : Ev) : (s.post chan ev o).parts = s.parts := rfl
@[simp] theorem State.post_gangs (s : State) (chan : Nat) (ev : Instr) (o : Ev) : (s.post chan ev o).gangs = s.gangs := rfl
@[simp] theorem State.post_sched (s : State) (chan : Nat) (ev : Instr) (o : Ev) : (s.post chan ev o).sched = s.sched := rfl
@[simp] theorem State.post_counters (s : State) (chan : Nat) (ev : Instr) (o : Ev) : (s.post chan ev o).counters = s.counters := rfl
@[simp] theorem State.post_reqs (s : State) (chan : Nat) (ev : Instr) (o : Ev) : (s.post chan ev o).reqs = s.reqs := rfl
@[simp] theorem State.post_held (s : State) (chan : Nat) (ev : Instr) (o : Ev) : (s.post chan ev o).held = s.held := rfl
@[simp] theorem State.post_resps (s : State) (chan : Nat) (ev : Instr) (o : Ev) : (s.post chan ev o).resps = s.resps := rfl
@[simp] theorem State.post_watches (s : State) (chan : Nat) (ev : Instr) (o : Ev) : (s.post chan ev o).watches = s.watches := rfl
@[simp] theorem State.post_journals (s : State) (chan : Nat) (ev : Instr) (o : Ev) : (s.post chan ev o).journals = s.journals := rfl
@[simp] theorem State.post_did (s : State) (chan : Nat) (ev : Instr) (o : Ev) : (s.post chan ev o).did = s.did := rfl
@[simp] theorem State.post_units (s : State) (chan : Nat) (ev : Instr) (o : Ev) : (s.post chan ev o).units = s.units := rfl
@[simp] theorem State.post_halts (s : State) (chan : Nat) (ev : Instr) (o : Ev) : (s.post chan ev o).halts = s.halts := rfl
@[simp] theorem State.post_genWaits (s : State) (chan : Nat) (ev : Instr) (o : Ev) : (s.post chan ev o).genWaits = s.genWaits := rfl
@[simp] theorem State.post_tlbWaits (s : State) (chan : Nat) (ev : Instr) (o : Ev) : (s.post chan ev o).tlbWaits = s.tlbWaits := rfl
@[simp] theorem State.post_traces (s : State) (chan : Nat) (ev : Instr) (o : Ev) : (s.post chan ev o).traces = s.traces := rfl
@[simp] theorem State.post_chkCore (s : State) (chan : Nat) (ev : Instr) (o : Ev) : (s.post chan ev o).chkCore = s.chkCore := rfl
@[simp] theorem State.post_mism (s : State) (chan : Nat) (ev : Instr) (o : Ev) : (s.post chan ev o).mism = s.mism := rfl
@[simp] theorem State.post_viral (s : State) (chan : Nat) (ev : Instr) (o : Ev) : (s.post chan ev o).viral = s.viral := rfl
@[simp] theorem State.post_virSrc (s : State) (chan : Nat) (ev : Instr) (o : Ev) : (s.post chan ev o).virSrc = s.virSrc := rfl
@[simp] theorem State.post_virUnit (s : State) (chan : Nat) (ev : Instr) (o : Ev) : (s.post chan ev o).virUnit = s.virUnit := rfl
@[simp] theorem State.post_vgroups (s : State) (chan : Nat) (ev : Instr) (o : Ev) : (s.post chan ev o).vgroups = s.vgroups := rfl
@[simp] theorem State.post_xfers (s : State) (chan : Nat) (ev : Instr) (o : Ev) : (s.post chan ev o).xfers = s.xfers := rfl
@[simp] theorem State.post_unitReqs (s : State) (chan : Nat) (ev : Instr) (o : Ev) : (s.post chan ev o).unitReqs = s.unitReqs := rfl
@[simp] theorem State.post_refusals (s : State) (chan : Nat) (ev : Instr) (o : Ev) : (s.post chan ev o).refusals = s.refusals := rfl
@[simp] theorem State.post_arrays (s : State) (chan : Nat) (ev : Instr) (o : Ev) : (s.post chan ev o).arrays = s.arrays := rfl
@[simp] theorem State.post_clauseReqs (s : State) (chan : Nat) (ev : Instr) (o : Ev) : (s.post chan ev o).clauseReqs = s.clauseReqs := rfl
@[simp] theorem State.post_maps (s : State) (chan : Nat) (ev : Instr) (o : Ev) : (s.post chan ev o).maps = s.maps := rfl
@[simp] theorem State.post_versions (s : State) (chan : Nat) (ev : Instr) (o : Ev) : (s.post chan ev o).versions = s.versions := rfl
@[simp] theorem State.post_kreqs (s : State) (chan : Nat) (ev : Instr) (o : Ev) : (s.post chan ev o).kreqs = s.kreqs := rfl
@[simp] theorem State.post_kwait (s : State) (chan : Nat) (ev : Instr) (o : Ev) : (s.post chan ev o).kwait = s.kwait := rfl
@[simp] theorem State.post_combs (s : State) (chan : Nat) (ev : Instr) (o : Ev) : (s.post chan ev o).combs = s.combs := rfl
@[simp] theorem State.post_hots (s : State) (chan : Nat) (ev : Instr) (o : Ev) : (s.post chan ev o).hots = s.hots := rfl
@[simp] theorem State.post_sides (s : State) (chan : Nat) (ev : Instr) (o : Ev) : (s.post chan ev o).sides = s.sides := rfl
@[simp] theorem State.post_landq (s : State) (chan : Nat) (ev : Instr) (o : Ev) : (s.post chan ev o).landq = s.landq := rfl
@[simp] theorem State.post_md (s : State) (chan : Nat) (ev : Instr) (o : Ev) : (s.post chan ev o).md = s.md := rfl

/-! ### renew -/

@[simp] theorem State.renew_now (s : State) : (s.renew).now = s.now := rfl
@[simp] theorem State.renew_clk (s : State) : (s.renew).clk = s.clk := rfl
@[simp] theorem State.renew_tb (s : State) : (s.renew).tb = s.tb := rfl
@[simp] theorem State.renew_tbFrac (s : State) : (s.renew).tbFrac = s.tbFrac := rfl
@[simp] theorem State.renew_cc (s : State) : (s.renew).cc = s.cc := rfl
@[simp] theorem State.renew_cx (s : State) : (s.renew).cx = s.cx := rfl
@[simp] theorem State.renew_scan (s : State) : (s.renew).scan = s.scan := rfl
@[simp] theorem State.renew_fresh (s : State) : (s.renew).fresh = s.fresh + 1 := rfl
@[simp] theorem State.renew_nextId (s : State) : (s.renew).nextId = s.nextId := rfl
@[simp] theorem State.renew_code (s : State) : (s.renew).code = s.code := rfl
@[simp] theorem State.renew_ev (s : State) : (s.renew).ev = s.ev := rfl
@[simp] theorem State.renew_cal (s : State) : (s.renew).cal = s.cal := rfl
@[simp] theorem State.renew_inputs (s : State) : (s.renew).inputs = s.inputs := rfl
@[simp] theorem State.renew_cores (s : State) : (s.renew).cores = s.cores := rfl
@[simp] theorem State.renew_mem (s : State) : (s.renew).mem = s.mem := rfl
@[simp] theorem State.renew_stale (s : State) : (s.renew).stale = s.stale := rfl
@[simp] theorem State.renew_spaces (s : State) : (s.renew).spaces = s.spaces := rfl
@[simp] theorem State.renew_parts (s : State) : (s.renew).parts = s.parts := rfl
@[simp] theorem State.renew_gangs (s : State) : (s.renew).gangs = s.gangs := rfl
@[simp] theorem State.renew_sched (s : State) : (s.renew).sched = s.sched := rfl
@[simp] theorem State.renew_counters (s : State) : (s.renew).counters = s.counters := rfl
@[simp] theorem State.renew_reqs (s : State) : (s.renew).reqs = s.reqs := rfl
@[simp] theorem State.renew_held (s : State) : (s.renew).held = s.held := rfl
@[simp] theorem State.renew_resps (s : State) : (s.renew).resps = s.resps := rfl
@[simp] theorem State.renew_watches (s : State) : (s.renew).watches = s.watches := rfl
@[simp] theorem State.renew_journals (s : State) : (s.renew).journals = s.journals := rfl
@[simp] theorem State.renew_did (s : State) : (s.renew).did = s.did := rfl
@[simp] theorem State.renew_units (s : State) : (s.renew).units = s.units := rfl
@[simp] theorem State.renew_halts (s : State) : (s.renew).halts = s.halts := rfl
@[simp] theorem State.renew_genWaits (s : State) : (s.renew).genWaits = s.genWaits := rfl
@[simp] theorem State.renew_tlbWaits (s : State) : (s.renew).tlbWaits = s.tlbWaits := rfl
@[simp] theorem State.renew_traces (s : State) : (s.renew).traces = s.traces := rfl
@[simp] theorem State.renew_chkCore (s : State) : (s.renew).chkCore = s.chkCore := rfl
@[simp] theorem State.renew_mism (s : State) : (s.renew).mism = s.mism := rfl
@[simp] theorem State.renew_viral (s : State) : (s.renew).viral = s.viral := rfl
@[simp] theorem State.renew_virSrc (s : State) : (s.renew).virSrc = s.virSrc := rfl
@[simp] theorem State.renew_virUnit (s : State) : (s.renew).virUnit = s.virUnit := rfl
@[simp] theorem State.renew_vgroups (s : State) : (s.renew).vgroups = s.vgroups := rfl
@[simp] theorem State.renew_xfers (s : State) : (s.renew).xfers = s.xfers := rfl
@[simp] theorem State.renew_unitReqs (s : State) : (s.renew).unitReqs = s.unitReqs := rfl
@[simp] theorem State.renew_refusals (s : State) : (s.renew).refusals = s.refusals := rfl
@[simp] theorem State.renew_arrays (s : State) : (s.renew).arrays = s.arrays := rfl
@[simp] theorem State.renew_clauseReqs (s : State) : (s.renew).clauseReqs = s.clauseReqs := rfl
@[simp] theorem State.renew_maps (s : State) : (s.renew).maps = s.maps := rfl
@[simp] theorem State.renew_versions (s : State) : (s.renew).versions = s.versions := rfl
@[simp] theorem State.renew_kreqs (s : State) : (s.renew).kreqs = s.kreqs := rfl
@[simp] theorem State.renew_kwait (s : State) : (s.renew).kwait = s.kwait := rfl
@[simp] theorem State.renew_combs (s : State) : (s.renew).combs = s.combs := rfl
@[simp] theorem State.renew_hots (s : State) : (s.renew).hots = s.hots := rfl
@[simp] theorem State.renew_sides (s : State) : (s.renew).sides = s.sides := rfl
@[simp] theorem State.renew_landq (s : State) : (s.renew).landq = s.landq := rfl
@[simp] theorem State.renew_md (s : State) : (s.renew).md = s.md := rfl

/-! ### useId -/

@[simp] theorem State.useId_now (s : State) : (s.useId).now = s.now := rfl
@[simp] theorem State.useId_clk (s : State) : (s.useId).clk = s.clk := rfl
@[simp] theorem State.useId_tb (s : State) : (s.useId).tb = s.tb := rfl
@[simp] theorem State.useId_tbFrac (s : State) : (s.useId).tbFrac = s.tbFrac := rfl
@[simp] theorem State.useId_cc (s : State) : (s.useId).cc = s.cc := rfl
@[simp] theorem State.useId_cx (s : State) : (s.useId).cx = s.cx := rfl
@[simp] theorem State.useId_scan (s : State) : (s.useId).scan = s.scan := rfl
@[simp] theorem State.useId_fresh (s : State) : (s.useId).fresh = s.fresh := rfl
@[simp] theorem State.useId_nextId (s : State) : (s.useId).nextId = s.nextId + 1 := rfl
@[simp] theorem State.useId_code (s : State) : (s.useId).code = s.code := rfl
@[simp] theorem State.useId_ev (s : State) : (s.useId).ev = s.ev := rfl
@[simp] theorem State.useId_cal (s : State) : (s.useId).cal = s.cal := rfl
@[simp] theorem State.useId_inputs (s : State) : (s.useId).inputs = s.inputs := rfl
@[simp] theorem State.useId_cores (s : State) : (s.useId).cores = s.cores := rfl
@[simp] theorem State.useId_mem (s : State) : (s.useId).mem = s.mem := rfl
@[simp] theorem State.useId_stale (s : State) : (s.useId).stale = s.stale := rfl
@[simp] theorem State.useId_spaces (s : State) : (s.useId).spaces = s.spaces := rfl
@[simp] theorem State.useId_parts (s : State) : (s.useId).parts = s.parts := rfl
@[simp] theorem State.useId_gangs (s : State) : (s.useId).gangs = s.gangs := rfl
@[simp] theorem State.useId_sched (s : State) : (s.useId).sched = s.sched := rfl
@[simp] theorem State.useId_counters (s : State) : (s.useId).counters = s.counters := rfl
@[simp] theorem State.useId_reqs (s : State) : (s.useId).reqs = s.reqs := rfl
@[simp] theorem State.useId_held (s : State) : (s.useId).held = s.held := rfl
@[simp] theorem State.useId_resps (s : State) : (s.useId).resps = s.resps := rfl
@[simp] theorem State.useId_watches (s : State) : (s.useId).watches = s.watches := rfl
@[simp] theorem State.useId_journals (s : State) : (s.useId).journals = s.journals := rfl
@[simp] theorem State.useId_did (s : State) : (s.useId).did = s.did := rfl
@[simp] theorem State.useId_units (s : State) : (s.useId).units = s.units := rfl
@[simp] theorem State.useId_halts (s : State) : (s.useId).halts = s.halts := rfl
@[simp] theorem State.useId_genWaits (s : State) : (s.useId).genWaits = s.genWaits := rfl
@[simp] theorem State.useId_tlbWaits (s : State) : (s.useId).tlbWaits = s.tlbWaits := rfl
@[simp] theorem State.useId_traces (s : State) : (s.useId).traces = s.traces := rfl
@[simp] theorem State.useId_chkCore (s : State) : (s.useId).chkCore = s.chkCore := rfl
@[simp] theorem State.useId_mism (s : State) : (s.useId).mism = s.mism := rfl
@[simp] theorem State.useId_viral (s : State) : (s.useId).viral = s.viral := rfl
@[simp] theorem State.useId_virSrc (s : State) : (s.useId).virSrc = s.virSrc := rfl
@[simp] theorem State.useId_virUnit (s : State) : (s.useId).virUnit = s.virUnit := rfl
@[simp] theorem State.useId_vgroups (s : State) : (s.useId).vgroups = s.vgroups := rfl
@[simp] theorem State.useId_xfers (s : State) : (s.useId).xfers = s.xfers := rfl
@[simp] theorem State.useId_unitReqs (s : State) : (s.useId).unitReqs = s.unitReqs := rfl
@[simp] theorem State.useId_refusals (s : State) : (s.useId).refusals = s.refusals := rfl
@[simp] theorem State.useId_arrays (s : State) : (s.useId).arrays = s.arrays := rfl
@[simp] theorem State.useId_clauseReqs (s : State) : (s.useId).clauseReqs = s.clauseReqs := rfl
@[simp] theorem State.useId_maps (s : State) : (s.useId).maps = s.maps := rfl
@[simp] theorem State.useId_versions (s : State) : (s.useId).versions = s.versions := rfl
@[simp] theorem State.useId_kreqs (s : State) : (s.useId).kreqs = s.kreqs := rfl
@[simp] theorem State.useId_kwait (s : State) : (s.useId).kwait = s.kwait := rfl
@[simp] theorem State.useId_combs (s : State) : (s.useId).combs = s.combs := rfl
@[simp] theorem State.useId_hots (s : State) : (s.useId).hots = s.hots := rfl
@[simp] theorem State.useId_sides (s : State) : (s.useId).sides = s.sides := rfl
@[simp] theorem State.useId_landq (s : State) : (s.useId).landq = s.landq := rfl
@[simp] theorem State.useId_md (s : State) : (s.useId).md = s.md := rfl

/-! ### Ctx.setSlot -/

@[simp] theorem Ctx.setSlot_status (t : Ctx) (k : Nat) (v : Word) : (t.setSlot k v).status = t.status := rfl
@[simp] theorem Ctx.setSlot_hk (t : Ctx) (k : Nat) (v : Word) : (t.setSlot k v).hk = t.hk := rfl
@[simp] theorem Ctx.setSlot_ih (t : Ctx) (k : Nat) (v : Word) : (t.setSlot k v).ih = t.ih := rfl
@[simp] theorem Ctx.setSlot_rt (t : Ctx) (k : Nat) (v : Word) : (t.setSlot k v).rt = t.rt := rfl
@[simp] theorem Ctx.setSlot_hp (t : Ctx) (k : Nat) (v : Word) : (t.setSlot k v).hp = t.hp := rfl
@[simp] theorem Ctx.setSlot_haltMk (t : Ctx) (k : Nat) (v : Word) : (t.setSlot k v).haltMk = t.haltMk := rfl
@[simp] theorem Ctx.setSlot_haltCause (t : Ctx) (k : Nat) (v : Word) : (t.setSlot k v).haltCause = t.haltCause := rfl
@[simp] theorem Ctx.setSlot_haltWord (t : Ctx) (k : Nat) (v : Word) : (t.setSlot k v).haltWord = t.haltWord := rfl
@[simp] theorem Ctx.setSlot_pc (t : Ctx) (k : Nat) (v : Word) : (t.setSlot k v).pc = t.pc := rfl
@[simp] theorem Ctx.setSlot_regs (t : Ctx) (k : Nat) (v : Word) : (t.setSlot k v).regs = t.regs := rfl
@[simp] theorem Ctx.setSlot_slots (t : Ctx) (k : Nat) (v : Word) : (t.setSlot k v).slots = SMap.set 0 t.slots k v := rfl
@[simp] theorem Ctx.setSlot_head (t : Ctx) (k : Nat) (v : Word) : (t.setSlot k v).head = t.head := rfl
@[simp] theorem Ctx.setSlot_pend (t : Ctx) (k : Nat) (v : Word) : (t.setSlot k v).pend = t.pend := rfl
@[simp] theorem Ctx.setSlot_st (t : Ctx) (k : Nat) (v : Word) : (t.setSlot k v).st = t.st := rfl
@[simp] theorem Ctx.setSlot_vl (t : Ctx) (k : Nat) (v : Word) : (t.setSlot k v).vl = t.vl := rfl
@[simp] theorem Ctx.setSlot_readyAt (t : Ctx) (k : Nat) (v : Word) : (t.setSlot k v).readyAt = t.readyAt := rfl
@[simp] theorem Ctx.setSlot_wait (t : Ctx) (k : Nat) (v : Word) : (t.setSlot k v).wait = t.wait := rfl
@[simp] theorem Ctx.setSlot_frame (t : Ctx) (k : Nat) (v : Word) : (t.setSlot k v).frame = t.frame := rfl
@[simp] theorem Ctx.setSlot_frameRpt (t : Ctx) (k : Nat) (v : Word) : (t.setSlot k v).frameRpt = t.frameRpt := rfl
@[simp] theorem Ctx.setSlot_ld (t : Ctx) (k : Nat) (v : Word) : (t.setSlot k v).ld = t.ld := rfl
@[simp] theorem Ctx.setSlot_stq (t : Ctx) (k : Nat) (v : Word) : (t.setSlot k v).stq = t.stq := rfl
@[simp] theorem Ctx.setSlot_enc (t : Ctx) (k : Nat) (v : Word) : (t.setSlot k v).enc = t.enc := rfl
@[simp] theorem Ctx.setSlot_mbc (t : Ctx) (k : Nat) (v : Word) : (t.setSlot k v).mbc = t.mbc := rfl
@[simp] theorem Ctx.setSlot_vqc (t : Ctx) (k : Nat) (v : Word) : (t.setSlot k v).vqc = t.vqc := rfl
@[simp] theorem Ctx.setSlot_mpend (t : Ctx) (k : Nat) (v : Word) : (t.setSlot k v).mpend = t.mpend := rfl
@[simp] theorem Ctx.setSlot_late (t : Ctx) (k : Nat) (v : Word) : (t.setSlot k v).late = t.late := rfl
@[simp] theorem Ctx.setSlot_groups (t : Ctx) (k : Nat) (v : Word) : (t.setSlot k v).groups = t.groups := rfl
@[simp] theorem Ctx.setSlot_trec (t : Ctx) (k : Nat) (v : Word) : (t.setSlot k v).trec = t.trec := rfl
@[simp] theorem Ctx.setSlot_taddr (t : Ctx) (k : Nat) (v : Word) : (t.setSlot k v).taddr = t.taddr := rfl
@[simp] theorem Ctx.setSlot_ien (t : Ctx) (k : Nat) (v : Word) : (t.setSlot k v).ien = t.ien := rfl
@[simp] theorem Ctx.setSlot_soft (t : Ctx) (k : Nat) (v : Word) : (t.setSlot k v).soft = t.soft := rfl
@[simp] theorem Ctx.setSlot_tpost (t : Ctx) (k : Nat) (v : Word) : (t.setSlot k v).tpost = t.tpost := rfl
@[simp] theorem Ctx.setSlot_rewalk (t : Ctx) (k : Nat) (v : Word) : (t.setSlot k v).rewalk = t.rewalk := rfl
@[simp] theorem Ctx.setSlot_haltBack (t : Ctx) (k : Nat) (v : Word) : (t.setSlot k v).haltBack = t.haltBack := rfl
@[simp] theorem Ctx.setSlot_walked (t : Ctx) (k : Nat) (v : Word) : (t.setSlot k v).walked = t.walked := rfl
@[simp] theorem Ctx.setSlot_tcmp (t : Ctx) (k : Nat) (v : Word) : (t.setSlot k v).tcmp = t.tcmp := rfl
@[simp] theorem Ctx.setSlot_asel (t : Ctx) (k : Nat) (v : Word) : (t.setSlot k v).asel = t.asel := rfl
@[simp] theorem Ctx.setSlot_psel (t : Ctx) (k : Nat) (v : Word) : (t.setSlot k v).psel = t.psel := rfl
@[simp] theorem Ctx.setSlot_seqn (t : Ctx) (k : Nat) (v : Word) : (t.setSlot k v).seqn = t.seqn := rfl
@[simp] theorem Ctx.setSlot_seqr (t : Ctx) (k : Nat) (v : Word) : (t.setSlot k v).seqr = t.seqr := rfl
@[simp] theorem Ctx.setSlot_localAt (t : Ctx) (k : Nat) (v : Word) : (t.setSlot k v).localAt = t.localAt := rfl
@[simp] theorem Ctx.setSlot_localTo (t : Ctx) (k : Nat) (v : Word) : (t.setSlot k v).localTo = t.localTo := rfl
@[simp] theorem Ctx.setSlot_issuedAt (t : Ctx) (k : Nat) (v : Word) : (t.setSlot k v).issuedAt = t.issuedAt := rfl
@[simp] theorem Ctx.setSlot_frameAt (t : Ctx) (k : Nat) (v : Word) : (t.setSlot k v).frameAt = t.frameAt := rfl

/-! ### Ctx.orFlags -/

@[simp] theorem Ctx.orFlags_status (t : Ctx) (f : Nat) : (t.orFlags f).status = t.status := rfl
@[simp] theorem Ctx.orFlags_hk (t : Ctx) (f : Nat) : (t.orFlags f).hk = t.hk := rfl
@[simp] theorem Ctx.orFlags_ih (t : Ctx) (f : Nat) : (t.orFlags f).ih = t.ih := rfl
@[simp] theorem Ctx.orFlags_rt (t : Ctx) (f : Nat) : (t.orFlags f).rt = t.rt := rfl
@[simp] theorem Ctx.orFlags_hp (t : Ctx) (f : Nat) : (t.orFlags f).hp = t.hp := rfl
@[simp] theorem Ctx.orFlags_haltMk (t : Ctx) (f : Nat) : (t.orFlags f).haltMk = t.haltMk := rfl
@[simp] theorem Ctx.orFlags_haltCause (t : Ctx) (f : Nat) : (t.orFlags f).haltCause = t.haltCause := rfl
@[simp] theorem Ctx.orFlags_haltWord (t : Ctx) (f : Nat) : (t.orFlags f).haltWord = t.haltWord := rfl
@[simp] theorem Ctx.orFlags_pc (t : Ctx) (f : Nat) : (t.orFlags f).pc = t.pc := rfl
@[simp] theorem Ctx.orFlags_regs (t : Ctx) (f : Nat) : (t.orFlags f).regs = t.regs := rfl
@[simp] theorem Ctx.orFlags_slots (t : Ctx) (f : Nat) : (t.orFlags f).slots = t.slots := rfl
@[simp] theorem Ctx.orFlags_head (t : Ctx) (f : Nat) : (t.orFlags f).head = t.head := rfl
@[simp] theorem Ctx.orFlags_pend (t : Ctx) (f : Nat) : (t.orFlags f).pend = t.pend := rfl
@[simp] theorem Ctx.orFlags_st (t : Ctx) (f : Nat) : (t.orFlags f).st = t.st ||| word (f % 32) := rfl
@[simp] theorem Ctx.orFlags_vl (t : Ctx) (f : Nat) : (t.orFlags f).vl = t.vl := rfl
@[simp] theorem Ctx.orFlags_readyAt (t : Ctx) (f : Nat) : (t.orFlags f).readyAt = t.readyAt := rfl
@[simp] theorem Ctx.orFlags_wait (t : Ctx) (f : Nat) : (t.orFlags f).wait = t.wait := rfl
@[simp] theorem Ctx.orFlags_frame (t : Ctx) (f : Nat) : (t.orFlags f).frame = t.frame := rfl
@[simp] theorem Ctx.orFlags_frameRpt (t : Ctx) (f : Nat) : (t.orFlags f).frameRpt = t.frameRpt := rfl
@[simp] theorem Ctx.orFlags_ld (t : Ctx) (f : Nat) : (t.orFlags f).ld = t.ld := rfl
@[simp] theorem Ctx.orFlags_stq (t : Ctx) (f : Nat) : (t.orFlags f).stq = t.stq := rfl
@[simp] theorem Ctx.orFlags_enc (t : Ctx) (f : Nat) : (t.orFlags f).enc = t.enc := rfl
@[simp] theorem Ctx.orFlags_mbc (t : Ctx) (f : Nat) : (t.orFlags f).mbc = t.mbc := rfl
@[simp] theorem Ctx.orFlags_vqc (t : Ctx) (f : Nat) : (t.orFlags f).vqc = t.vqc := rfl
@[simp] theorem Ctx.orFlags_mpend (t : Ctx) (f : Nat) : (t.orFlags f).mpend = t.mpend := rfl
@[simp] theorem Ctx.orFlags_late (t : Ctx) (f : Nat) : (t.orFlags f).late = t.late := rfl
@[simp] theorem Ctx.orFlags_groups (t : Ctx) (f : Nat) : (t.orFlags f).groups = t.groups := rfl
@[simp] theorem Ctx.orFlags_trec (t : Ctx) (f : Nat) : (t.orFlags f).trec = t.trec := rfl
@[simp] theorem Ctx.orFlags_taddr (t : Ctx) (f : Nat) : (t.orFlags f).taddr = t.taddr := rfl
@[simp] theorem Ctx.orFlags_ien (t : Ctx) (f : Nat) : (t.orFlags f).ien = t.ien := rfl
@[simp] theorem Ctx.orFlags_soft (t : Ctx) (f : Nat) : (t.orFlags f).soft = t.soft := rfl
@[simp] theorem Ctx.orFlags_tpost (t : Ctx) (f : Nat) : (t.orFlags f).tpost = t.tpost := rfl
@[simp] theorem Ctx.orFlags_rewalk (t : Ctx) (f : Nat) : (t.orFlags f).rewalk = t.rewalk := rfl
@[simp] theorem Ctx.orFlags_haltBack (t : Ctx) (f : Nat) : (t.orFlags f).haltBack = t.haltBack := rfl
@[simp] theorem Ctx.orFlags_walked (t : Ctx) (f : Nat) : (t.orFlags f).walked = t.walked := rfl
@[simp] theorem Ctx.orFlags_tcmp (t : Ctx) (f : Nat) : (t.orFlags f).tcmp = t.tcmp := rfl
@[simp] theorem Ctx.orFlags_asel (t : Ctx) (f : Nat) : (t.orFlags f).asel = t.asel := rfl
@[simp] theorem Ctx.orFlags_psel (t : Ctx) (f : Nat) : (t.orFlags f).psel = t.psel := rfl
@[simp] theorem Ctx.orFlags_seqn (t : Ctx) (f : Nat) : (t.orFlags f).seqn = t.seqn := rfl
@[simp] theorem Ctx.orFlags_seqr (t : Ctx) (f : Nat) : (t.orFlags f).seqr = t.seqr := rfl
@[simp] theorem Ctx.orFlags_localAt (t : Ctx) (f : Nat) : (t.orFlags f).localAt = t.localAt := rfl
@[simp] theorem Ctx.orFlags_localTo (t : Ctx) (f : Nat) : (t.orFlags f).localTo = t.localTo := rfl
@[simp] theorem Ctx.orFlags_issuedAt (t : Ctx) (f : Nat) : (t.orFlags f).issuedAt = t.issuedAt := rfl
@[simp] theorem Ctx.orFlags_frameAt (t : Ctx) (f : Nat) : (t.orFlags f).frameAt = t.frameAt := rfl

/-! ### Ctx.halted -/

@[simp] theorem Ctx.halted_status (t : Ctx) (hk mk cause : Nat) (code : Code) : (t.halted hk mk cause code).status = .halted := rfl
@[simp] theorem Ctx.halted_hk (t : Ctx) (hk mk cause : Nat) (code : Code) : (t.halted hk mk cause code).hk = hk := rfl
@[simp] theorem Ctx.halted_ih (t : Ctx) (hk mk cause : Nat) (code : Code) : (t.halted hk mk cause code).ih = t.ih := rfl
@[simp] theorem Ctx.halted_rt (t : Ctx) (hk mk cause : Nat) (code : Code) : (t.halted hk mk cause code).rt = t.rt := rfl
@[simp] theorem Ctx.halted_hp (t : Ctx) (hk mk cause : Nat) (code : Code) : (t.halted hk mk cause code).hp = false := rfl
@[simp] theorem Ctx.halted_haltMk (t : Ctx) (hk mk cause : Nat) (code : Code) : (t.halted hk mk cause code).haltMk = mk := rfl
@[simp] theorem Ctx.halted_haltCause (t : Ctx) (hk mk cause : Nat) (code : Code) : (t.halted hk mk cause code).haltCause = cause := rfl
@[simp] theorem Ctx.halted_haltWord (t : Ctx) (hk mk cause : Nat) (code : Code) : (t.halted hk mk cause code).haltWord = code := rfl
@[simp] theorem Ctx.halted_pc (t : Ctx) (hk mk cause : Nat) (code : Code) : (t.halted hk mk cause code).pc = t.pc := rfl
@[simp] theorem Ctx.halted_regs (t : Ctx) (hk mk cause : Nat) (code : Code) : (t.halted hk mk cause code).regs = t.regs := rfl
@[simp] theorem Ctx.halted_slots (t : Ctx) (hk mk cause : Nat) (code : Code) : (t.halted hk mk cause code).slots = t.slots := rfl
@[simp] theorem Ctx.halted_head (t : Ctx) (hk mk cause : Nat) (code : Code) : (t.halted hk mk cause code).head = t.head := rfl
@[simp] theorem Ctx.halted_pend (t : Ctx) (hk mk cause : Nat) (code : Code) : (t.halted hk mk cause code).pend = t.pend := rfl
@[simp] theorem Ctx.halted_st (t : Ctx) (hk mk cause : Nat) (code : Code) : (t.halted hk mk cause code).st = t.st := rfl
@[simp] theorem Ctx.halted_vl (t : Ctx) (hk mk cause : Nat) (code : Code) : (t.halted hk mk cause code).vl = t.vl := rfl
@[simp] theorem Ctx.halted_readyAt (t : Ctx) (hk mk cause : Nat) (code : Code) : (t.halted hk mk cause code).readyAt = t.readyAt := rfl
@[simp] theorem Ctx.halted_wait (t : Ctx) (hk mk cause : Nat) (code : Code) : (t.halted hk mk cause code).wait = .none := rfl
@[simp] theorem Ctx.halted_frame (t : Ctx) (hk mk cause : Nat) (code : Code) : (t.halted hk mk cause code).frame = t.frame := rfl
@[simp] theorem Ctx.halted_frameRpt (t : Ctx) (hk mk cause : Nat) (code : Code) : (t.halted hk mk cause code).frameRpt = t.frameRpt := rfl
@[simp] theorem Ctx.halted_ld (t : Ctx) (hk mk cause : Nat) (code : Code) : (t.halted hk mk cause code).ld = t.ld := rfl
@[simp] theorem Ctx.halted_stq (t : Ctx) (hk mk cause : Nat) (code : Code) : (t.halted hk mk cause code).stq = t.stq := rfl
@[simp] theorem Ctx.halted_enc (t : Ctx) (hk mk cause : Nat) (code : Code) : (t.halted hk mk cause code).enc = t.enc := rfl
@[simp] theorem Ctx.halted_mbc (t : Ctx) (hk mk cause : Nat) (code : Code) : (t.halted hk mk cause code).mbc = t.mbc := rfl
@[simp] theorem Ctx.halted_vqc (t : Ctx) (hk mk cause : Nat) (code : Code) : (t.halted hk mk cause code).vqc = t.vqc := rfl
@[simp] theorem Ctx.halted_mpend (t : Ctx) (hk mk cause : Nat) (code : Code) : (t.halted hk mk cause code).mpend = t.mpend := rfl
@[simp] theorem Ctx.halted_late (t : Ctx) (hk mk cause : Nat) (code : Code) : (t.halted hk mk cause code).late = t.late := rfl
@[simp] theorem Ctx.halted_groups (t : Ctx) (hk mk cause : Nat) (code : Code) : (t.halted hk mk cause code).groups = t.groups := rfl
@[simp] theorem Ctx.halted_trec (t : Ctx) (hk mk cause : Nat) (code : Code) : (t.halted hk mk cause code).trec = t.trec := rfl
@[simp] theorem Ctx.halted_taddr (t : Ctx) (hk mk cause : Nat) (code : Code) : (t.halted hk mk cause code).taddr = t.taddr := rfl
@[simp] theorem Ctx.halted_ien (t : Ctx) (hk mk cause : Nat) (code : Code) : (t.halted hk mk cause code).ien = t.ien := rfl
@[simp] theorem Ctx.halted_soft (t : Ctx) (hk mk cause : Nat) (code : Code) : (t.halted hk mk cause code).soft = t.soft := rfl
@[simp] theorem Ctx.halted_tpost (t : Ctx) (hk mk cause : Nat) (code : Code) : (t.halted hk mk cause code).tpost = t.tpost := rfl
@[simp] theorem Ctx.halted_rewalk (t : Ctx) (hk mk cause : Nat) (code : Code) : (t.halted hk mk cause code).rewalk = t.rewalk := rfl
@[simp] theorem Ctx.halted_haltBack (t : Ctx) (hk mk cause : Nat) (code : Code) : (t.halted hk mk cause code).haltBack = 0 := rfl
@[simp] theorem Ctx.halted_walked (t : Ctx) (hk mk cause : Nat) (code : Code) : (t.halted hk mk cause code).walked = t.walked := rfl
@[simp] theorem Ctx.halted_tcmp (t : Ctx) (hk mk cause : Nat) (code : Code) : (t.halted hk mk cause code).tcmp = t.tcmp := rfl
@[simp] theorem Ctx.halted_asel (t : Ctx) (hk mk cause : Nat) (code : Code) : (t.halted hk mk cause code).asel = t.asel := rfl
@[simp] theorem Ctx.halted_psel (t : Ctx) (hk mk cause : Nat) (code : Code) : (t.halted hk mk cause code).psel = t.psel := rfl
@[simp] theorem Ctx.halted_seqn (t : Ctx) (hk mk cause : Nat) (code : Code) : (t.halted hk mk cause code).seqn = t.seqn := rfl
@[simp] theorem Ctx.halted_seqr (t : Ctx) (hk mk cause : Nat) (code : Code) : (t.halted hk mk cause code).seqr = t.seqr := rfl
@[simp] theorem Ctx.halted_localAt (t : Ctx) (hk mk cause : Nat) (code : Code) : (t.halted hk mk cause code).localAt = t.localAt := rfl
@[simp] theorem Ctx.halted_localTo (t : Ctx) (hk mk cause : Nat) (code : Code) : (t.halted hk mk cause code).localTo = t.localTo := rfl
@[simp] theorem Ctx.halted_issuedAt (t : Ctx) (hk mk cause : Nat) (code : Code) : (t.halted hk mk cause code).issuedAt = t.issuedAt := rfl
@[simp] theorem Ctx.halted_frameAt (t : Ctx) (hk mk cause : Nat) (code : Code) : (t.halted hk mk cause code).frameAt = t.frameAt := rfl

/-! ### Ctx.produce -/

@[simp] theorem Ctx.produce_status (t : Ctx) (d : Opnd) (mk : Nat → Option Nat → Pend) : (t.produce d mk).status = t.status := rfl
@[simp] theorem Ctx.produce_hk (t : Ctx) (d : Opnd) (mk : Nat → Option Nat → Pend) : (t.produce d mk).hk = t.hk := rfl
@[simp] theorem Ctx.produce_ih (t : Ctx) (d : Opnd) (mk : Nat → Option Nat → Pend) : (t.produce d mk).ih = t.ih := rfl
@[simp] theorem Ctx.produce_rt (t : Ctx) (d : Opnd) (mk : Nat → Option Nat → Pend) : (t.produce d mk).rt = t.rt := rfl
@[simp] theorem Ctx.produce_hp (t : Ctx) (d : Opnd) (mk : Nat → Option Nat → Pend) : (t.produce d mk).hp = t.hp := rfl
@[simp] theorem Ctx.produce_haltMk (t : Ctx) (d : Opnd) (mk : Nat → Option Nat → Pend) : (t.produce d mk).haltMk = t.haltMk := rfl
@[simp] theorem Ctx.produce_haltCause (t : Ctx) (d : Opnd) (mk : Nat → Option Nat → Pend) : (t.produce d mk).haltCause = t.haltCause := rfl
@[simp] theorem Ctx.produce_haltWord (t : Ctx) (d : Opnd) (mk : Nat → Option Nat → Pend) : (t.produce d mk).haltWord = t.haltWord := rfl
@[simp] theorem Ctx.produce_pc (t : Ctx) (d : Opnd) (mk : Nat → Option Nat → Pend) : (t.produce d mk).pc = t.pc := rfl
@[simp] theorem Ctx.produce_regs (t : Ctx) (d : Opnd) (mk : Nat → Option Nat → Pend) : (t.produce d mk).regs = t.regs := rfl
@[simp] theorem Ctx.produce_slots (t : Ctx) (d : Opnd) (mk : Nat → Option Nat → Pend) : (t.produce d mk).slots = t.slots := rfl
@[simp] theorem Ctx.produce_head (t : Ctx) (d : Opnd) (mk : Nat → Option Nat → Pend) : (t.produce d mk).head = t.head - 1 := rfl
@[simp] theorem Ctx.produce_pend (t : Ctx) (d : Opnd) (mk : Nat → Option Nat → Pend) : (t.produce d mk).pend = t.pend.map (fun p => p.yield (t.head - 1).toNat (destReg d)) ++ [mk (t.head - 1).toNat (destReg d)] := rfl
@[simp] theorem Ctx.produce_st (t : Ctx) (d : Opnd) (mk : Nat → Option Nat → Pend) : (t.produce d mk).st = t.st := rfl
@[simp] theorem Ctx.produce_vl (t : Ctx) (d : Opnd) (mk : Nat → Option Nat → Pend) : (t.produce d mk).vl = t.vl := rfl
@[simp] theorem Ctx.produce_readyAt (t : Ctx) (d : Opnd) (mk : Nat → Option Nat → Pend) : (t.produce d mk).readyAt = t.readyAt := rfl
@[simp] theorem Ctx.produce_wait (t : Ctx) (d : Opnd) (mk : Nat → Option Nat → Pend) : (t.produce d mk).wait = t.wait := rfl
@[simp] theorem Ctx.produce_frame (t : Ctx) (d : Opnd) (mk : Nat → Option Nat → Pend) : (t.produce d mk).frame = t.frame := rfl
@[simp] theorem Ctx.produce_frameRpt (t : Ctx) (d : Opnd) (mk : Nat → Option Nat → Pend) : (t.produce d mk).frameRpt = t.frameRpt := rfl
@[simp] theorem Ctx.produce_ld (t : Ctx) (d : Opnd) (mk : Nat → Option Nat → Pend) : (t.produce d mk).ld = t.ld := rfl
@[simp] theorem Ctx.produce_stq (t : Ctx) (d : Opnd) (mk : Nat → Option Nat → Pend) : (t.produce d mk).stq = t.stq := rfl
@[simp] theorem Ctx.produce_enc (t : Ctx) (d : Opnd) (mk : Nat → Option Nat → Pend) : (t.produce d mk).enc = t.enc := rfl
@[simp] theorem Ctx.produce_mbc (t : Ctx) (d : Opnd) (mk : Nat → Option Nat → Pend) : (t.produce d mk).mbc = t.mbc := rfl
@[simp] theorem Ctx.produce_vqc (t : Ctx) (d : Opnd) (mk : Nat → Option Nat → Pend) : (t.produce d mk).vqc = t.vqc := rfl
@[simp] theorem Ctx.produce_mpend (t : Ctx) (d : Opnd) (mk : Nat → Option Nat → Pend) : (t.produce d mk).mpend = t.mpend := rfl
@[simp] theorem Ctx.produce_late (t : Ctx) (d : Opnd) (mk : Nat → Option Nat → Pend) : (t.produce d mk).late = t.late := rfl
@[simp] theorem Ctx.produce_groups (t : Ctx) (d : Opnd) (mk : Nat → Option Nat → Pend) : (t.produce d mk).groups = t.groups := rfl
@[simp] theorem Ctx.produce_trec (t : Ctx) (d : Opnd) (mk : Nat → Option Nat → Pend) : (t.produce d mk).trec = t.trec := rfl
@[simp] theorem Ctx.produce_taddr (t : Ctx) (d : Opnd) (mk : Nat → Option Nat → Pend) : (t.produce d mk).taddr = t.taddr := rfl
@[simp] theorem Ctx.produce_ien (t : Ctx) (d : Opnd) (mk : Nat → Option Nat → Pend) : (t.produce d mk).ien = t.ien := rfl
@[simp] theorem Ctx.produce_soft (t : Ctx) (d : Opnd) (mk : Nat → Option Nat → Pend) : (t.produce d mk).soft = t.soft := rfl
@[simp] theorem Ctx.produce_tpost (t : Ctx) (d : Opnd) (mk : Nat → Option Nat → Pend) : (t.produce d mk).tpost = t.tpost := rfl
@[simp] theorem Ctx.produce_rewalk (t : Ctx) (d : Opnd) (mk : Nat → Option Nat → Pend) : (t.produce d mk).rewalk = t.rewalk := rfl
@[simp] theorem Ctx.produce_haltBack (t : Ctx) (d : Opnd) (mk : Nat → Option Nat → Pend) : (t.produce d mk).haltBack = t.haltBack := rfl
@[simp] theorem Ctx.produce_walked (t : Ctx) (d : Opnd) (mk : Nat → Option Nat → Pend) : (t.produce d mk).walked = t.walked := rfl
@[simp] theorem Ctx.produce_tcmp (t : Ctx) (d : Opnd) (mk : Nat → Option Nat → Pend) : (t.produce d mk).tcmp = t.tcmp := rfl
@[simp] theorem Ctx.produce_asel (t : Ctx) (d : Opnd) (mk : Nat → Option Nat → Pend) : (t.produce d mk).asel = t.asel := rfl
@[simp] theorem Ctx.produce_psel (t : Ctx) (d : Opnd) (mk : Nat → Option Nat → Pend) : (t.produce d mk).psel = t.psel := rfl
@[simp] theorem Ctx.produce_seqn (t : Ctx) (d : Opnd) (mk : Nat → Option Nat → Pend) : (t.produce d mk).seqn = t.seqn := rfl
@[simp] theorem Ctx.produce_seqr (t : Ctx) (d : Opnd) (mk : Nat → Option Nat → Pend) : (t.produce d mk).seqr = t.seqr := rfl
@[simp] theorem Ctx.produce_localAt (t : Ctx) (d : Opnd) (mk : Nat → Option Nat → Pend) : (t.produce d mk).localAt = t.localAt := rfl
@[simp] theorem Ctx.produce_localTo (t : Ctx) (d : Opnd) (mk : Nat → Option Nat → Pend) : (t.produce d mk).localTo = t.localTo := rfl
@[simp] theorem Ctx.produce_issuedAt (t : Ctx) (d : Opnd) (mk : Nat → Option Nat → Pend) : (t.produce d mk).issuedAt = t.issuedAt := rfl
@[simp] theorem Ctx.produce_frameAt (t : Ctx) (d : Opnd) (mk : Nat → Option Nat → Pend) : (t.produce d mk).frameAt = t.frameAt := rfl

/-! ### Ctx.setVal -/

@[simp] theorem Ctx.setVal_status (t : Ctx) (id : Nat) (v : Word) : (t.setVal id v).status = t.status := rfl
@[simp] theorem Ctx.setVal_hk (t : Ctx) (id : Nat) (v : Word) : (t.setVal id v).hk = t.hk := rfl
@[simp] theorem Ctx.setVal_ih (t : Ctx) (id : Nat) (v : Word) : (t.setVal id v).ih = t.ih := rfl
@[simp] theorem Ctx.setVal_rt (t : Ctx) (id : Nat) (v : Word) : (t.setVal id v).rt = t.rt := rfl
@[simp] theorem Ctx.setVal_hp (t : Ctx) (id : Nat) (v : Word) : (t.setVal id v).hp = t.hp := rfl
@[simp] theorem Ctx.setVal_haltMk (t : Ctx) (id : Nat) (v : Word) : (t.setVal id v).haltMk = t.haltMk := rfl
@[simp] theorem Ctx.setVal_haltCause (t : Ctx) (id : Nat) (v : Word) : (t.setVal id v).haltCause = t.haltCause := rfl
@[simp] theorem Ctx.setVal_haltWord (t : Ctx) (id : Nat) (v : Word) : (t.setVal id v).haltWord = t.haltWord := rfl
@[simp] theorem Ctx.setVal_pc (t : Ctx) (id : Nat) (v : Word) : (t.setVal id v).pc = t.pc := rfl
@[simp] theorem Ctx.setVal_regs (t : Ctx) (id : Nat) (v : Word) : (t.setVal id v).regs = t.regs := rfl
@[simp] theorem Ctx.setVal_slots (t : Ctx) (id : Nat) (v : Word) : (t.setVal id v).slots = t.slots := rfl
@[simp] theorem Ctx.setVal_head (t : Ctx) (id : Nat) (v : Word) : (t.setVal id v).head = t.head := rfl
@[simp] theorem Ctx.setVal_pend (t : Ctx) (id : Nat) (v : Word) : (t.setVal id v).pend = t.pend.map fun p => if p.id = id then { p with val := some v } else p := rfl
@[simp] theorem Ctx.setVal_st (t : Ctx) (id : Nat) (v : Word) : (t.setVal id v).st = t.st := rfl
@[simp] theorem Ctx.setVal_vl (t : Ctx) (id : Nat) (v : Word) : (t.setVal id v).vl = t.vl := rfl
@[simp] theorem Ctx.setVal_readyAt (t : Ctx) (id : Nat) (v : Word) : (t.setVal id v).readyAt = t.readyAt := rfl
@[simp] theorem Ctx.setVal_wait (t : Ctx) (id : Nat) (v : Word) : (t.setVal id v).wait = t.wait := rfl
@[simp] theorem Ctx.setVal_frame (t : Ctx) (id : Nat) (v : Word) : (t.setVal id v).frame = t.frame := rfl
@[simp] theorem Ctx.setVal_frameRpt (t : Ctx) (id : Nat) (v : Word) : (t.setVal id v).frameRpt = t.frameRpt := rfl
@[simp] theorem Ctx.setVal_ld (t : Ctx) (id : Nat) (v : Word) : (t.setVal id v).ld = t.ld := rfl
@[simp] theorem Ctx.setVal_stq (t : Ctx) (id : Nat) (v : Word) : (t.setVal id v).stq = t.stq := rfl
@[simp] theorem Ctx.setVal_enc (t : Ctx) (id : Nat) (v : Word) : (t.setVal id v).enc = t.enc := rfl
@[simp] theorem Ctx.setVal_mbc (t : Ctx) (id : Nat) (v : Word) : (t.setVal id v).mbc = t.mbc := rfl
@[simp] theorem Ctx.setVal_vqc (t : Ctx) (id : Nat) (v : Word) : (t.setVal id v).vqc = t.vqc := rfl
@[simp] theorem Ctx.setVal_mpend (t : Ctx) (id : Nat) (v : Word) : (t.setVal id v).mpend = t.mpend := rfl
@[simp] theorem Ctx.setVal_late (t : Ctx) (id : Nat) (v : Word) : (t.setVal id v).late = t.late := rfl
@[simp] theorem Ctx.setVal_groups (t : Ctx) (id : Nat) (v : Word) : (t.setVal id v).groups = t.groups := rfl
@[simp] theorem Ctx.setVal_trec (t : Ctx) (id : Nat) (v : Word) : (t.setVal id v).trec = t.trec := rfl
@[simp] theorem Ctx.setVal_taddr (t : Ctx) (id : Nat) (v : Word) : (t.setVal id v).taddr = t.taddr := rfl
@[simp] theorem Ctx.setVal_ien (t : Ctx) (id : Nat) (v : Word) : (t.setVal id v).ien = t.ien := rfl
@[simp] theorem Ctx.setVal_soft (t : Ctx) (id : Nat) (v : Word) : (t.setVal id v).soft = t.soft := rfl
@[simp] theorem Ctx.setVal_tpost (t : Ctx) (id : Nat) (v : Word) : (t.setVal id v).tpost = t.tpost := rfl
@[simp] theorem Ctx.setVal_rewalk (t : Ctx) (id : Nat) (v : Word) : (t.setVal id v).rewalk = t.rewalk := rfl
@[simp] theorem Ctx.setVal_haltBack (t : Ctx) (id : Nat) (v : Word) : (t.setVal id v).haltBack = t.haltBack := rfl
@[simp] theorem Ctx.setVal_walked (t : Ctx) (id : Nat) (v : Word) : (t.setVal id v).walked = t.walked := rfl
@[simp] theorem Ctx.setVal_tcmp (t : Ctx) (id : Nat) (v : Word) : (t.setVal id v).tcmp = t.tcmp := rfl
@[simp] theorem Ctx.setVal_asel (t : Ctx) (id : Nat) (v : Word) : (t.setVal id v).asel = t.asel := rfl
@[simp] theorem Ctx.setVal_psel (t : Ctx) (id : Nat) (v : Word) : (t.setVal id v).psel = t.psel := rfl
@[simp] theorem Ctx.setVal_seqn (t : Ctx) (id : Nat) (v : Word) : (t.setVal id v).seqn = t.seqn := rfl
@[simp] theorem Ctx.setVal_seqr (t : Ctx) (id : Nat) (v : Word) : (t.setVal id v).seqr = t.seqr := rfl
@[simp] theorem Ctx.setVal_localAt (t : Ctx) (id : Nat) (v : Word) : (t.setVal id v).localAt = t.localAt := rfl
@[simp] theorem Ctx.setVal_localTo (t : Ctx) (id : Nat) (v : Word) : (t.setVal id v).localTo = t.localTo := rfl
@[simp] theorem Ctx.setVal_issuedAt (t : Ctx) (id : Nat) (v : Word) : (t.setVal id v).issuedAt = t.issuedAt := rfl
@[simp] theorem Ctx.setVal_frameAt (t : Ctx) (id : Nat) (v : Word) : (t.setVal id v).frameAt = t.frameAt := rfl

/-! ### Ctx.uncount -/

@[simp] theorem Ctx.uncount_status (t : Ctx) (id : Nat) : (t.uncount id).status = t.status := rfl
@[simp] theorem Ctx.uncount_hk (t : Ctx) (id : Nat) : (t.uncount id).hk = t.hk := rfl
@[simp] theorem Ctx.uncount_ih (t : Ctx) (id : Nat) : (t.uncount id).ih = t.ih := rfl
@[simp] theorem Ctx.uncount_rt (t : Ctx) (id : Nat) : (t.uncount id).rt = t.rt := rfl
@[simp] theorem Ctx.uncount_hp (t : Ctx) (id : Nat) : (t.uncount id).hp = t.hp := rfl
@[simp] theorem Ctx.uncount_haltMk (t : Ctx) (id : Nat) : (t.uncount id).haltMk = t.haltMk := rfl
@[simp] theorem Ctx.uncount_haltCause (t : Ctx) (id : Nat) : (t.uncount id).haltCause = t.haltCause := rfl
@[simp] theorem Ctx.uncount_haltWord (t : Ctx) (id : Nat) : (t.uncount id).haltWord = t.haltWord := rfl
@[simp] theorem Ctx.uncount_pc (t : Ctx) (id : Nat) : (t.uncount id).pc = t.pc := rfl
@[simp] theorem Ctx.uncount_regs (t : Ctx) (id : Nat) : (t.uncount id).regs = t.regs := rfl
@[simp] theorem Ctx.uncount_slots (t : Ctx) (id : Nat) : (t.uncount id).slots = t.slots := rfl
@[simp] theorem Ctx.uncount_head (t : Ctx) (id : Nat) : (t.uncount id).head = t.head := rfl
@[simp] theorem Ctx.uncount_pend (t : Ctx) (id : Nat) : (t.uncount id).pend = t.pend := rfl
@[simp] theorem Ctx.uncount_st (t : Ctx) (id : Nat) : (t.uncount id).st = t.st := rfl
@[simp] theorem Ctx.uncount_vl (t : Ctx) (id : Nat) : (t.uncount id).vl = t.vl := rfl
@[simp] theorem Ctx.uncount_readyAt (t : Ctx) (id : Nat) : (t.uncount id).readyAt = t.readyAt := rfl
@[simp] theorem Ctx.uncount_wait (t : Ctx) (id : Nat) : (t.uncount id).wait = t.wait := rfl
@[simp] theorem Ctx.uncount_frame (t : Ctx) (id : Nat) : (t.uncount id).frame = t.frame := rfl
@[simp] theorem Ctx.uncount_frameRpt (t : Ctx) (id : Nat) : (t.uncount id).frameRpt = t.frameRpt := rfl
@[simp] theorem Ctx.uncount_ld (t : Ctx) (id : Nat) : (t.uncount id).ld = t.ld.filter fun o => o.id != id := rfl
@[simp] theorem Ctx.uncount_stq (t : Ctx) (id : Nat) : (t.uncount id).stq = t.stq.filter fun o => o.id != id := rfl
@[simp] theorem Ctx.uncount_enc (t : Ctx) (id : Nat) : (t.uncount id).enc = t.enc := rfl
@[simp] theorem Ctx.uncount_mbc (t : Ctx) (id : Nat) : (t.uncount id).mbc = t.mbc := rfl
@[simp] theorem Ctx.uncount_vqc (t : Ctx) (id : Nat) : (t.uncount id).vqc = t.vqc := rfl
@[simp] theorem Ctx.uncount_mpend (t : Ctx) (id : Nat) : (t.uncount id).mpend = t.mpend := rfl
@[simp] theorem Ctx.uncount_late (t : Ctx) (id : Nat) : (t.uncount id).late = t.late := rfl
@[simp] theorem Ctx.uncount_groups (t : Ctx) (id : Nat) : (t.uncount id).groups = t.groups := rfl
@[simp] theorem Ctx.uncount_trec (t : Ctx) (id : Nat) : (t.uncount id).trec = t.trec := rfl
@[simp] theorem Ctx.uncount_taddr (t : Ctx) (id : Nat) : (t.uncount id).taddr = t.taddr := rfl
@[simp] theorem Ctx.uncount_ien (t : Ctx) (id : Nat) : (t.uncount id).ien = t.ien := rfl
@[simp] theorem Ctx.uncount_soft (t : Ctx) (id : Nat) : (t.uncount id).soft = t.soft := rfl
@[simp] theorem Ctx.uncount_tpost (t : Ctx) (id : Nat) : (t.uncount id).tpost = t.tpost := rfl
@[simp] theorem Ctx.uncount_rewalk (t : Ctx) (id : Nat) : (t.uncount id).rewalk = t.rewalk := rfl
@[simp] theorem Ctx.uncount_haltBack (t : Ctx) (id : Nat) : (t.uncount id).haltBack = t.haltBack := rfl
@[simp] theorem Ctx.uncount_walked (t : Ctx) (id : Nat) : (t.uncount id).walked = t.walked := rfl
@[simp] theorem Ctx.uncount_tcmp (t : Ctx) (id : Nat) : (t.uncount id).tcmp = t.tcmp := rfl
@[simp] theorem Ctx.uncount_asel (t : Ctx) (id : Nat) : (t.uncount id).asel = t.asel := rfl
@[simp] theorem Ctx.uncount_psel (t : Ctx) (id : Nat) : (t.uncount id).psel = t.psel := rfl
@[simp] theorem Ctx.uncount_seqn (t : Ctx) (id : Nat) : (t.uncount id).seqn = t.seqn := rfl
@[simp] theorem Ctx.uncount_seqr (t : Ctx) (id : Nat) : (t.uncount id).seqr = t.seqr := rfl
@[simp] theorem Ctx.uncount_localAt (t : Ctx) (id : Nat) : (t.uncount id).localAt = t.localAt := rfl
@[simp] theorem Ctx.uncount_localTo (t : Ctx) (id : Nat) : (t.uncount id).localTo = t.localTo := rfl
@[simp] theorem Ctx.uncount_issuedAt (t : Ctx) (id : Nat) : (t.uncount id).issuedAt = t.issuedAt := rfl
@[simp] theorem Ctx.uncount_frameAt (t : Ctx) (id : Nat) : (t.uncount id).frameAt = t.frameAt := rfl

/-! ### Ctx.dispatch -/

@[simp] theorem Ctx.dispatch_status (t : Ctx) : (t.dispatch).status = t.status := rfl
@[simp] theorem Ctx.dispatch_hk (t : Ctx) : (t.dispatch).hk = t.hk := rfl
@[simp] theorem Ctx.dispatch_ih (t : Ctx) : (t.dispatch).ih = t.ih := rfl
@[simp] theorem Ctx.dispatch_rt (t : Ctx) : (t.dispatch).rt = t.rt := rfl
@[simp] theorem Ctx.dispatch_hp (t : Ctx) : (t.dispatch).hp = t.hp := rfl
@[simp] theorem Ctx.dispatch_haltMk (t : Ctx) : (t.dispatch).haltMk = t.haltMk := rfl
@[simp] theorem Ctx.dispatch_haltCause (t : Ctx) : (t.dispatch).haltCause = t.haltCause := rfl
@[simp] theorem Ctx.dispatch_haltWord (t : Ctx) : (t.dispatch).haltWord = t.haltWord := rfl
@[simp] theorem Ctx.dispatch_pc (t : Ctx) : (t.dispatch).pc = t.pc := rfl
@[simp] theorem Ctx.dispatch_regs (t : Ctx) : (t.dispatch).regs = t.regs := rfl
@[simp] theorem Ctx.dispatch_slots (t : Ctx) : (t.dispatch).slots = t.slots := rfl
@[simp] theorem Ctx.dispatch_head (t : Ctx) : (t.dispatch).head = t.head := rfl
@[simp] theorem Ctx.dispatch_pend (t : Ctx) : (t.dispatch).pend = t.pend := rfl
@[simp] theorem Ctx.dispatch_st (t : Ctx) : (t.dispatch).st = t.st := rfl
@[simp] theorem Ctx.dispatch_vl (t : Ctx) : (t.dispatch).vl = t.vl := rfl
@[simp] theorem Ctx.dispatch_readyAt (t : Ctx) : (t.dispatch).readyAt = t.readyAt := rfl
@[simp] theorem Ctx.dispatch_wait (t : Ctx) : (t.dispatch).wait = t.wait := rfl
@[simp] theorem Ctx.dispatch_frame (t : Ctx) : (t.dispatch).frame = t.frame := rfl
@[simp] theorem Ctx.dispatch_frameRpt (t : Ctx) : (t.dispatch).frameRpt = t.frameRpt := rfl
@[simp] theorem Ctx.dispatch_ld (t : Ctx) : (t.dispatch).ld = t.ld := rfl
@[simp] theorem Ctx.dispatch_stq (t : Ctx) : (t.dispatch).stq = t.stq := rfl
@[simp] theorem Ctx.dispatch_enc (t : Ctx) : (t.dispatch).enc = t.enc := rfl
@[simp] theorem Ctx.dispatch_mbc (t : Ctx) : (t.dispatch).mbc = t.mbc := rfl
@[simp] theorem Ctx.dispatch_vqc (t : Ctx) : (t.dispatch).vqc = t.vqc := rfl
@[simp] theorem Ctx.dispatch_mpend (t : Ctx) : (t.dispatch).mpend = t.mpend := rfl
@[simp] theorem Ctx.dispatch_late (t : Ctx) : (t.dispatch).late = t.late := rfl
@[simp] theorem Ctx.dispatch_groups (t : Ctx) : (t.dispatch).groups = t.groups := rfl
@[simp] theorem Ctx.dispatch_trec (t : Ctx) : (t.dispatch).trec = t.trec := rfl
@[simp] theorem Ctx.dispatch_taddr (t : Ctx) : (t.dispatch).taddr = t.taddr := rfl
@[simp] theorem Ctx.dispatch_ien (t : Ctx) : (t.dispatch).ien = t.ien := rfl
@[simp] theorem Ctx.dispatch_soft (t : Ctx) : (t.dispatch).soft = t.soft := rfl
@[simp] theorem Ctx.dispatch_tpost (t : Ctx) : (t.dispatch).tpost = t.tpost := rfl
@[simp] theorem Ctx.dispatch_rewalk (t : Ctx) : (t.dispatch).rewalk = t.rewalk := rfl
@[simp] theorem Ctx.dispatch_haltBack (t : Ctx) : (t.dispatch).haltBack = t.haltBack := rfl
@[simp] theorem Ctx.dispatch_walked (t : Ctx) : (t.dispatch).walked = t.walked := rfl
@[simp] theorem Ctx.dispatch_tcmp (t : Ctx) : (t.dispatch).tcmp = t.tcmp := rfl
@[simp] theorem Ctx.dispatch_asel (t : Ctx) : (t.dispatch).asel = t.asel := rfl
@[simp] theorem Ctx.dispatch_psel (t : Ctx) : (t.dispatch).psel = t.psel := rfl
@[simp] theorem Ctx.dispatch_seqn (t : Ctx) : (t.dispatch).seqn = (t.seqn + 1) % 65536 := rfl
@[simp] theorem Ctx.dispatch_seqr (t : Ctx) : (t.dispatch).seqr = SMap.set 0 t.seqr (t.seqn % 64) (word (t.wordPc.toNat / 4 + t.seqn / 64 * 2 ^ 50)) := rfl
@[simp] theorem Ctx.dispatch_localAt (t : Ctx) : (t.dispatch).localAt = t.localAt := rfl
@[simp] theorem Ctx.dispatch_localTo (t : Ctx) : (t.dispatch).localTo = t.localTo := rfl
@[simp] theorem Ctx.dispatch_issuedAt (t : Ctx) : (t.dispatch).issuedAt = t.issuedAt := rfl
@[simp] theorem Ctx.dispatch_frameAt (t : Ctx) : (t.dispatch).frameAt = t.frameAt := rfl

/-! ### Ctx.setG -/

@[simp] theorem Ctx.setG_status (t : Ctx) (n : Nat) (v : Word) : (t.setG n v).status = t.status := by
  unfold Ctx.setG; split <;> rfl
@[simp] theorem Ctx.setG_hk (t : Ctx) (n : Nat) (v : Word) : (t.setG n v).hk = t.hk := by
  unfold Ctx.setG; split <;> rfl
@[simp] theorem Ctx.setG_ih (t : Ctx) (n : Nat) (v : Word) : (t.setG n v).ih = t.ih := by
  unfold Ctx.setG; split <;> rfl
@[simp] theorem Ctx.setG_rt (t : Ctx) (n : Nat) (v : Word) : (t.setG n v).rt = t.rt := by
  unfold Ctx.setG; split <;> rfl
@[simp] theorem Ctx.setG_hp (t : Ctx) (n : Nat) (v : Word) : (t.setG n v).hp = t.hp := by
  unfold Ctx.setG; split <;> rfl
@[simp] theorem Ctx.setG_haltMk (t : Ctx) (n : Nat) (v : Word) : (t.setG n v).haltMk = t.haltMk := by
  unfold Ctx.setG; split <;> rfl
@[simp] theorem Ctx.setG_haltCause (t : Ctx) (n : Nat) (v : Word) : (t.setG n v).haltCause = t.haltCause := by
  unfold Ctx.setG; split <;> rfl
@[simp] theorem Ctx.setG_haltWord (t : Ctx) (n : Nat) (v : Word) : (t.setG n v).haltWord = t.haltWord := by
  unfold Ctx.setG; split <;> rfl
@[simp] theorem Ctx.setG_pc (t : Ctx) (n : Nat) (v : Word) : (t.setG n v).pc = t.pc := by
  unfold Ctx.setG; split <;> rfl
theorem Ctx.setG_regs (t : Ctx) (n : Nat) (v : Word) : (t.setG n v).regs = if n = 0 then t.regs else SMap.set 0 t.regs n v := by
  unfold Ctx.setG; split <;> rfl
@[simp] theorem Ctx.setG_slots (t : Ctx) (n : Nat) (v : Word) : (t.setG n v).slots = t.slots := by
  unfold Ctx.setG; split <;> rfl
@[simp] theorem Ctx.setG_head (t : Ctx) (n : Nat) (v : Word) : (t.setG n v).head = t.head := by
  unfold Ctx.setG; split <;> rfl
@[simp] theorem Ctx.setG_pend (t : Ctx) (n : Nat) (v : Word) : (t.setG n v).pend = t.pend := by
  unfold Ctx.setG; split <;> rfl
@[simp] theorem Ctx.setG_st (t : Ctx) (n : Nat) (v : Word) : (t.setG n v).st = t.st := by
  unfold Ctx.setG; split <;> rfl
@[simp] theorem Ctx.setG_vl (t : Ctx) (n : Nat) (v : Word) : (t.setG n v).vl = t.vl := by
  unfold Ctx.setG; split <;> rfl
@[simp] theorem Ctx.setG_readyAt (t : Ctx) (n : Nat) (v : Word) : (t.setG n v).readyAt = t.readyAt := by
  unfold Ctx.setG; split <;> rfl
@[simp] theorem Ctx.setG_wait (t : Ctx) (n : Nat) (v : Word) : (t.setG n v).wait = t.wait := by
  unfold Ctx.setG; split <;> rfl
@[simp] theorem Ctx.setG_frame (t : Ctx) (n : Nat) (v : Word) : (t.setG n v).frame = t.frame := by
  unfold Ctx.setG; split <;> rfl
@[simp] theorem Ctx.setG_frameRpt (t : Ctx) (n : Nat) (v : Word) : (t.setG n v).frameRpt = t.frameRpt := by
  unfold Ctx.setG; split <;> rfl
@[simp] theorem Ctx.setG_ld (t : Ctx) (n : Nat) (v : Word) : (t.setG n v).ld = t.ld := by
  unfold Ctx.setG; split <;> rfl
@[simp] theorem Ctx.setG_stq (t : Ctx) (n : Nat) (v : Word) : (t.setG n v).stq = t.stq := by
  unfold Ctx.setG; split <;> rfl
@[simp] theorem Ctx.setG_enc (t : Ctx) (n : Nat) (v : Word) : (t.setG n v).enc = t.enc := by
  unfold Ctx.setG; split <;> rfl
@[simp] theorem Ctx.setG_mbc (t : Ctx) (n : Nat) (v : Word) : (t.setG n v).mbc = t.mbc := by
  unfold Ctx.setG; split <;> rfl
@[simp] theorem Ctx.setG_vqc (t : Ctx) (n : Nat) (v : Word) : (t.setG n v).vqc = t.vqc := by
  unfold Ctx.setG; split <;> rfl
@[simp] theorem Ctx.setG_mpend (t : Ctx) (n : Nat) (v : Word) : (t.setG n v).mpend = t.mpend := by
  unfold Ctx.setG; split <;> rfl
@[simp] theorem Ctx.setG_late (t : Ctx) (n : Nat) (v : Word) : (t.setG n v).late = t.late := by
  unfold Ctx.setG; split <;> rfl
@[simp] theorem Ctx.setG_groups (t : Ctx) (n : Nat) (v : Word) : (t.setG n v).groups = t.groups := by
  unfold Ctx.setG; split <;> rfl
@[simp] theorem Ctx.setG_trec (t : Ctx) (n : Nat) (v : Word) : (t.setG n v).trec = t.trec := by
  unfold Ctx.setG; split <;> rfl
@[simp] theorem Ctx.setG_taddr (t : Ctx) (n : Nat) (v : Word) : (t.setG n v).taddr = t.taddr := by
  unfold Ctx.setG; split <;> rfl
@[simp] theorem Ctx.setG_ien (t : Ctx) (n : Nat) (v : Word) : (t.setG n v).ien = t.ien := by
  unfold Ctx.setG; split <;> rfl
@[simp] theorem Ctx.setG_soft (t : Ctx) (n : Nat) (v : Word) : (t.setG n v).soft = t.soft := by
  unfold Ctx.setG; split <;> rfl
@[simp] theorem Ctx.setG_tpost (t : Ctx) (n : Nat) (v : Word) : (t.setG n v).tpost = t.tpost := by
  unfold Ctx.setG; split <;> rfl
@[simp] theorem Ctx.setG_rewalk (t : Ctx) (n : Nat) (v : Word) : (t.setG n v).rewalk = t.rewalk := by
  unfold Ctx.setG; split <;> rfl
@[simp] theorem Ctx.setG_haltBack (t : Ctx) (n : Nat) (v : Word) : (t.setG n v).haltBack = t.haltBack := by
  unfold Ctx.setG; split <;> rfl
@[simp] theorem Ctx.setG_walked (t : Ctx) (n : Nat) (v : Word) : (t.setG n v).walked = t.walked := by
  unfold Ctx.setG; split <;> rfl
@[simp] theorem Ctx.setG_tcmp (t : Ctx) (n : Nat) (v : Word) : (t.setG n v).tcmp = t.tcmp := by
  unfold Ctx.setG; split <;> rfl
@[simp] theorem Ctx.setG_asel (t : Ctx) (n : Nat) (v : Word) : (t.setG n v).asel = t.asel := by
  unfold Ctx.setG; split <;> rfl
@[simp] theorem Ctx.setG_psel (t : Ctx) (n : Nat) (v : Word) : (t.setG n v).psel = t.psel := by
  unfold Ctx.setG; split <;> rfl
@[simp] theorem Ctx.setG_seqn (t : Ctx) (n : Nat) (v : Word) : (t.setG n v).seqn = t.seqn := by
  unfold Ctx.setG; split <;> rfl
@[simp] theorem Ctx.setG_seqr (t : Ctx) (n : Nat) (v : Word) : (t.setG n v).seqr = t.seqr := by
  unfold Ctx.setG; split <;> rfl
@[simp] theorem Ctx.setG_localAt (t : Ctx) (n : Nat) (v : Word) : (t.setG n v).localAt = t.localAt := by
  unfold Ctx.setG; split <;> rfl
@[simp] theorem Ctx.setG_localTo (t : Ctx) (n : Nat) (v : Word) : (t.setG n v).localTo = t.localTo := by
  unfold Ctx.setG; split <;> rfl
@[simp] theorem Ctx.setG_issuedAt (t : Ctx) (n : Nat) (v : Word) : (t.setG n v).issuedAt = t.issuedAt := by
  unfold Ctx.setG; split <;> rfl
@[simp] theorem Ctx.setG_frameAt (t : Ctx) (n : Nat) (v : Word) : (t.setG n v).frameAt = t.frameAt := by
  unfold Ctx.setG; split <;> rfl

/-! ### CoreState.setCtx -/

@[simp] theorem CoreState.setCtx_ctxs (k : CoreState) (x : Nat) (t : Ctx) : (k.setCtx x t).ctxs = SMap.put k.ctxs x t := rfl
@[simp] theorem CoreState.setCtx_rr (k : CoreState) (x : Nat) (t : Ctx) : (k.setCtx x t).rr = k.rr := rfl
@[simp] theorem CoreState.setCtx_rrPrev (k : CoreState) (x : Nat) (t : Ctx) : (k.setCtx x t).rrPrev = k.rrPrev := rfl
@[simp] theorem CoreState.setCtx_issuedAt (k : CoreState) (x : Nat) (t : Ctx) : (k.setCtx x t).issuedAt = k.issuedAt := rfl
@[simp] theorem CoreState.setCtx_gang (k : CoreState) (x : Nat) (t : Ctx) : (k.setCtx x t).gang = k.gang := rfl
@[simp] theorem CoreState.setCtx_rank (k : CoreState) (x : Nat) (t : Ctx) : (k.setCtx x t).rank = k.rank := rfl
@[simp] theorem CoreState.setCtx_gx (k : CoreState) (x : Nat) (t : Ctx) : (k.setCtx x t).gx = k.gx := rfl
@[simp] theorem CoreState.setCtx_gy (k : CoreState) (x : Nat) (t : Ctx) : (k.setCtx x t).gy = k.gy := rfl
@[simp] theorem CoreState.setCtx_gz (k : CoreState) (x : Nat) (t : Ctx) : (k.setCtx x t).gz = k.gz := rfl
@[simp] theorem CoreState.setCtx_ls (k : CoreState) (x : Nat) (t : Ctx) : (k.setCtx x t).ls = k.ls := rfl
@[simp] theorem CoreState.setCtx_regions (k : CoreState) (x : Nat) (t : Ctx) : (k.setCtx x t).regions = k.regions := rfl
@[simp] theorem CoreState.setCtx_tlb (k : CoreState) (x : Nat) (t : Ctx) : (k.setCtx x t).tlb = k.tlb := rfl
@[simp] theorem CoreState.setCtx_divAt (k : CoreState) (x : Nat) (t : Ctx) : (k.setCtx x t).divAt = k.divAt := rfl
@[simp] theorem CoreState.setCtx_rootAt (k : CoreState) (x : Nat) (t : Ctx) : (k.setCtx x t).rootAt = k.rootAt := rfl
@[simp] theorem CoreState.setCtx_sibs (k : CoreState) (x : Nat) (t : Ctx) : (k.setCtx x t).sibs = k.sibs := rfl
@[simp] theorem CoreState.setCtx_netAt (k : CoreState) (x : Nat) (t : Ctx) : (k.setCtx x t).netAt = k.netAt := rfl
@[simp] theorem CoreState.setCtx_tvec (k : CoreState) (x : Nat) (t : Ctx) : (k.setCtx x t).tvec = k.tvec := rfl
@[simp] theorem CoreState.setCtx_tfa (k : CoreState) (x : Nat) (t : Ctx) : (k.setCtx x t).tfa = k.tfa := rfl
@[simp] theorem CoreState.setCtx_vsw (k : CoreState) (x : Nat) (t : Ctx) : (k.setCtx x t).vsw = k.vsw := rfl
@[simp] theorem CoreState.setCtx_ex (k : CoreState) (x : Nat) (t : Ctx) : (k.setCtx x t).ex = k.ex := rfl
@[simp] theorem CoreState.setCtx_undo (k : CoreState) (x : Nat) (t : Ctx) : (k.setCtx x t).undo = k.undo := rfl
@[simp] theorem CoreState.setCtx_fifo15 (k : CoreState) (x : Nat) (t : Ctx) : (k.setCtx x t).fifo15 = k.fifo15 := rfl
@[simp] theorem CoreState.setCtx_slotCtx (k : CoreState) (x : Nat) (t : Ctx) : (k.setCtx x t).slotCtx = k.slotCtx := rfl
@[simp] theorem CoreState.setCtx_slotPc (k : CoreState) (x : Nat) (t : Ctx) : (k.setCtx x t).slotPc = k.slotPc := rfl
@[simp] theorem CoreState.setCtx_lastMsgs (k : CoreState) (x : Nat) (t : Ctx) : (k.setCtx x t).lastMsgs = k.lastMsgs := rfl
@[simp] theorem CoreState.setCtx_injS (k : CoreState) (x : Nat) (t : Ctx) : (k.setCtx x t).injS = k.injS := rfl
@[simp] theorem CoreState.setCtx_injV (k : CoreState) (x : Nat) (t : Ctx) : (k.setCtx x t).injV = k.injV := rfl
@[simp] theorem CoreState.setCtx_injM (k : CoreState) (x : Nat) (t : Ctx) : (k.setCtx x t).injM = k.injM := rfl
@[simp] theorem CoreState.setCtx_vec (k : CoreState) (x : Nat) (t : Ctx) : (k.setCtx x t).vec = k.vec := rfl
@[simp] theorem CoreState.setCtx_mat (k : CoreState) (x : Nat) (t : Ctx) : (k.setCtx x t).mat = k.mat := rfl
@[simp] theorem CoreState.setCtx_cmds (k : CoreState) (x : Nat) (t : Ctx) : (k.setCtx x t).cmds = k.cmds := rfl
@[simp] theorem CoreState.setCtx_results (k : CoreState) (x : Nat) (t : Ctx) : (k.setCtx x t).results = k.results := rfl
@[simp] theorem CoreState.setCtx_oldResults (k : CoreState) (x : Nat) (t : Ctx) : (k.setCtx x t).oldResults = k.oldResults := rfl
@[simp] theorem CoreState.setCtx_land (k : CoreState) (x : Nat) (t : Ctx) : (k.setCtx x t).land = k.land := rfl
@[simp] theorem CoreState.setCtx_landLast (k : CoreState) (x : Nat) (t : Ctx) : (k.setCtx x t).landLast = k.landLast := rfl
@[simp] theorem CoreState.setCtx_landSeen (k : CoreState) (x : Nat) (t : Ctx) : (k.setCtx x t).landSeen = k.landSeen := rfl
@[simp] theorem CoreState.setCtx_still (k : CoreState) (x : Nat) (t : Ctx) : (k.setCtx x t).still = k.still := rfl
@[simp] theorem CoreState.setCtx_scatters (k : CoreState) (x : Nat) (t : Ctx) : (k.setCtx x t).scatters = k.scatters := rfl
@[simp] theorem CoreState.setCtx_routine (k : CoreState) (x : Nat) (t : Ctx) : (k.setCtx x t).routine = k.routine := rfl
@[simp] theorem CoreState.setCtx_rcount (k : CoreState) (x : Nat) (t : Ctx) : (k.setCtx x t).rcount = k.rcount := rfl
@[simp] theorem CoreState.setCtx_recalls (k : CoreState) (x : Nat) (t : Ctx) : (k.setCtx x t).recalls = k.recalls := rfl
@[simp] theorem CoreState.setCtx_running (k : CoreState) (x : Nat) (t : Ctx) : (k.setCtx x t).running = k.running := rfl
@[simp] theorem CoreState.setCtx_backlog (k : CoreState) (x : Nat) (t : Ctx) : (k.setCtx x t).backlog = k.backlog := rfl

/-! ### Reaching what was written -/

@[simp] theorem CoreState.ctx_setCtx_same (k : CoreState) (x : Nat) (t : Ctx) : (k.setCtx x t).ctx x = t := by
  simp [CoreState.ctx]

theorem CoreState.ctx_setCtx (k : CoreState) (x y : Nat) (t : Ctx) : (k.setCtx x t).ctx y = if x = y then t else k.ctx y := by
  simp [CoreState.ctx, SMap.get_put]

@[simp] theorem State.core_setCore_same (s : State) (c : Nat) (k : CoreState) : (s.setCore c k).core c = k := by
  simp [State.core]

theorem State.core_setCore (s : State) (c d : Nat) (k : CoreState) :
    (s.setCore c k).core d = if c = d then k else s.core d := by
  simp [State.core, SMap.get_put]

theorem State.core_modCore (s : State) (c d : Nat) (f : CoreState → CoreState) :
    (s.modCore c f).core d = if c = d then f (s.core c) else s.core d := s.core_setCore c d _

@[simp] theorem State.core_modCore_same (s : State) (c : Nat) (f : CoreState → CoreState) :
    (s.modCore c f).core c = f (s.core c) := by simp [State.core_modCore]

theorem State.core_setCtx (s : State) (c x d : Nat) (t : Ctx) :
    (s.setCtx c x t).core d = if c = d then (s.core c).setCtx x t else s.core d := s.core_setCore c d _

theorem State.core_modCtx (s : State) (c x d : Nat) (f : Ctx → Ctx) :
    (s.modCtx c x f).core d = if c = d then (s.core c).setCtx x (f (s.ctxAt c x)) else s.core d := s.core_setCore c d _

@[simp] theorem State.ctxAt_setCtx_same (s : State) (c x : Nat) (t : Ctx) : (s.setCtx c x t).ctxAt c x = t := by
  simp [State.ctxAt, State.core_setCtx]

@[simp] theorem State.ctxAt_modCtx_same (s : State) (c x : Nat) (f : Ctx → Ctx) :
    (s.modCtx c x f).ctxAt c x = f (s.ctxAt c x) := by
  simp [State.ctxAt, State.core_modCtx]

theorem State.ctxAt_modCtx (s : State) (c x d y : Nat) (f : Ctx → Ctx) :
    (s.modCtx c x f).ctxAt d y = if c = d ∧ x = y then f (s.ctxAt c x) else s.ctxAt d y := by
  simp only [State.ctxAt, State.core_modCtx]
  by_cases h : c = d <;> by_cases h' : x = y <;> simp [h, h', CoreState.ctx_setCtx]

@[simp] theorem State.cur_modCur (s : State) (f : Ctx → Ctx) : (s.modCur f).cur = f s.cur := by
  simp [State.cur, State.modCur]

@[simp] theorem State.curCore_modCurCore (s : State) (f : CoreState → CoreState) : (s.modCurCore f).curCore = f s.curCore := by
  simp [State.curCore, State.modCurCore]

/-- Two changes of the current context are one. -/
theorem State.put_put {α : Type} (m : SMap α) (k : Nat) (v w : α) : SMap.put (SMap.put m k v) k w = SMap.put m k w := by
  induction m with
  | nil => simp [SMap.put]
  | cons e m ih =>
    obtain ⟨i, u⟩ := e
    simp only [SMap.put]
    split
    · simp [SMap.put]
    · split
      · simp [SMap.put]
      · next h1 h2 => simp [SMap.put, h1, h2, ih]

@[simp] theorem CoreState.setCtx_setCtx (k : CoreState) (x : Nat) (t u : Ctx) : (k.setCtx x t).setCtx x u = k.setCtx x u := by
  simp [CoreState.setCtx, State.put_put]

@[simp] theorem State.setCtx_setCtx (s : State) (c x : Nat) (t u : Ctx) : (s.setCtx c x t).setCtx c x u = s.setCtx c x u := by
  simp [State.setCtx, State.setCore, State.put_put, State.core]

theorem State.modCtx_modCtx (s : State) (c x : Nat) (f g : Ctx → Ctx) :
    (s.modCtx c x f).modCtx c x g = s.modCtx c x fun t => g (f t) := by
  simp [State.modCtx, State.ctxAt, State.setCtx, State.setCore, State.core, State.put_put]

theorem State.modCur_modCur (s : State) (f g : Ctx → Ctx) : (s.modCur f).modCur g = s.modCur fun t => g (f t) := by
  simp only [State.modCur, State.modCtx_cc, State.modCtx_cx, State.modCtx_modCtx]

theorem State.modCur_useId (s : State) (f : Ctx → Ctx) : (s.modCur f).useId = s.useId.modCur f := rfl

theorem State.useId_modCur (s : State) (f : Ctx → Ctx) :
    s.useId.modCur f = { s.setCtx s.cc s.cx (f s.cur) with nextId := s.nextId + 1 } := rfl

end Sys2Proof.Machine
end

