-- ==== Sys2Proof/Laws/Result.lean ====
section
/-! SUPPORT. What an issue does, and what a fixed-latency result does to the context that issues it. -/
namespace Sys2Proof.Machine

/-! ### The course of an issue -/

/-- A word that takes no format and that nothing holds back does what its entry says. -/
theorem State.issue_clear {s : State} {g : Gate} {body : State → State} (h : s.clear g.reads) (ht : g.takes = false)
    (hr : g.ready = true) : s.issue g body = .next (body s) := by
  obtain ⟨h1, h2, h3⟩ := h
  simp [State.issue, ht, hr, h1, h2, h3]

/-- A word under a prefix that it accepts, or under none, does what its entry says. -/
theorem State.issue_clearPfx {s : State} {g : Gate} {body : State → State} (h : s.clearPfx g.accepts g.reads)
    (ht : g.takes = true) (hr : g.ready = true) : s.issue g body = .next (body s) := by
  obtain ⟨h1, h2, h3⟩ := h
  simp [State.issue, ht, hr, h1, h2, h3]

/-- A word that takes no format under a prefix halts its context (R38, R51). -/
theorem State.issue_prefixed {s : State} {g : Gate} {body : State → State} (h : s.cur.prefixed = true)
    (ht : g.takes = false) : s.issue g body = .next (s.illegalHalt 7 s.code) := by
  simp [State.issue, ht, h]

/-- A format that a word does not accept halts its context (R38, R51). -/
theorem State.issue_format {s : State} {g : Gate} {body : State → State} (h : g.accepts s.cur.pfx = false)
    (ht : g.takes = true) : s.issue g body = .next (s.illegalHalt 6 s.code) := by
  simp [State.issue, ht, h]

/-- A word whose entry holds it back has not issued (R75). -/
theorem State.issue_hold {s : State} {g : Gate} {body : State → State} (ht : g.takes = false)
    (h1 : s.cur.prefixed = false) (h2 : s.inExchange = false) (hr : g.ready = false) : s.issue g body = .next s.hold := by
  simp [State.issue, ht, hr, h1, h2]

/-- A stale operand with SB set traps with cause 90 (R73). -/
theorem State.issue_stale {s : State} {g : Gate} {body : State → State} (ht : g.takes = false)
    (h1 : s.cur.prefixed = false) (h2 : s.inExchange = false) (hr : g.ready = true) (hb : bit s.cur.st 7 = true)
    (hp : g.reads.any s.cur.pending = true) : s.issue g body = .next (s.exact 90 0) := by
  simp [State.issue, ht, hr, h1, h2, hb, hp]

/-! ### The arrival of results in a context -/

theorem Ctx.settleOne_slots (n : Nat) (t : Ctx) (p : Pend) (k : Nat) :
    SMap.get 0 (Ctx.settleOne n t p).slots k =
      match p.val with
      | some v => if p.slotAt ≤ n ∧ p.slot = some k then v else SMap.get 0 t.slots k
      | none => SMap.get 0 t.slots k := by
  unfold Ctx.settleOne
  cases hv : p.val with
  | none => rfl
  | some v =>
    cases hs : p.slot <;> cases hr : p.reg <;> by_cases h1 : p.slotAt ≤ n <;> by_cases h2 : p.regAt ≤ n <;>
      simp [h1, h2, SMap.get_set]

theorem Ctx.settleOne_g (n : Nat) (t : Ctx) (p : Pend) (r : Nat) :
    (Ctx.settleOne n t p).g r =
      match p.val with
      | some v => if p.regAt ≤ n ∧ p.reg = some r ∧ r ≠ 0 then v else t.g r
      | none => t.g r := by
  unfold Ctx.settleOne Ctx.g
  cases hv : p.val with
  | none => rfl
  | some v =>
    by_cases h0 : r = 0
    · simp [h0]
    · cases hs : p.slot <;> cases hr : p.reg <;> by_cases h1 : p.slotAt ≤ n <;> by_cases h2 : p.regAt ≤ n <;>
        simp [h1, h2, h0, Ctx.setG_regs] <;> (split <;> simp_all [SMap.get_set] <;> (try omega))

theorem Ctx.settleOne_st (n : Nat) (t : Ctx) (p : Pend) :
    (Ctx.settleOne n t p).st = if p.val.isSome ∧ p.slotAt ≤ n then t.st ||| word (p.flags % 32) else t.st := by
  unfold Ctx.settleOne
  cases hv : p.val with
  | none => simp
  | some v =>
    cases hs : p.slot <;> cases hr : p.reg <;> by_cases h1 : p.slotAt ≤ n <;> by_cases h2 : p.regAt ≤ n <;>
      simp [h1, h2]

theorem Ctx.settleOne_head (n : Nat) (t : Ctx) (p : Pend) : (Ctx.settleOne n t p).head = t.head := by
  unfold Ctx.settleOne
  cases hv : p.val with
  | none => rfl
  | some v =>
    cases hs : p.slot <;> cases hr : p.reg <;> by_cases h1 : p.slotAt ≤ n <;> by_cases h2 : p.regAt ≤ n <;>
      simp [h1, h2]

theorem Ctx.settle_head (n : Nat) (t : Ctx) : (t.settle n).head = t.head := by
  unfold Ctx.settle
  suffices h : ∀ (ps : List Pend) (u : Ctx), (ps.foldl (Ctx.settleOne n) u).head = u.head from h _ _
  intro ps
  induction ps with
  | nil => intro u; rfl
  | cons p ps ih => intro u; rw [List.foldl_cons, ih, Ctx.settleOne_head]

/-- Two contexts that agree in a register agree in it after the results of two lists that differ in other registers
only. -/
theorem Ctx.settle_g_congr {n r slot : Nat} {reg : Option Nat} (h : reg ≠ some r) (ps : List Pend) :
    ∀ t u : Ctx, t.g r = u.g r →
      ((ps.map fun p => p.yield slot reg).foldl (Ctx.settleOne n) t).g r = (ps.foldl (Ctx.settleOne n) u).g r := by
  induction ps with
  | nil => intro t u e; exact e
  | cons p ps ih =>
    intro t u e
    simp only [List.map_cons, List.foldl_cons]
    refine ih _ _ ?_
    simp only [Ctx.settleOne_g, Pend.yield]
    cases p.val with
    | none => exact e
    | some v =>
      have : (if reg ≠ none ∧ p.reg = reg then none else p.reg) = some r ↔ p.reg = some r := by
        split
        · next c => constructor
                    · intro x; cases x
                    · intro x; exact absurd (c.2 ▸ x) h
        · rfl
      simp only [this, e]

/-- The same for a place of the queue. -/
theorem Ctx.settle_slot_congr {n k slot : Nat} {reg : Option Nat} (h : slot ≠ k) (ps : List Pend) :
    ∀ t u : Ctx, SMap.get 0 t.slots k = SMap.get 0 u.slots k →
      SMap.get 0 ((ps.map fun p => p.yield slot reg).foldl (Ctx.settleOne n) t).slots k =
        SMap.get 0 (ps.foldl (Ctx.settleOne n) u).slots k := by
  induction ps with
  | nil => intro t u e; exact e
  | cons p ps ih =>
    intro t u e
    simp only [List.map_cons, List.foldl_cons]
    refine ih _ _ ?_
    simp only [Ctx.settleOne_slots, Pend.yield]
    cases p.val with
    | none => exact e
    | some v =>
      have : (if p.slot = some slot then none else p.slot) = some k ↔ p.slot = some k := by
        split
        · next c => simp [c, h]
        · rfl
      simp only [this, e]

/-- What has yielded a place no longer writes it. -/
theorem Ctx.settle_slot_yield {n slot : Nat} {reg : Option Nat} (ps : List Pend) :
    ∀ t : Ctx, SMap.get 0 ((ps.map fun p => p.yield slot reg).foldl (Ctx.settleOne n) t).slots slot =
      SMap.get 0 t.slots slot := by
  induction ps with
  | nil => intro t; rfl
  | cons p ps ih =>
    intro t
    simp only [List.map_cons, List.foldl_cons]
    rw [ih, Ctx.settleOne_slots]
    have : (p.yield slot reg).slot ≠ some slot := by
      simp only [Pend.yield]; split
      · simp
      · assumption
    cases (p.yield slot reg).val <;> simp [this]

/-- What has yielded a register no longer writes it. -/
theorem Ctx.settle_g_yield {n slot r : Nat} (ps : List Pend) :
    ∀ t : Ctx, ((ps.map fun p => p.yield slot (some r)).foldl (Ctx.settleOne n) t).g r = t.g r := by
  induction ps with
  | nil => intro t; rfl
  | cons p ps ih =>
    intro t
    simp only [List.map_cons, List.foldl_cons]
    rw [ih, Ctx.settleOne_g]
    have : (p.yield slot (some r)).reg ≠ some r := by
      simp only [Pend.yield]; split
      · simp
      · next c => intro x; exact c ⟨by simp, x⟩
    cases (p.yield slot (some r)).val <;> simp [this]

theorem Ctx.settle_st_congr {n slot : Nat} {reg : Option Nat} (ps : List Pend) :
    ∀ t u : Ctx, t.st = u.st →
      ((ps.map fun p => p.yield slot reg).foldl (Ctx.settleOne n) t).st = (ps.foldl (Ctx.settleOne n) u).st := by
  induction ps with
  | nil => intro t u e; exact e
  | cons p ps ih =>
    intro t u e
    simp only [List.map_cons, List.foldl_cons]
    refine ih _ _ ?_
    simp only [Ctx.settleOne_st, Pend.yield, e]

theorem Ctx.issued_pend (t : Ctx) (now : Nat) (S : Stall) : (t.issued now S).pend = t.pend := by
  unfold Ctx.issued Ctx.advance; simp only; split
  · split
    · rfl
    · split <;> rfl
  · rfl

theorem Ctx.issued_regs (t : Ctx) (now : Nat) (S : Stall) : (t.issued now S).regs = t.regs := by
  unfold Ctx.issued Ctx.advance; simp only; split
  · split
    · rfl
    · split <;> rfl
  · rfl

theorem Ctx.issued_slots (t : Ctx) (now : Nat) (S : Stall) : (t.issued now S).slots = t.slots := by
  unfold Ctx.issued Ctx.advance; simp only; split
  · split
    · rfl
    · split <;> rfl
  · rfl

theorem Ctx.issued_head (t : Ctx) (now : Nat) (S : Stall) : (t.issued now S).head = t.head := by
  unfold Ctx.issued Ctx.advance; simp only; split
  · split
    · rfl
    · split <;> rfl
  · rfl

/-- The advance of the program counter does not look at the queue or the pending results. -/
theorem Ctx.issued_produce (t : Ctx) (now : Nat) (S : Stall) (h : BitVec 4) (ps : List Pend) :
    ({ t with head := h, pend := ps } : Ctx).issued now S = { t.issued now S with head := h, pend := ps } := by
  unfold Ctx.issued Ctx.advance Ctx.inFrame Ctx.rfWord Ctx.rfPass; simp only; split
  · split
    · rfl
    · split <;> rfl
  · rfl

theorem slotNo_one (t : Ctx) : t.slotNo 1 = t.head.toNat := by
  unfold Ctx.slotNo; have := t.head.isLt; omega

theorem head_pred (h : BitVec 4) : (h - 1).toNat = (h.toNat + 15) % 16 := by
  have := h.isLt
  rw [BitVec.toNat_sub]; simp; omega

/-- The results of a list with one more, seen from that last one. -/
theorem Ctx.settle_snoc {n : Nat} {t : Ctx} {ps : List Pend} {p : Pend} (h : t.pend = ps ++ [p]) :
    t.settle n = Ctx.settleOne n (ps.foldl (Ctx.settleOne n) { t with pend := [] }) p := by
  simp [Ctx.settle, h]

theorem slotNo_pred (h : BitVec 4) (k : Nat) : ((h - 1).toNat + (k + 1) + 15) % 16 = (h.toNat + k + 15) % 16 := by
  rw [head_pred]; omega

theorem foldl_settle_head (n : Nat) (ps : List Pend) (u : Ctx) : (ps.foldl (Ctx.settleOne n) u).head = u.head := by
  induction ps generalizing u with
  | nil => rfl
  | cons p ps ih => rw [List.foldl_cons, ih, Ctx.settleOne_head]

/-- What a fixed-latency result adds to a context. -/
def Ctx.withResult (b' : Ctx) (i : Nat) (d : Opnd) (v : Word) (at_ flags : Nat) : Ctx :=
  b'.produce d fun slot reg =>
    { id := i, slot := some slot, reg := reg, val := some v, slotAt := at_,
      regAt := if reg = none then at_ else at_ + (if 16 ≤ d.toNat ∧ d.toNat ≤ 31 then 2 else 0), flags := flags }

/-- The context after a word of a fixed-latency result that leaves it, but for the result, as `b'`. -/
theorem Ctx.delivered {b b' : Ctx} (i : Nat) (d : Opnd) (v : Word) (at_ flags : Nat) (hs : b'.slots = b.slots)
    (hr : b'.regs = b.regs) (hp : b'.pend = b.pend) (hh : b'.head = b.head) :
    Delivered b b' (b'.withResult i d v at_ flags) d v at_ flags := by
  have hdest : ∀ r, destReg d = some r → r = d.toNat ∧ 1 ≤ r ∧ r ≤ 31 := by
    intro r h; unfold destReg at h; split at h
    · cases h; exact ⟨rfl, by assumption⟩
    · cases h
  have hat : ∀ r, destReg d = some r → (if 16 ≤ d.toNat ∧ d.toNat ≤ 31 then 2 else 0) = if 16 ≤ r then 2 else 0 := by
    intro r h; obtain ⟨e, -, h2⟩ := hdest r h; subst e; simp [h2]
  generalize hc : b'.withResult i d v at_ flags = c
  have cs : c.slots = b.slots := by rw [← hc, ← hs]; rfl
  have cr : c.regs = b.regs := by rw [← hc, ← hr]; rfl
  have ch : c.head = b.head - 1 := by rw [← hc, ← hh]; rfl
  have cp : c.pend = b.pend.map (fun p => p.yield (b.head - 1).toNat (destReg d)) ++
      [{ id := i, slot := some (b.head - 1).toNat, reg := destReg d, val := some v, slotAt := at_,
         regAt := if destReg d = none then at_ else at_ + (if 16 ≤ d.toNat ∧ d.toNat ≤ 31 then 2 else 0),
         flags := flags }] := by rw [← hc, ← hh, ← hp]; rfl
  have cf : c = { b' with head := c.head, pend := c.pend } := by rw [← hc]; rfl
  have cst : c.st = b'.st := by rw [cf]
  constructor
  · exact cf
  · exact ch
  · intro n hn
    rw [Ctx.q, slotNo_one, Ctx.settle_head, Ctx.settle_snoc cp, Ctx.settleOne_slots]
    simp [hn, ch]
  · intro n hn
    rw [Ctx.q, slotNo_one, Ctx.settle_head, Ctx.settle_snoc cp, Ctx.settleOne_slots]
    have : ¬ at_ ≤ n := by omega
    simp only [this, false_and, if_false, ch]
    rw [Ctx.settle_slot_yield, Ctx.q]
    simp only [cs, Ctx.slotNo, head_pred]
    congr 1
    omega
  · intro r n h hn
    rw [Ctx.settle_snoc cp, Ctx.settleOne_g]
    have h0 : r ≠ 0 := by have := hdest r h; omega
    simp [h, h0, hat r h, hn]
  · intro r n h hn
    rw [Ctx.settle_snoc cp, Ctx.settleOne_g]
    have h1 : ¬ at_ + (if 16 ≤ r then 2 else 0) ≤ n := by omega
    simp only [h, hat r h, reduceCtorEq, if_false, h1, false_and]
    rw [Ctx.settle_g_yield]
    simp [Ctx.g, cr]
  · intro r n h
    rw [Ctx.settle_snoc cp, Ctx.settleOne_g]
    simp only [h, false_and, and_false, if_false]
    refine Ctx.settle_g_congr h b.pend _ _ ?_
    simp [Ctx.g, cr]
  · intro k n h1 h2
    rw [Ctx.q, Ctx.q, Ctx.slotNo, Ctx.slotNo, Ctx.settle_head, Ctx.settle_head, Ctx.settle_snoc cp, Ctx.settleOne_slots, ch,
      slotNo_pred]
    have hne : (b.head - 1).toNat ≠ (b.head.toNat + k + 15) % 16 := by
      rw [head_pred]; have := b.head.isLt; omega
    simp only [Option.some.injEq, hne, and_false, if_false]
    refine Ctx.settle_slot_congr hne b.pend _ _ ?_
    simp [cs]
  · intro n
    rw [Ctx.settle_snoc cp, Ctx.settleOne_st]
    have e : ((b.pend.map fun p => p.yield (b.head - 1).toNat (destReg d)).foldl (Ctx.settleOne n)
        { c with pend := [] }).st = (b'.settle n).st := by
      rw [Ctx.settle, hp]; exact Ctx.settle_st_congr b.pend _ _ cst
    simp only [e, Option.isSome_some, true_and]

theorem Ctx.withResult_issued (t : Ctx) (i : Nat) (d : Opnd) (v : Word) (at_ flags now : Nat) (S : Stall) :
    (t.withResult i d v at_ flags).issued now S = (t.issued now S).withResult i d v at_ flags := by
  have := Ctx.issued_produce t now S (t.head - 1) (t.withResult i d v at_ flags).pend
  refine Eq.trans this ?_
  simp only [Ctx.withResult, Ctx.produce, Ctx.issued_head, Ctx.issued_pend]

/-- A change of the current context that uses up one identifier. -/
theorem OnlyCur.of_useId {s : State} {c : Ctx} {f : Ctx → Ctx} (h : f s.cur = c) : OnlyCur s c 1 (s.useId.modCur f) := by
  subst h; rfl

/-- A change of the current context. -/
theorem OnlyCur.of_modCur {s : State} {c : Ctx} {f : Ctx → Ctx} (h : f s.cur = c) : OnlyCur s c 0 (s.modCur f) := by
  subst h; rfl

/-- A word of fixed latency delivers its result. -/
theorem State.op_gives {s : State} {S : Stall} {d : Opnd} {reads : List Opnd} {L : Nat} {v : Word} {flags : Nat} :
    Gives (.next (s.op S d reads L v flags)) s S d v (s.readable L reads) flags := by
  refine ⟨_, _, rfl, ?_, Ctx.delivered s.newId d v (s.readable L reads) flags (Ctx.issued_slots _ _ _)
    (Ctx.issued_regs _ _ _) (Ctx.issued_pend _ _ _) (Ctx.issued_head _ _ _)⟩
  rw [← Ctx.withResult_issued]
  unfold OnlyCur State.op State.result State.finish
  simp only [State.modCur_useId, State.modCur_modCur]
  rfl

/-- A result whose entry gives its own cycles. -/
theorem State.opOwn_gives {s : State} {S : Stall} {d : Opnd} {L : Nat} {v : Word} :
    Gives (.next (s.opOwn S d L v)) s S d v (s.now + L) 0 := by
  have := State.op_gives (s := s) (S := S) (d := d) (reads := []) (L := L) (v := v) (flags := 0)
  simpa [State.op, State.opOwn, State.readable] using this

/-- A jump that delivers a link. -/
theorem State.jump_gives {s : State} {S : Stall} {d : Opnd} {slow : Bool} {v : Word} {target : BitVec 52} :
    GivesIn (.next ((s.result d v 1 slow 0).jump target S)) s (s.cur.jumped target s.now S) d v
      (s.now + 1 + (if slow then 2 else 0)) 0 := by
  refine ⟨_, _, rfl, ?_, Ctx.delivered s.newId d v (s.now + 1 + (if slow then 2 else 0)) 0 rfl rfl rfl rfl⟩
  unfold OnlyCur State.result State.jump
  simp only [State.modCur_useId, State.modCur_modCur]
  rfl

/-- The word that only moves on. -/
theorem State.finish_onlyCur (s : State) (S : Stall) : OnlyCur s (s.cur.issued s.now S) 0 (s.finish S) := rfl

theorem State.jump_onlyCur (s : State) (target : BitVec 52) (S : Stall) :
    OnlyCur s (s.cur.jumped target s.now S) 0 (s.jump target S) := rfl

end Sys2Proof.Machine
end

