-- ==== Sys2Proof/Laws/Scalar.lean ====
section
/-! SUPPORT. What the shared forms of the scalar instructions do once nothing holds the word back. -/
namespace Sys2Proof.Machine

/-- A binary operation delivers its function of the two sources. -/
theorem binary_gives {s : State} {S : Stall} {d a b : Opnd} {L : Nat} {f : Word → Word → Word} {v : Word}
    (h : s.clear [a, b]) (hv : f (s.opnd a) (s.opnd b) = v) :
    Gives (binary L f S d a b s) s S d v (s.readable L [a, b]) 0 := by
  unfold binary; rw [State.issue_clear h rfl rfl]; subst hv; exact State.op_gives

/-- A unary operation delivers its function of the source. -/
theorem unary_gives {s : State} {S : Stall} {d a : Opnd} {f : Word → Word} {v : Word}
    (h : s.clear [a]) (hv : f (s.opnd a) = v) : Gives (unary f S d a s) s S d v (s.readable 1 [a]) 0 := by
  unfold unary; rw [State.issue_clear h rfl rfl]; subst hv; exact State.op_gives

/-- An immediate operation delivers its function of the source. -/
theorem immediate_gives {s : State} {S : Stall} {d a : Opnd} {f : Word → Word} {v : Word}
    (h : s.clear [a]) (hv : f (s.opnd a) = v) : Gives (immediate f S d a s) s S d v (s.readable 1 [a]) 0 := by
  unfold immediate; rw [State.issue_clear h rfl rfl]; subst hv; exact State.op_gives

/-- A division waits for the divider of its core. -/
theorem division_waits {s : State} {S : Stall} {d a b : Opnd} {f : Word → Word → Word} (h1 : s.cur.prefixed = false)
    (h2 : s.inExchange = false) (busy : s.now < s.curCore.divAt) : division f S d a b s = .next s.hold := by
  unfold division
  exact State.issue_hold rfl h1 h2 (by simp; omega)

end Sys2Proof.Machine
end

