-- ==== Sys2Proof/Laws/Local.lean ====
section
/-! SUPPORT. The local stores: where an access goes, what a byte reads as after a write, and what a local access does. -/
namespace Sys2Proof.Machine

/-- A memory format is one of 1, 2, 4 or 8 bytes. -/
theorem memFmt_width {p : Pfx} (h : memAccepts p = true) :
    (memFmt p).w / 8 = 1 ∨ (memFmt p).w / 8 = 2 ∨ (memFmt p).w / 8 = 4 ∨ (memFmt p).w / 8 = 8 := by
  unfold memAccepts at h
  simp only [Bool.and_eq_true, decide_eq_true_eq, beq_iff_eq] at h
  obtain ⟨⟨⟨h, -⟩, -⟩, -⟩ := h
  unfold memFmt
  generalize p.fa = n at *
  interval_cases n <;> simp [srcFmt]

/-- The target of an access of an element, as the claims state it. -/
theorem State.target_eq (s : State) (addr w : Nat) (hw : w = 1 ∨ w = 2 ∨ w = 4 ∨ w = 8) :
    s.target s.cc addr w w = match localFault s addr w with
      | some k => .error k
      | none => match localPlace s.cc addr with
        | some r => .ok r
        | none => .error 2 := by
  unfold State.target localFault
  by_cases h : addr % w = 0
  · simp only [h, ne_eq, not_true, if_false]
    unfold localPlace octOf
    rw [Nat.mul_comm 8]
    by_cases h1 : addr < 0x60000
    · have e1 : ¬ 0x60000 < addr + w := by rcases hw with rfl | rfl | rfl | rfl <;> omega
      have e2 : 0x58000 < addr + w ↔ 0x58000 ≤ addr := by rcases hw with rfl | rfl | rfl | rfl <;> omega
      simp only [h1, if_true, e1, if_false, e2]
      split <;> simp_all
    · simp only [h1, if_false]
      by_cases h2 : 0x800000 ≤ addr ∧ addr < 0xC00000 ∧ (addr - 0x800000) % 0x80000 < 0x60000
      · have e1 : ¬ 0x60000 < (addr - 0x800000) % 0x80000 + w := by rcases hw with rfl | rfl | rfl | rfl <;> omega
        have e2 : 0x58000 < (addr - 0x800000) % 0x80000 + w ↔ 0x58000 ≤ (addr - 0x800000) % 0x80000 := by
          rcases hw with rfl | rfl | rfl | rfl <;> omega
        simp only [h2, and_self, if_true, e1, if_false, e2]
        split <;> simp_all
      · simp only [h2, if_false]
  · simp [h]

theorem State.offAddr_eq (s : State) (b : Opnd) (o : BitVec 10) : s.offAddr b o = offsetAddress s b o := by
  unfold State.offAddr offsetAddress sext10 word
  rw [BitVec.ofInt_mul, BitVec.ofInt_natCast]
  rfl

theorem State.idxAddr_eq (s : State) (a b : Opnd) : s.idxAddr a b = indexAddress s a b := by
  unfold State.idxAddr indexAddress word
  rw [BitVec.ofNat_mul]
  simp

/-! ### Bytes and their places -/

theorem bankOf_lt (rs : SMap Region) (a : Nat) : bankOf rs a < 32 := by
  unfold bankOf; simp only; split <;> exact Nat.mod_lt _ (by omega)

/-- A place lies in the row of its address. -/
theorem place_row (rs : SMap Region) (a : Nat) : place rs a / 256 = a / 256 := by
  have := bankOf_lt rs a
  unfold place; omega

theorem place_byte (rs : SMap Region) (a : Nat) : place rs a % 8 = a % 8 := by
  unfold place; omega

theorem place_bank (rs : SMap Region) (a : Nat) : place rs a / 8 % 32 = bankOf rs a := by
  have := bankOf_lt rs a
  unfold place; omega

theorem firstOf_congr {p q : Nat → Bool} (h : ∀ n, p n = q n) (l : List Nat) : firstOf p l = firstOf q l := by
  induction l with
  | nil => rfl
  | cons x xs ih => simp [firstOf, h, ih]

theorem spanOf_row {rs : SMap Region} (h : regionsAligned rs) {a b : Nat} (e : a / 256 = b / 256) : spanOf rs a = spanOf rs b := by
  unfold spanOf
  rw [firstOf_congr (q := fun n => let r := SMap.get {} rs n; r.size != 0 && r.base ≤ b && b < r.base + 4096 * r.size)]
  intro n
  have hb := h n
  have h1 : (SMap.get {} rs n).base ≤ a ↔ (SMap.get {} rs n).base ≤ b := by omega
  have h2 : a < (SMap.get {} rs n).base + 4096 * (SMap.get {} rs n).size ↔
      b < (SMap.get {} rs n).base + 4096 * (SMap.get {} rs n).size := by omega
  simp only [h1, h2]

/-- The low bits of a word number come back from its bank and the bits above. -/
theorem xor_shift_inj {x y c : Nat} (hc : 0 < c) (h : x / 32 = y / 32) (e : (x ^^^ x / 2 ^ c) % 32 = (y ^^^ y / 2 ^ c) % 32) :
    x = y := by
  have high : ∀ i, 5 ≤ i → x.testBit i = y.testBit i := by
    intro i hi
    have := congrArg (fun n => n.testBit (i - 5)) h
    simp only [show (32 : Nat) = 2 ^ 5 by rfl, Nat.testBit_div_two_pow] at this
    rwa [show i - 5 + 5 = i by omega] at this
  have low : ∀ k, k ≤ 5 → ∀ i, 5 - k ≤ i → x.testBit i = y.testBit i := by
    intro k
    induction k with
    | zero => intro _ i hi; exact high i (by omega)
    | succ k ih =>
      intro hk i hi
      by_cases h5 : 5 ≤ i
      · exact high i h5
      · have := congrArg (fun n => n.testBit i) e
        have hi5 : i < 5 := by omega
        simp only [show (32 : Nat) = 2 ^ 5 by rfl, Nat.testBit_mod_two_pow, hi5, decide_true, Bool.true_and,
          Nat.testBit_xor, Nat.testBit_div_two_pow] at this
        rw [ih (by omega) (i + c) (by omega)] at this
        simpa using this
  exact Nat.eq_of_testBit_eq fun i => low 5 (by omega) i (by omega)

/-- Two addresses of a store lie at two places. -/
theorem place_inj {rs : SMap Region} (h : regionsAligned rs) {a b : Nat} (e : place rs a = place rs b) : a = b := by
  have hr : a / 256 = b / 256 := by rw [← place_row rs a, ← place_row rs b, e]
  have hb : a % 8 = b % 8 := by rw [← place_byte rs a, ← place_byte rs b, e]
  have hk : bankOf rs a = bankOf rs b := by rw [← place_bank rs a, ← place_bank rs b, e]
  have hw : a / 8 = b / 8 := by
    unfold bankOf at hk
    rw [spanOf_row h hr] at hk
    simp only at hk
    split at hk
    · omega
    · next hc =>
      refine xor_shift_inj (c := spanOf rs b) (by omega) (by omega) ?_
      have ea : ∀ z, z / 2 ^ (spanOf rs b + 3) = z / 8 / 2 ^ spanOf rs b := by
        intro z; rw [Nat.div_div_eq_div_mul, Nat.pow_add]; congr 1; ring
      rwa [ea, ea] at hk
  omega

/-! ### Bytes after a write -/

@[simp] theorem CoreState.lput_regions (k : CoreState) (a : Nat) (bs : List Byte) : (k.lput a bs).regions = k.regions := by
  induction bs generalizing k a with
  | nil => rfl
  | cons b bs ih => simp [CoreState.lput, ih]

/-- A write changes nothing of a core but bytes of its store. -/
theorem CoreState.lput_eq (k : CoreState) (a : Nat) (bs : List Byte) : k.lput a bs = { k with ls := (k.lput a bs).ls } := by
  induction bs generalizing k a with
  | nil => rfl
  | cons b bs ih => unfold CoreState.lput; rw [ih]

/-- A byte after a write: the byte written where the address is in range, else as before. -/
theorem CoreState.lbyte_lput {k : CoreState} (h : regionsAligned k.regions) (a : Nat) (bs : List Byte) (x : Nat) :
    (k.lput a bs).lbyte x = if a ≤ x ∧ x < a + bs.length then bs.getD (x - a) 0 else k.lbyte x := by
  induction bs generalizing k a with
  | nil =>
    have : ¬ (a ≤ x ∧ x < a + 0) := by omega
    simp only [CoreState.lput, List.length_nil, this, if_false]
  | cons b bs ih =>
    simp only [CoreState.lput]
    rw [ih (by exact h)]
    by_cases h1 : a + 1 ≤ x ∧ x < a + 1 + bs.length
    · have h2 : a ≤ x ∧ x < a + (b :: bs).length := by simp only [List.length_cons]; omega
      rw [if_pos h1, if_pos h2, show x - a = (x - (a + 1)) + 1 by omega, List.getD_cons_succ]
    · rw [if_neg h1]
      unfold CoreState.lbyte
      simp only [SMap.get_set]
      by_cases h2 : a = x
      · subst h2; simp
      · have h3 : ¬ (a ≤ x ∧ x < a + (b :: bs).length) := by simp only [List.length_cons]; omega
        have h4 : place k.regions a ≠ place k.regions x := fun e => h2 (place_inj h e)
        rw [if_neg h3, if_neg h4]

/-! ### The course of local accesses -/

@[simp] theorem State.inCore_core (s : State) (c : Nat) (k : CoreState) (d : Nat) (h : d ≠ c) : (s.setCore c k).core d = s.core d := by
  simp [State.core_setCore, Ne.symm h]

/-- What an own-cycle result leaves: the current context, issued, with the result pending. -/
theorem State.opOwn_only {s : State} {S : Stall} {d : Opnd} {L : Nat} {v : Word} :
    OnlyCur s ((s.cur.issued s.now S).withResult s.newId d v (s.now + L) 0) 1 (s.opOwn S d L v) := by
  rw [← Ctx.withResult_issued]
  unfold OnlyCur State.opOwn State.result State.finish
  simp only [State.modCur_useId, State.modCur_modCur]
  rfl

/-- A further change of the current context, after one that has changed nothing else. -/
theorem OnlyCur.modCur {s t : State} {c : Ctx} {k : Nat} {f : Ctx → Ctx} (h : OnlyCur s c k t) : OnlyCur s (f c) k (t.modCur f) := by
  have e : (s.setCtx s.cc s.cx c).modCur f = s.setCtx s.cc s.cx (f c) := by
    change (s.setCtx s.cc s.cx c).setCtx s.cc s.cx (f ((s.setCtx s.cc s.cx c).ctxAt s.cc s.cx)) = _
    rw [State.ctxAt_setCtx_same, State.setCtx_setCtx]
  unfold OnlyCur at *
  subst h
  exact congrArg (fun u : State => { u with nextId := s.nextId + k }) e

/-- An access to the own store takes no slot of the octant network. -/
theorem State.madeLocal_own {s : State} {c : Nat} (h : c = s.cc) :
    s.madeLocal c = s.modCur fun t => { t with localTo := c, localAt := s.now + 2 } := by
  subst h
  unfold State.madeLocal
  simp

/-- A load from the own store. -/
theorem State.ownLoad_gives {s : State} {S : Stall} {d : Opnd} {L : Nat} {v : Word} {c : Nat} (h : c = s.cc) :
    GivesIn (.next ((s.opOwn S d L v).madeLocal c)) s { s.cur.issued s.now S with localTo := c, localAt := s.now + 2 } d v
      (s.now + L) 0 := by
  subst h
  refine ⟨_, _, rfl, ?_, Ctx.delivered s.newId d v (s.now + L) 0 (Ctx.issued_slots s.cur s.now S) (Ctx.issued_regs s.cur s.now S)
    (Ctx.issued_pend s.cur s.now S) (Ctx.issued_head s.cur s.now S)⟩
  have h := State.opOwn_only (s := s) (S := S) (d := d) (L := L) (v := v)
  have cc : (s.opOwn S d L v).cc = s.cc := by rw [h]; rfl
  have now : (s.opOwn S d L v).now = s.now := by rw [h]; rfl
  rw [State.madeLocal_own cc.symm, now]
  exact h.modCur (f := fun t => { t with localTo := s.cc, localAt := s.now + 2 })

/-! ### Local writes -/

/-- What a local write leaves of the machine: no core but the written one, and of that one nothing but the store, the undo
log and the old words kept for the matrix unit. -/
structure LocalWrite (s t : State) (core : Nat) : Prop where
  mem : t.mem = s.mem
  now : t.now = s.now
  cc : t.cc = s.cc
  cx : t.cx = s.cx
  others : ∀ c, c ≠ core → t.core c = s.core c
  ctxs : (t.core core).ctxs = (s.core core).ctxs
  regions : (t.core core).regions = (s.core core).regions
  vec : (t.core core).vec = (s.core core).vec
  acc : (t.core core).mat.acc = (s.core core).mat.acc

theorem LocalWrite.refl (s : State) (core : Nat) : LocalWrite s s core :=
  ⟨rfl, rfl, rfl, rfl, fun _ _ => rfl, rfl, rfl, rfl, rfl⟩

theorem LocalWrite.trans {s t u : State} {core : Nat} (h : LocalWrite s t core) (h' : LocalWrite t u core) : LocalWrite s u core :=
  ⟨h'.mem.trans h.mem, h'.now.trans h.now, h'.cc.trans h.cc, h'.cx.trans h.cx, fun c hc => (h'.others c hc).trans (h.others c hc),
    h'.ctxs.trans h.ctxs, h'.regions.trans h.regions, h'.vec.trans h.vec, h'.acc.trans h.acc⟩

theorem LocalWrite.setCore {s : State} {core : Nat} {k : CoreState} (h1 : k.ctxs = (s.core core).ctxs)
    (h2 : k.regions = (s.core core).regions) (h3 : k.vec = (s.core core).vec) (h4 : k.mat.acc = (s.core core).mat.acc) :
    LocalWrite s (s.setCore core k) core := by
  exact ⟨rfl, rfl, rfl, rfl, fun c hc => by simp [State.core_setCore, hc.symm], by simp [h1], by simp [h2], by simp [h3], by simp [h4]⟩

theorem State.setUnr_write (s : State) (c core : Nat) : LocalWrite s (s.setUnr c) core := by
  unfold State.setUnr
  split
  · exact ⟨rfl, rfl, rfl, rfl, fun _ _ => rfl, rfl, rfl, rfl, rfl⟩
  · exact LocalWrite.refl s core

theorem State.logLine_write (s : State) (core line : Nat) : LocalWrite s (s.logLine core line) core := by
  unfold State.logLine
  simp only
  split
  · exact LocalWrite.refl s core
  · split
    · refine LocalWrite.trans (LocalWrite.setCore ?_ ?_ ?_ ?_) (State.setUnr_write _ _ _) <;> rfl
    · exact LocalWrite.setCore rfl rfl rfl rfl

theorem State.keepOld_write (s : State) (core a w : Nat) : LocalWrite s (s.keepOld core a w) core := by
  unfold State.keepOld
  split
  · exact LocalWrite.setCore rfl rfl rfl rfl
  · exact LocalWrite.refl s core

theorem LocalWrite.foldl {β : Type} {core : Nat} {f : State → β → State} (h : ∀ s b, LocalWrite s (f s b) core) (l : List β) :
    ∀ s, LocalWrite s (l.foldl f s) core := by
  induction l with
  | nil => exact fun s => LocalWrite.refl s core
  | cons b l ih => exact fun s => (h s b).trans (ih _)

/-- What a local write leaves of the machine. -/
theorem State.lputBytes_write (s : State) (core a : Nat) (bs : List Byte) : LocalWrite s (s.lputBytes core a bs) core := by
  unfold State.lputBytes
  simp only
  generalize ht : (if s.rbe core = true then _ else s) = t
  refine LocalWrite.trans (t := t) ?_ ((State.keepOld_write t core a bs.length).trans ?_)
  · rw [← ht]
    split
    · refine LocalWrite.foldl (fun s l => ?_) _ s
      split
      · exact LocalWrite.refl s core
      · exact State.logLine_write s core l
    · exact LocalWrite.refl s core
  · unfold State.modCore
    refine LocalWrite.setCore ?_ ?_ ?_ ?_ <;> simp only <;> rw [CoreState.lput_eq]

/-- The undo log writes only its own range, at the place of a byte from 0x58000 up. -/
theorem State.logLine_lbyte (s : State) (core line x : Nat) (h : x < 0x58000) :
    ((s.logLine core line).core core).lbyte x = (s.core core).lbyte x := by
  unfold State.logLine
  simp only
  have unr : ∀ t : State, (t.setUnr core).core core = t.core core := fun t => by
    unfold State.setUnr; split <;> rfl
  split
  · rfl
  · split
    · rw [unr]; simp [CoreState.lbyte]
    · simp only [State.core_setCore, if_true, CoreState.lbyte]
      have hp : Machine.place (s.core core).regions x < 0x58000 := by
        have := place_row (s.core core).regions x; omega
      generalize Machine.place (s.core core).regions x = p at hp
      generalize (List.range 64).zip ((s.core core).lbytes (64 * line) 64) = raw
      generalize (s.core core).undo.lines.length = n
      suffices g : ∀ m : Mem, SMap.get Mem.dflt (raw.foldl (fun m (e : Nat × Byte) =>
          SMap.set Mem.dflt m (0x58000 + 64 * n + e.1) e.2) m) p = SMap.get Mem.dflt m p from g _
      induction raw with
      | nil => exact fun _ => rfl
      | cons e raw ih =>
        intro m
        rw [List.foldl_cons, ih, SMap.get_set]
        rw [if_neg (by omega)]

theorem State.logLines_lbyte (core : Nat) (ls : List Nat) (x : Nat) (h : x < 0x58000) :
    ∀ s : State, ((ls.foldl (fun s l => if (s.core core).undo.exempt (64 * l) then s else s.logLine core l) s).core core).lbyte x =
      (s.core core).lbyte x := by
  induction ls with
  | nil => exact fun _ => rfl
  | cons l ls ih =>
    intro s
    rw [List.foldl_cons, ih]
    split
    · rfl
    · exact State.logLine_lbyte s core l x h

/-- A byte of a store after a local write.  Where rollback is enabled, the bytes from 0x58000 up are the undo log's. -/
theorem State.lbyte_lputBytes {s : State} {core : Nat} (h : regionsAligned (s.core core).regions) (a : Nat) (bs : List Byte)
    (x : Nat) (hx : s.rbe core = true → x < 0x58000) :
    ((s.lputBytes core a bs).core core).lbyte x =
      if a ≤ x ∧ x < a + bs.length then bs.getD (x - a) 0 else (s.core core).lbyte x := by
  unfold State.lputBytes
  simp only
  generalize ht : (if s.rbe core = true then _ else s) = t
  have h1 : regionsAligned (t.core core).regions ∧ (t.core core).lbyte x = (s.core core).lbyte x := by
    rw [← ht]
    split
    · next hr =>
      have w : LocalWrite s ((linesOf a bs.length).foldl
          (fun s l => if (s.core core).undo.exempt (64 * l) then s else s.logLine core l) s) core := by
        refine LocalWrite.foldl (fun s l => ?_) _ s
        split
        · exact LocalWrite.refl s core
        · exact State.logLine_write s core l
      exact ⟨by rw [w.regions]; exact h, State.logLines_lbyte core _ x (hx hr) s⟩
    · exact ⟨h, rfl⟩
  have h2 : ((t.keepOld core a bs.length).core core).regions = (t.core core).regions
      ∧ ((t.keepOld core a bs.length).core core).lbyte x = (t.core core).lbyte x := by
    refine ⟨(State.keepOld_write t core a bs.length).regions, ?_⟩
    unfold State.keepOld
    split
    · simp [CoreState.lbyte]
    · rfl
  rw [State.core_modCore_same, CoreState.lbyte_lput (by rw [h2.1]; exact h1.1), h2.2, h1.2]

end Sys2Proof.Machine
end

