-- ==== Sys2Proof/Laws/Memory.lean ====
section
/-! SUPPORT. Global memory: what a byte reads as after a write, what a write leaves, and the canonical form. -/
namespace Sys2Proof.Machine

/-- A byte after a write of bytes. -/
theorem Mem.get_putBytes (m : Mem) (pa : Nat) (bs : List Byte) (x : Nat) :
    SMap.get Mem.dflt (Mem.putBytes m pa bs) x =
      if pa ≤ x ∧ x < pa + bs.length then bs.getD (x - pa) 0 else SMap.get Mem.dflt m x := by
  induction bs generalizing m pa with
  | nil =>
    have : ¬ (pa ≤ x ∧ x < pa + 0) := by omega
    simp only [Mem.putBytes, List.length_nil, this, if_false]
  | cons b bs ih =>
    rw [Mem.putBytes, ih]
    by_cases h1 : pa + 1 ≤ x ∧ x < pa + 1 + bs.length
    · have h2 : pa ≤ x ∧ x < pa + (b :: bs).length := by simp only [List.length_cons]; omega
      rw [if_pos h1, if_pos h2, show x - pa = (x - (pa + 1)) + 1 by omega, List.getD_cons_succ]
    · rw [if_neg h1, SMap.get_set]
      by_cases h2 : pa = x
      · subst h2; simp
      · have h3 : ¬ (pa ≤ x ∧ x < pa + (b :: bs).length) := by simp only [List.length_cons]; omega
        rw [if_neg h3, if_neg h2]

/-- A write of bytes keeps the canonical form. -/
theorem Mem.wf_putBytes {m : Mem} (pa : Nat) (bs : List Byte) (h : Mem.wf m = true) : Mem.wf (Mem.putBytes m pa bs) = true := by
  induction bs generalizing m pa with
  | nil => exact h
  | cons b bs ih => exact ih _ (SMap.wf_set pa b h)

@[simp] theorem State.gbytes_length (s : State) (pa w : Nat) : (s.gbytes pa w).length = w := by simp [State.gbytes]

/-! ### What a global write leaves -/

/-- Between `s` and `t` no core and no time has changed, and memory only as given. -/
structure GlobalOnly (s t : State) : Prop where
  cores : t.cores = s.cores
  now : t.now = s.now
  cc : t.cc = s.cc
  cx : t.cx = s.cx
  reqs : t.reqs = s.reqs
  nextId : t.nextId = s.nextId

theorem GlobalOnly.refl (s : State) : GlobalOnly s s := ⟨rfl, rfl, rfl, rfl, rfl, rfl⟩

theorem GlobalOnly.trans {s t u : State} (h : GlobalOnly s t) (h' : GlobalOnly t u) : GlobalOnly s u :=
  ⟨h'.cores.trans h.cores, h'.now.trans h.now, h'.cc.trans h.cc, h'.cx.trans h.cx, h'.reqs.trans h.reqs,
    h'.nextId.trans h.nextId⟩

theorem GlobalOnly.foldl {β : Type} {f : State → β → State} (h : ∀ s b, GlobalOnly s (f s b)) (l : List β) :
    ∀ s, GlobalOnly s (l.foldl f s) := by
  induction l with
  | nil => exact GlobalOnly.refl
  | cons b l ih => exact fun s => (h s b).trans (ih _)

theorem State.mem_foldl {β : Type} {f : State → β → State} (h : ∀ s b, (f s b).mem = s.mem) (l : List β) :
    ∀ s, (l.foldl f s).mem = s.mem := by
  induction l with
  | nil => exact fun _ => rfl
  | cons b l ih => exact fun s => (ih _).trans (h s b)

theorem State.journal_only (s : State) (g i l : Nat) : GlobalOnly s (s.journal g i l) ∧ (s.journal g i l).mem = s.mem := by
  unfold State.journal
  simp only
  split
  · exact ⟨GlobalOnly.refl s, rfl⟩
  · split
    · exact ⟨⟨rfl, rfl, rfl, rfl, rfl, rfl⟩, rfl⟩
    · exact ⟨⟨rfl, rfl, rfl, rfl, rfl, rfl⟩, rfl⟩

theorem State.journalFor_only (s : State) (src : Option (Nat × Nat)) (pa w : Nat) :
    GlobalOnly s (s.journalFor src pa w) ∧ (s.journalFor src pa w).mem = s.mem := by
  unfold State.journalFor
  split
  · exact ⟨GlobalOnly.refl s, rfl⟩
  · split
    · exact ⟨GlobalOnly.foldl (fun s l => (State.journal_only s _ _ l).1) _ s,
        State.mem_foldl (fun s l => (State.journal_only s _ _ l).2) _ s⟩
    · exact ⟨GlobalOnly.refl s, rfl⟩

/-- What a flit sent through a port can change: the module beyond the cores and the calendar. -/
theorem State.sendFlit_eq (s : State) (p : Nat) (f : Flit) : ∃ m c, s.sendFlit p f = { s with md := m, cal := c } := by
  unfold State.sendFlit State.outFlit
  simp only
  split <;> split <;> exact ⟨_, _, rfl⟩

theorem State.sendLater_eq (s : State) (p : Nat) (f : Flit) : ∃ m c, s.sendLater p f = { s with md := m, cal := c } := by
  unfold State.sendLater
  simp only
  split
  · exact ⟨_, _, rfl⟩
  · split
    · exact State.sendFlit_eq s p f
    · exact ⟨_, _, rfl⟩

/-- What a watch that wakes can change: a response and its event, or a flit. -/
theorem State.wake_eq (s : State) (w : Watch) (v : Word) :
    ∃ m c r n, s.wake w v = { s with md := m, cal := c, resps := r, fresh := n } := by
  unfold State.wake
  split
  · exact ⟨_, _, _, _, rfl⟩
  · obtain ⟨m, c, h⟩ := State.sendLater_eq s (portTo _) { vc := 1, dst := _, pay := .answer w.id _ 0 v }
    exact ⟨m, c, _, _, h⟩

theorem State.wake_only (s : State) (w : Watch) (v : Word) : GlobalOnly s (s.wake w v) ∧ (s.wake w v).mem = s.mem := by
  obtain ⟨m, c, r, n, h⟩ := State.wake_eq s w v
  rw [h]
  exact ⟨⟨rfl, rfl, rfl, rfl, rfl, rfl⟩, rfl⟩

theorem State.wakeLine_only (s : State) (l : Nat) : GlobalOnly s (s.wakeLine l) ∧ (s.wakeLine l).mem = s.mem := by
  unfold State.wakeLine
  simp only
  split
  · exact ⟨GlobalOnly.refl s, rfl⟩
  · refine ⟨GlobalOnly.trans ?_ (GlobalOnly.foldl (fun s w => ?_) _ _), (State.mem_foldl (fun s w => ?_) _ _).trans ?_⟩
    · exact ⟨rfl, rfl, rfl, rfl, rfl, rfl⟩
    · exact (State.wake_only s w 0).1
    · exact (State.wake_only s w 0).2
    · rfl

/-- What a global write leaves, and the memory after it. -/
theorem State.gputBytes_only (s : State) (src : Option (Nat × Nat)) (pa : Nat) (bs : List Byte) :
    GlobalOnly s (s.gputBytes src pa bs) ∧ (s.gputBytes src pa bs).mem = Mem.putBytes s.mem pa bs := by
  have hj := State.journalFor_only s src pa bs.length
  unfold State.gputBytes
  simp only
  constructor
  · refine hj.1.trans (GlobalOnly.trans ?_ (GlobalOnly.foldl (fun s l => (State.wakeLine_only s l).1) _ _))
    exact ⟨rfl, rfl, rfl, rfl, rfl, rfl⟩
  · refine (State.mem_foldl (fun s l => (State.wakeLine_only s l).2) _ _).trans ?_
    show Mem.putBytes (s.journalFor src pa bs.length).mem pa bs = _
    rw [hj.2]

/-- A byte of memory after a global write. -/
theorem State.gbyte_gputBytes (s : State) (src : Option (Nat × Nat)) (pa : Nat) (bs : List Byte) (x : Nat) :
    (s.gputBytes src pa bs).gbyte x = if pa ≤ x ∧ x < pa + bs.length then bs.getD (x - pa) 0 else s.gbyte x := by
  unfold State.gbyte
  rw [(State.gputBytes_only s src pa bs).2, Mem.get_putBytes]

/-- A byte of memory after a write of the low bytes of a number. -/
theorem State.gbyte_gwrite (s : State) (src : Option (Nat × Nat)) (pa w v x : Nat) :
    (s.gwrite src pa w v).gbyte x =
      if pa ≤ x ∧ x < pa + w then BitVec.ofNat 8 (v / 256 ^ (x - pa)) else s.gbyte x := by
  unfold State.gwrite
  rw [State.gbyte_gputBytes, toBytes_length]
  split
  · rw [toBytes_getD]; omega
  · rfl

/-- Writing back what a range holds changes no byte. -/
theorem State.gbyte_of_gread (s : State) (pa w x : Nat) (h : pa ≤ x ∧ x < pa + w) :
    BitVec.ofNat 8 (ofBytes (s.gbytes pa w) / 256 ^ (x - pa)) = s.gbyte x := by
  have h1 := toBytes_getD w (ofBytes (s.gbytes pa w)) (x - pa) (by omega)
  have h2 := toBytes_ofBytes (s.gbytes pa w)
  rw [State.gbytes_length] at h2
  rw [h2] at h1
  rw [← h1, List.getD_eq_getElem _ _ (by simp; omega)]
  simp only [State.gbytes, List.getElem_map, List.getElem_range]
  congr 1
  omega

theorem State.gbyte_gupdate (s : State) (src : Option (Nat × Nat)) (pa w n x : Nat) :
    (s.gupdate src pa w (s.gread pa w) n).gbyte x =
      if pa ≤ x ∧ x < pa + w then BitVec.ofNat 8 (n / 256 ^ (x - pa)) else s.gbyte x := by
  unfold State.gupdate
  split
  · next h =>
    split
    · next h' => rw [h]; exact (State.gbyte_of_gread s pa w x h').symm
    · rfl
  · exact State.gbyte_gwrite s src pa w n x

end Sys2Proof.Machine
end

