-- ==== Sys2Proof/Laws/Canonical.lean ====
section
/-! SUPPORT. The canonical form of memories: every operation that writes global memory or a local store keeps it. -/
namespace Sys2Proof.Machine

/-! ### Tables -/

theorem SMap.rising_filter {α : Type} {m : SMap α} {lo : Nat} (p : Nat × α → Bool) (h : SMap.rising lo m = true) :
    SMap.rising lo (m.filter p) = true := by
  induction m generalizing lo with
  | nil => rfl
  | cons e m ih =>
    obtain ⟨i, w⟩ := e
    simp only [SMap.rising, Bool.and_eq_true, decide_eq_true_eq] at h
    rw [List.filter_cons]
    split
    · simp only [SMap.rising, Bool.and_eq_true, decide_eq_true_eq]; exact ⟨h.1, ih h.2⟩
    · exact SMap.rising_mono (ih h.2) (by omega)

/-- Bytes that are dropped leave the canonical form. -/
theorem Mem.wf_filter {m : Mem} (p : Nat × Byte → Bool) (h : Mem.wf m = true) : Mem.wf (m.filter p) = true := by
  unfold Mem.wf SMap.wf at *
  rw [Bool.and_eq_true] at *
  refine ⟨SMap.rising_filter p h.1, ?_⟩
  rw [List.all_eq_true] at *
  exact fun e he => h.2 e (List.mem_filter.mp he).1

theorem SMap.mem_put {α : Type} {m : SMap α} {k : Nat} {v : α} {e : Nat × α} (h : e ∈ SMap.put m k v) : e = (k, v) ∨ e ∈ m := by
  induction m with
  | nil => simpa [SMap.put] using h
  | cons f m ih =>
    obtain ⟨i, w⟩ := f
    simp only [SMap.put] at h
    split at h
    · rcases List.mem_cons.mp h with h | h
      · exact .inl h
      · exact .inr h
    · split at h
      · rcases List.mem_cons.mp h with h | h
        · exact .inl h
        · exact .inr (List.mem_cons_of_mem _ h)
      · rcases List.mem_cons.mp h with h | h
        · exact .inr (h ▸ List.mem_cons_self)
        · exact (ih h).imp id (List.mem_cons_of_mem _)

theorem SMap.get_mem {α : Type} (d : α) (m : SMap α) (k : Nat) : SMap.get d m k = d ∨ (k, SMap.get d m k) ∈ m := by
  induction m with
  | nil => exact .inl rfl
  | cons f m ih =>
    obtain ⟨i, w⟩ := f
    simp only [SMap.get]
    split
    · next h => subst h; exact .inr List.mem_cons_self
    · exact ih.imp id (List.mem_cons_of_mem _)

/-! ### What keeps the machine's memories canonical -/

/-- A state whose cores and gangs are as before and whose memory is canonical is canonical. -/
theorem State.canonical_of {s t : State} (h : s.canonical) (hm : Mem.wf t.mem = true) (hc : t.cores = s.cores) (hg : t.gangs = s.gangs) :
    t.canonical := ⟨hm, hc ▸ h.2.1, hg ▸ h.2.2⟩

/-- A state that differs only elsewhere is canonical. -/
theorem State.canonical_same {s t : State} (h : s.canonical) (hm : t.mem = s.mem) (hc : t.cores = s.cores) (hg : t.gangs = s.gangs) :
    t.canonical := State.canonical_of h (hm ▸ h.1) hc hg

theorem State.canonical_core {s : State} (h : s.canonical) (c : Nat) : Mem.wf (s.core c).ls = true := by
  rcases SMap.get_mem CoreState.init s.cores c with e | e
  · unfold State.core; rw [e]; rfl
  · exact h.2.1 _ e

theorem State.canonical_setCore {s : State} (h : s.canonical) (c : Nat) {k : CoreState} (hk : Mem.wf k.ls = true) :
    (s.setCore c k).canonical := by
  refine ⟨h.1, fun e he => ?_, h.2.2⟩
  rcases SMap.mem_put he with e1 | e1
  · rw [e1]; exact hk
  · exact h.2.1 e e1

/-- A change of a core that leaves its store. -/
theorem State.canonical_modCore {s : State} (h : s.canonical) (c : Nat) {f : CoreState → CoreState} (hf : (f (s.core c)).ls = (s.core c).ls) :
    (s.modCore c f).canonical := State.canonical_setCore h c (hf ▸ State.canonical_core h c)

theorem State.canonical_modCtx {s : State} (h : s.canonical) (c x : Nat) (f : Ctx → Ctx) : (s.modCtx c x f).canonical :=
  State.canonical_setCore h c (State.canonical_core h c)

theorem State.canonical_setGang {s : State} (h : s.canonical) (g : Nat) {v : Gang} (hv : ∀ e ∈ v.saved, Mem.wf e.2.ls = true) :
    (s.setGang g v).canonical := by
  refine ⟨h.1, h.2.1, fun e he => ?_⟩
  rcases SMap.mem_put he with e1 | e1
  · rw [e1]; exact hv
  · exact h.2.2 e e1

theorem State.canonical_gang {s : State} (h : s.canonical) (g : Nat) : ∀ e ∈ (s.gang g).saved, Mem.wf e.2.ls = true := by
  rcases SMap.get_mem ({} : Gang) s.gangs g with e | e
  · unfold State.gang; rw [e]; intro e he; cases he
  · exact h.2.2 _ e

/-- A change of a gang that leaves what is saved with it. -/
theorem State.canonical_modGang {s : State} (h : s.canonical) (g : Nat) {f : Gang → Gang} (hf : (f (s.gang g)).saved = (s.gang g).saved) :
    (s.modGang g f).canonical := State.canonical_setGang h g (hf ▸ State.canonical_gang h g)

theorem State.canonical_modGroup {s : State} (h : s.canonical) (g i : Nat) (f : Group → Group) : (s.modGroup g i f).canonical :=
  State.canonical_modGang h g rfl

theorem State.canonical_setUnr {s : State} (h : s.canonical) (c : Nat) : (s.setUnr c).canonical := by
  unfold State.setUnr
  split
  · exact State.canonical_modGroup h _ _ _
  · exact h

theorem State.canonical_foldl {β : Type} {f : State → β → State} (hf : ∀ s b, s.canonical → (f s b).canonical) (l : List β) :
    ∀ s : State, s.canonical → (l.foldl f s).canonical := by
  induction l with
  | nil => exact fun _ h => h
  | cons b l ih => exact fun s h => ih _ (hf s b h)

/-! ### Local writes -/

theorem CoreState.wf_lput {k : CoreState} (a : Nat) (bs : List Byte) (h : Mem.wf k.ls = true) : Mem.wf (k.lput a bs).ls = true := by
  induction bs generalizing k a with
  | nil => exact h
  | cons b bs ih => exact ih _ (SMap.wf_set _ b h)

theorem Mem.wf_foldl_set {β : Type} {g : β → Nat} {v : β → Byte} (l : List β) :
    ∀ m : Mem, Mem.wf m = true → Mem.wf (l.foldl (fun m e => SMap.set Mem.dflt m (g e) (v e)) m) = true := by
  induction l with
  | nil => exact fun _ h => h
  | cons b l ih => exact fun m h => ih _ (SMap.wf_set _ _ h)

theorem State.canonical_logLine {s : State} (h : s.canonical) (core line : Nat) : (s.logLine core line).canonical := by
  unfold State.logLine
  simp only
  split
  · exact h
  · split
    · refine State.canonical_setUnr (State.canonical_setCore h core ?_) core
      exact State.canonical_core h core
    · exact State.canonical_setCore h core (Mem.wf_foldl_set _ _ (State.canonical_core h core))

theorem State.canonical_keepOld {s : State} (h : s.canonical) (core a w : Nat) : (s.keepOld core a w).canonical := by
  unfold State.keepOld
  split
  · exact State.canonical_setCore h core (State.canonical_core h core)
  · exact h

/-- A local write of any agent keeps the canonical form. -/
theorem State.canonical_lputBytes {s : State} (h : s.canonical) (core a : Nat) (bs : List Byte) : (s.lputBytes core a bs).canonical := by
  unfold State.lputBytes
  simp only
  refine State.canonical_setCore (State.canonical_keepOld ?_ _ _ _) core
    (CoreState.wf_lput _ _ (State.canonical_core (State.canonical_keepOld ?_ _ _ _) core))
  all_goals
    split
    · refine State.canonical_foldl (fun s l hs => ?_) _ s h
      split
      · exact hs
      · exact State.canonical_logLine hs _ _
    · exact h

theorem State.canonical_lwrite {s : State} (h : s.canonical) (core a w v : Nat) : (s.lwrite core a w v).canonical :=
  State.canonical_lputBytes h core a _

/-- The undo log of a core is written back. -/
theorem CoreState.wf_unwind {k : CoreState} (h : Mem.wf k.ls = true) : Mem.wf k.unwind.ls = true := by
  unfold CoreState.unwind
  simp only
  have inner : ∀ (e : Nat × List Nat × List Byte) (m : Mem), Mem.wf m = true →
      Mem.wf ((e.2.1.zip (List.range 8)).foldl (fun m p => (List.range 8).foldl (fun m b =>
        SMap.set Mem.dflt m (p.1 + b) (e.2.2.getD (8 * p.2 + b) 0)) m) m) = true := by
    intro e m hm
    generalize e.2.1.zip (List.range 8) = ps
    induction ps generalizing m with
    | nil => exact hm
    | cons p ps ih => exact ih _ (Mem.wf_foldl_set _ _ hm)
  generalize k.undo.lines = ls
  generalize k.ls = m at h
  induction ls generalizing m with
  | nil => exact h
  | cons e ls ih =>
    rw [List.foldl_cons]
    refine ih _ ?_
    by_cases hx : k.undo.exempt (64 * e.1) = true
    · rw [if_pos hx]; exact h
    · rw [if_neg hx]; exact inner e m h

/-! ### Global writes -/

theorem State.canonical_post {s : State} (h : s.canonical) (chan : Nat) (ev : Instr) (o : Ev) : (s.post chan ev o).canonical :=
  State.canonical_same h rfl rfl rfl

theorem State.canonical_respond {s : State} (h : s.canonical) (core ctx id : Nat) (r : Resp) : (s.respond core ctx id r).canonical :=
  State.canonical_same h rfl rfl rfl

theorem State.canonical_respondOn {s : State} (h : s.canonical) (chan : Nat) (ev : Instr) (core ctx id : Nat) (r : Resp) :
    (s.respondOn chan ev core ctx id r).canonical :=
  State.canonical_same h rfl rfl rfl

theorem State.canonical_journal {s : State} (h : s.canonical) (g i l : Nat) : (s.journal g i l).canonical := by
  unfold State.journal
  simp only
  split
  · exact h
  · split
    · exact State.canonical_modGroup h _ _ _
    · exact State.canonical_same h rfl rfl rfl

theorem State.canonical_journalFor {s : State} (h : s.canonical) (src : Option (Nat × Nat)) (pa w : Nat) :
    (s.journalFor src pa w).canonical := by
  unfold State.journalFor
  split
  · exact h
  · split
    · exact State.canonical_foldl (fun s l hs => State.canonical_journal hs _ _ _) _ s h
    · exact h

theorem State.canonical_wake {s : State} (h : s.canonical) (w : Watch) (v : Word) : (s.wake w v).canonical := by
  obtain ⟨m, c, r, n, e⟩ := State.wake_eq s w v
  rw [e]
  exact State.canonical_same h rfl rfl rfl

theorem State.canonical_wakeLine {s : State} (h : s.canonical) (l : Nat) : (s.wakeLine l).canonical := by
  unfold State.wakeLine
  simp only
  split
  · exact h
  · exact State.canonical_foldl (fun s w hs => State.canonical_wake hs w 0) _ _ (State.canonical_same h rfl rfl rfl)

theorem State.canonical_wakeAll {s : State} (h : s.canonical) (p : Nat → Bool) : (s.wakeAll p).canonical := by
  unfold State.wakeAll
  simp only
  split
  · exact h
  · exact State.canonical_foldl (fun s w hs => State.canonical_wake hs w 0) _ _ (State.canonical_same h rfl rfl rfl)

/-- A global write keeps the canonical form. -/
theorem State.canonical_gputBytes {s : State} (h : s.canonical) (src : Option (Nat × Nat)) (pa : Nat) (bs : List Byte) :
    (s.gputBytes src pa bs).canonical := by
  unfold State.gputBytes
  refine State.canonical_foldl (fun s l hs => State.canonical_wakeLine hs l) _ _ ?_
  have hk : ((s.journalFor src pa bs.length).keepStale pa bs.length).canonical :=
    State.canonical_same (State.canonical_journalFor h src pa bs.length) rfl rfl rfl
  exact State.canonical_of hk (Mem.wf_putBytes _ _ hk.1) rfl rfl

theorem State.canonical_gwrite {s : State} (h : s.canonical) (src : Option (Nat × Nat)) (pa w v : Nat) : (s.gwrite src pa w v).canonical :=
  State.canonical_gputBytes h src pa _

theorem State.canonical_markUsed {s : State} (h : s.canonical) (write : Bool) (used : List Nat) : (s.markUsed write used).canonical := by
  unfold State.markUsed
  refine State.canonical_foldl (fun s a hs => ?_) used s h
  simp only
  generalize (if write = true then 0x300 else 0x100) = bits
  split
  · exact hs
  · exact State.canonical_gputBytes hs none a _

theorem State.canonical_flushCounts {s : State} (h : s.canonical) (e : TlbEntry) : (s.flushCounts e).canonical :=
  State.canonical_foldl (fun _ _ hs => State.canonical_gputBytes hs none _ _) _ s h

/-- Bytes that are zeroed leave the canonical form. -/
theorem State.canonical_zeroBytes {s : State} (h : s.canonical) (p : Nat → Bool) : (s.zeroBytes p).canonical := by
  unfold State.zeroBytes
  refine State.canonical_same (s := State.wakeAll _ p) (State.canonical_wakeAll ?_ p) rfl rfl rfl
  exact State.canonical_of h (Mem.wf_filter _ h.1) rfl rfl

/-- The machine right after reset has canonical memories, and so has one with a word placed from outside. -/
theorem State.canonical_empty {s : State} (hm : s.mem = []) (hc : s.cores = []) (hg : s.gangs = []) : s.canonical := by
  refine ⟨by rw [hm]; rfl, by rw [hc]; simp, by rw [hg]; simp⟩

end Sys2Proof.Machine
end

