-- ==== Sys2Proof/Laws/Traps.lean ====
section
/-! SUPPORT. Taking a trap, and fault messages: which of the three ways a trap goes, and what a message leaves alone. -/
namespace Sys2Proof.Machine

/-- A trap is met by one that waits, waits itself, or takes effect (R74, R192, R356). -/
theorem State.takeTrap_cases (s : State) (core ctx : Nat) (i : TrapInfo) :
    ((s.ctxAt core ctx).entering = true → s.takeTrap core ctx i = s.modCtx core ctx fun t =>
        { t with late := t.late ++ [{ kind := i.kind, cause := i.cause, seq := i.seq, det := i.det, addr := i.addr, groups := i.groups }] })
    ∧ ((s.ctxAt core ctx).entering = false → s.entryHeld core ctx = true →
        s.takeTrap core ctx i = s.modCtx core ctx fun t => { t with wait := .entry (some i) })
    ∧ ((s.ctxAt core ctx).entering = false → s.entryHeld core ctx = false → s.takeTrap core ctx i = s.trapNow core ctx i) := by
  unfold State.takeTrap
  refine ⟨fun h => if_pos h, fun h h' => ?_, fun h h' => ?_⟩
  · rw [h, h']; rfl
  · rw [h, h']; rfl

/-- A trap that takes effect overruns a surrender routine, escalates, or enters the handler (R305, R356, R357). -/
theorem State.trapNow_cases (s : State) (core ctx : Nat) (i : TrapInfo) :
    let u := s.modCtx core ctx Ctx.drain
    let t := u.ctxAt core ctx
    (t.rt = true → s.trapNow core ctx i = u.overrun core)
    ∧ (t.rt = false → (t.ih = true ∨ (u.core core).tvec = 0) → s.trapNow core ctx i = u.escalate core ctx i)
    ∧ (t.rt = false → t.ih = false → (u.core core).tvec ≠ 0 →
        s.trapNow core ctx i = u.enterHandler core ctx (fixedAt (s.ctxAt core ctx).pend) i) := by
  intro u t
  unfold State.trapNow
  refine ⟨fun h => if_pos h, fun h h' => ?_, fun h h' h'' => ?_⟩
  · refine (if_neg (by rw [h]; decide)).trans (if_pos ?_)
    rcases h' with h' | h'
    · rw [h']; rfl
    · rw [h']; simp
  · refine (if_neg (by rw [h]; decide)).trans (if_neg ?_)
    rw [h']; simpa using h''

/-- What a fault message leaves of the machine: of the cores, everything but a FIFO 15. -/
structure MessageOnly (s t : State) : Prop where
  core : ∀ c, ∃ q, t.core c = { s.core c with fifo15 := q }
  now : t.now = s.now
  cc : t.cc = s.cc
  cx : t.cx = s.cx
  nextId : t.nextId = s.nextId

theorem MessageOnly.of_cores {s t : State} (h : t.cores = s.cores) (hn : t.now = s.now) (hc : t.cc = s.cc)
    (hx : t.cx = s.cx) (hi : t.nextId = s.nextId) : MessageOnly s t :=
  ⟨fun c => ⟨(s.core c).fifo15, by unfold State.core; rw [h]⟩, hn, hc, hx, hi⟩

theorem MessageOnly.trans {s t u : State} (h : MessageOnly s t) (h' : MessageOnly t u) : MessageOnly s u := by
  refine ⟨fun c => ?_, h'.now.trans h.now, h'.cc.trans h.cc, h'.cx.trans h.cx, h'.nextId.trans h.nextId⟩
  obtain ⟨q, hq⟩ := h.core c
  obtain ⟨r, hr⟩ := h'.core c
  exact ⟨r, by rw [hr, hq]⟩

theorem State.markUsed_only (s : State) (w : Bool) (used : List Nat) : MessageOnly s (s.markUsed w used) := by
  unfold State.markUsed
  induction used generalizing s with
  | nil => exact MessageOnly.of_cores rfl rfl rfl rfl rfl
  | cons a l ih =>
    rw [List.foldl_cons]
    refine MessageOnly.trans ?_ (ih _)
    simp only
    generalize (if w = true then 0x300 else 0x100) = bits
    split
    · exact MessageOnly.of_cores rfl rfl rfl rfl rfl
    · have g := (State.gputBytes_only s none a (toBytes 8 (s.gread a 8 ||| bits))).1
      exact MessageOnly.of_cores g.cores g.now g.cc g.cx g.nextId

/-- A translation by an agent changes page-table entries only. -/
theorem State.xlateWalk_only {s t : State} {asid va need pa : Nat} (h : s.xlateWalk asid va need = .ok (pa, t)) : MessageOnly s t := by
  unfold State.xlateWalk State.xlateFor at h
  split at h
  · cases h
  · split at h
    · cases h
    · split at h
      · split at h
        · injection h with h; injection h with _ h; rw [← h]; exact MessageOnly.of_cores rfl rfl rfl rfl rfl
        · cases h
      · split at h
        · cases h
        · split at h
          · cases h
          · injection h with h; injection h with _ h; rw [← h]; exact State.markUsed_only _ _ _

theorem State.fifo15_only (s : State) (c : Nat) (v : Word) : MessageOnly s (s.fifo15 c v).1 := by
  unfold State.fifo15
  simp only
  split
  · exact MessageOnly.of_cores rfl rfl rfl rfl rfl
  · refine ⟨fun d => ?_, rfl, rfl, rfl, rfl⟩
    by_cases h : c = d
    · subst h; exact ⟨_, by rw [State.core_setCore, if_pos rfl]⟩
    · exact ⟨(s.core d).fifo15, by rw [State.core_setCore, if_neg h]⟩

/-- A fault message changes FIFO 15 of its supervisor core, memory and the partition's counts, and leaves every core else as it
was (R361, R362). -/
theorem State.message_only (s : State) (p : Nat) (m : Msg) : MessageOnly s (s.message p m) := by
  have lose : ∀ t : State, MessageOnly t (t.lose p) := fun t => MessageOnly.of_cores rfl rfl rfl rfl rfl
  have last : ∀ (t : State) (c : Nat) (v : Word), MessageOnly s t →
      MessageOnly s (if (t.fifo15 c v).2 = true then (t.fifo15 c v).1 else (t.fifo15 c v).1.lose p) := by
    intro t c v h
    split
    · exact h.trans (State.fifo15_only t c v)
    · exact (h.trans (State.fifo15_only t c v)).trans (lose _)
  unfold State.message
  refine last _ _ _ ?_
  split
  · exact lose s
  · rename_i pa t hr
    split at hr
    · cases hr
    · refine (State.xlateWalk_only hr).trans ?_
      have g := fun bs => (State.gputBytes_only t none pa bs).1
      exact MessageOnly.of_cores (g _).cores (g _).now (g _).cc (g _).cx (g _).nextId

end Sys2Proof.Machine
end

