-- ==== Sys2Proof/Tests/Slice0.lean ====
section
/-! SUPPORT. The tests: every check of WellFormed refuses a term, every word of the opcode table decodes as its fields say, single
steps against values of the spec, and for each statement a state and operands that meet its hypotheses. -/
namespace Sys2Proof.Tests
open Sys2Proof Sys2Proof.Machine

/-! ### Small states -/

/-- A machine whose core 0 runs the control context of gang 1, on octant 0. -/
def base : State := { State.reset.withFetchWord 32 0 with now := 100, tb := 100 }
/-- The same with changes to the current context, to core 0 or to the event's operands. -/
def onCtx (f : Ctx → Ctx) : State := base.modCur f
def onCore (f : CoreState → CoreState) : State := base.modCurCore f
def event (a b c : Nat) (w : Word := 0) (data : List Byte := []) (s : State := base) : State := { s with ev := ⟨a, b, c, w, data⟩ }
/-- Register g1, or g1 and g2, with values. -/
def g1 (v : Word) : State := onCtx fun t => { t with regs := [(1, v)] }
def g12 (v w : Word) : State := onCtx fun t => { t with regs := [(1, v), (2, w)] }
/-- A context with a prefix latched. -/
def prefixedBy (fa fb fd ro : Nat) : State :=
  onCtx fun t => { t with st := BitVec.ofNat 64 (0x300 + 2 ^ 28 * fa + 2 ^ 22 * fb + 2 ^ 18 * fd + 2 ^ 16 * ro) }
/-- Core 0 at privilege level 0. -/
def userLevel (s : State) : State := { s with parts := [(0, { Part.root with sup := 8 })] }
/-- The result of a step, or the state before it. -/
def after (r : Res) (s : State) : State := match r with | .next t => t | _ => s
/-- What q1 reads once every fixed-latency result of the current context has arrived. -/
def result (i : Instr) (s : State) : Word := ((after (exec i s) s).cur.settle 1000).q 1

/-! ### Ill-formed terms -/

/-- Reserved bits: vb of an immediate-stride vld and vst, va of a scalar vidx (R177, R179). -/
theorem test_bits_refused : (Instr.vld 0 1 2 3 0 0).bitsOk = false ∧ (Instr.vst 0 1 2 3 0 0).bitsOk = false
    ∧ (Instr.vidx 0 1 2 1 0).bitsOk = false ∧ (Instr.vld 0 1 2 3 0 0).WellFormed = false := by decide

/-- Reserved values: conditions, orders, scopes, classes and numbers that the tables do not list. -/
theorem test_values_refused :
    ∀ i ∈ [Instr.cmp 0 1 2 3 6, .br 0 1 6 0, .fcmp 0 1 2 3 5, .ldgAcq 0 1 2 5, .stgRel 0 1 2 5, .lsr 0 1 2 0 7, .waitc 0 1 5,
      .aadd 0 1 2 0 1 0, .acas 0 1 2 1 0 1, .aswp 0 1 2 1 5 0, .red 0 0 2 6 0 0, .red 0 0 2 0 1 0, .vcmp 0 1 2 3 0 7,
      .vred 0 1 2 0 6, .vscan 0 1 2 0 6, .vld 0 1 2 0 0 7, .vst 0 1 2 3 1 1, .mma 0 1 2 3 1 0 0, .mma 0 0 2 3 0 0 1,
      .mmr 0 3 2 3 1, .mzero 0 5 1, .mrd 0 1 2 7 1, .mwr 0 1 2 1 1, .fpush 0 1 2 4, .fpush 0 1 2 15, .fpop 0 1 6,
      .fpeek 0 1 14, .fstat 0 1 4, .ulog 0 1 2 3, .facq 0 1 2 3 0, .fans 0 3, .gdone 0 1 2 3, .srr 0 1 0x007, .srw 0 1 0x206,
      .pfx 0 0 0 15 0, .pfx 0 0 0 0 3], i.valuesOk = false ∧ i.WellFormed = false := by decide

/-- A queue, identity or reserved code as a destination (R30). -/
theorem test_codes_refused : ∀ i ∈ [Instr.add 0 0x20 1 2, .mov 0 0x30 1, .ld 0 0x2F 1 0, .srr 0 0x3E 0, .kprobe 0 1 2 0x20],
    i.codesOk = false ∧ i.WellFormed = false := by decide

/-- A format code that R35 does not list. -/
theorem test_formats_refused : (Instr.pfx 0 0x09 0 0 0).formatsOk = false ∧ (Instr.pfx 0 0 0x21 0 0).formatsOk = false
    ∧ (Instr.pfx 0 0x39 0 0 0).WellFormed = false := by decide

/-! ### Words -/

theorem test_decode_01 :
    decodeTableWord 32 0x400DA0F0 = some (.add 2 13 40 15)
    ∧ decodeTableWord 32 0x60144751 = some (.sub 3 20 17 53)
    ∧ decodeTableWord 32 0x801BD6D2 = some (.and 4 27 53 45)
    ∧ decodeTableWord 32 0xA004ADE3 = some (.or 5 4 43 30)
    ∧ decodeTableWord 32 0xC00B0784 = some (.xor 6 11 1 56)
    ∧ decodeTableWord 32 0xE012E225 = some (.andn 7 18 56 34)
    ∧ decodeTableWord 32 0x2019B8E6 = some (.shl 1 25 46 14)
    ∧ decodeTableWord 32 0x400243B7 = some (.shr 2 2 16 59)
    ∧ decodeTableWord 32 0x6009EE58 = some (.sar 3 9 59 37)
    ∧ decodeTableWord 32 0x80108DD9 = some (.rot 4 16 35 29)
    ∧ decodeTableWord 32 0xA0177F0A = some (.min 5 23 31 48)
    ∧ decodeTableWord 32 0xC01EC28B = some (.minc 6 30 48 40)
    ∧ decodeTableWord 32 0xE00798DC = some (.max 7 7 38 13)
    ∧ decodeTableWord 32 0x200E3F3D = some (.maxc 1 14 15 51)
    ∧ decodeTableWord 32 0x4015CEBE = some (.sel 2 21 51 43)
    ∧ decodeTableWord 32 0x605CA5C0 = some (.mul 3 28 41 28) := by decide

theorem test_decode_02 :
    decodeTableWord 32 0x80457B61 = some (.mulh 4 5 30 54)
    ∧ decodeTableWord 32 0xA04CDAE2 = some (.mulhc 5 12 54 46)
    ∧ decodeTableWord 32 0xC053B0C3 = some (.div 6 19 44 12)
    ∧ decodeTableWord 32 0xE05A3B94 = some (.divc 7 26 14 57)
    ∧ decodeTableWord 32 0x2043E635 = some (.rem 1 3 57 35)
    ∧ decodeTableWord 32 0x404A85B6 = some (.remc 2 10 33 27)
    ∧ decodeTableWord 32 0x60517407 = some (.clz 3 17 29)
    ∧ decodeTableWord 32 0x8058F008 = some (.ctz 4 24 60)
    ∧ decodeTableWord 32 0xA0419009 = some (.popc 5 1 36)
    ∧ decodeTableWord 32 0xC048340A = some (.bswap 6 8 13)
    ∧ decodeTableWord 32 0xE04FC40B = some (.mov 7 15 49)
    ∧ decodeTableWord 32 0x20969DA3 = some (.cmp 1 22 39 26 3)
    ∧ decodeTableWord 32 0x411D726D = some (.addi 2 29 28 621)
    ∧ decodeTableWord 32 0x6146D2B7 = some (.andi 3 6 52 695)
    ∧ decodeTableWord 32 0x818DAB01 = some (.ori 4 13 42 769)
    ∧ decodeTableWord 32 0xA1D4334B = some (.xori 5 20 12 843) := by decide

theorem test_decode_03 :
    decodeTableWord 32 0xC21BDC09 = some (.shli 6 27 55 9)
    ∧ decodeTableWord 32 0xE244B414 = some (.shri 7 4 45 20)
    ∧ decodeTableWord 32 0x228B6C1F = some (.sari 1 11 27 31)
    ∧ decodeTableWord 32 0x42D21C81 = some (.li 2 18 7297)
    ∧ decodeTableWord 32 0x63192F01 = some (.lsh 3 25 12033)
    ∧ decodeTableWord 32 0x842E0D07 = some (.br 4 46 3 263)
    ∧ decodeTableWord 32 0xA44DF551 = some (.bcEq 5 13 61 337)
    ∧ decodeTableWord 32 0xC4BD959B = some (.bcNe 6 61 37 411)
    ∧ decodeTableWord 32 0xE4E369E5 = some (.bcLt 7 35 26 485)
    ∧ decodeTableWord 32 0x251CCA2F = some (.bcLtc 1 28 50 559)
    ∧ decodeTableWord 32 0x4572A279 = some (.bcLe 2 50 40 633)
    ∧ decodeTableWord 32 0x65A62AC3 = some (.bcLec 3 38 10 707)
    ∧ decodeTableWord 32 0x85F0C001 = some (.j 4 3194881)
    ∧ decodeTableWord 32 0xA6356001 = some (.jal 5 3497985)
    ∧ decodeTableWord 32 0xC6456400 = some (.jr 6 5 25)
    ∧ decodeTableWord 32 0xE680FA81 = some (.stall 7 64129) := by decide

theorem test_decode_04 :
    decodeTableWord 32 0x26D3B870 = some (.fadd 1 19 46 7)
    ∧ decodeTableWord 32 0x46DA27B1 = some (.fsub 2 26 9 59)
    ∧ decodeTableWord 32 0x66C3EE52 = some (.fmul 3 3 59 37)
    ∧ decodeTableWord 32 0x86CA8D63 = some (.fdiv 4 10 35 22)
    ∧ decodeTableWord 32 0xA6D16004 = some (.fsqrt 5 17 24)
    ∧ decodeTableWord 32 0xC6D8C285 = some (.fmin 6 24 48 40)
    ∧ decodeTableWord 32 0xE6C19866 = some (.fmax 7 1 38 6)
    ∧ decodeTableWord 32 0x26C82007 = some (.fneg 1 8 8)
    ∧ decodeTableWord 32 0x46CFCC08 = some (.fclass 2 15 51)
    ∧ decodeTableWord 32 0x66D6A559 = some (.fma 3 22 41 21)
    ∧ decodeTableWord 32 0x871D5F64 = some (.fcmp 4 29 23 54 4)
    ∧ decodeTableWord 32 0xA746D800 = some (.cvt 5 6 54)
    ∧ decodeTableWord 32 0xC74DB051 = some (.bxenc 6 13 44 5)
    ∧ decodeTableWord 32 0xE7541F92 = some (.bxdec 7 20 7 57)
    ∧ decodeTableWord 32 0x275BE403 = some (.bxexp 1 27 57)
    ∧ decodeTableWord 32 0x4804848B = some (.ld 2 4 33 139) := by decide

theorem test_decode_05 :
    decodeTableWord 32 0x685258D5 = some (.st 3 18 22 213)
    ∧ decodeTableWord 32 0x8892F260 = some (.ldx 4 18 60 38)
    ∧ decodeTableWord 32 0xA8E89040 = some (.stx 5 40 36 4)
    ∧ decodeTableWord 32 0xC90219B3 = some (.ldg 6 2 6 435)
    ∧ decodeTableWord 32 0xE94FC5FD = some (.stg 7 15 49 509)
    ∧ decodeTableWord 32 0x29909C08 = some (.ldgAcq 1 16 39 4)
    ∧ decodeTableWord 32 0x49A55446 = some (.stgRel 2 37 21 3)
    ∧ decodeTableWord 32 0x69D72015 = some (.lsr 3 23 8 2 5)
    ∧ decodeTableWord 32 0x89C0D040 = some (.pref 4 52)
    ∧ decodeTableWord 32 0xA9C05C98 = some (.waitc 5 23 3)
    ∧ decodeTableWord 32 0xC9E2DCC0 = some (.waitv 6 34 55)
    ∧ decodeTableWord 32 0xE9C0DD00 = some (.wbk 7 55)
    ∧ decodeTableWord 32 0x29C5517A = some (.ldgx 1 5 20 58)
    ∧ decodeTableWord 32 0x4A0CE801 = some (.aadd 2 12 58 0 0 1)
    ∧ decodeTableWord 32 0x6A138874 = some (.aand 3 19 34 3 2 0)
    ∧ decodeTableWord 32 0x8A1A10B4 = some (.aor 4 26 4 3 2 0) := by decide

theorem test_decode_06 :
    decodeTableWord 32 0xAA03F4F4 = some (.axor 5 3 61 3 2 0)
    ∧ decodeTableWord 32 0xCA0A9534 = some (.amin 6 10 37 3 2 0)
    ∧ decodeTableWord 32 0xEA114D74 = some (.amax 7 17 19 3 2 0)
    ∧ decodeTableWord 32 0x2A18C9B4 = some (.aswp 1 24 50 3 2 0)
    ∧ decodeTableWord 32 0x4A01A1C1 = some (.acas 2 1 40 0 0 1)
    ∧ decodeTableWord 32 0x6A080E34 = some (.aincw 3 8 3 3 2 0)
    ∧ decodeTableWord 32 0x8A0FD674 = some (.abadd 4 15 53 3 2 0)
    ∧ decodeTableWord 32 0xAA56AD66 = some (.red 5 22 43 5 2 3)
    ∧ decodeTableWord 32 0xCA9D4800 = some (.barm 6 29 18)
    ∧ decodeTableWord 32 0xEA86E059 = some (.bwait 7 6 56 25)
    ∧ decodeTableWord 32 0x2C0DB9F8 = some (.vadd 1 13 46 31 1)
    ∧ decodeTableWord 32 0x4C540BB8 = some (.vsub 2 20 2 59 1)
    ∧ decodeTableWord 32 0x6C9BEE58 = some (.vmul 3 27 59 37 1)
    ∧ decodeTableWord 32 0x8CC48CF8 = some (.vfma 4 4 35 15 1)
    ∧ decodeTableWord 32 0xAD0B4708 = some (.vmin 5 11 17 48 1)
    ∧ decodeTableWord 32 0xCD52C288 = some (.vmax 6 18 48 40 1) := by decide

theorem test_decode_07 :
    decodeTableWord 32 0xED999800 = some (.vabs 7 25 38)
    ∧ decodeTableWord 32 0x2DC20400 = some (.vneg 1 2 1)
    ∧ decodeTableWord 32 0x4E09CEB8 = some (.vand 2 9 51 43 1)
    ∧ decodeTableWord 32 0x6E50A4E8 = some (.vor 3 16 41 14 1)
    ∧ decodeTableWord 32 0x8E974368 = some (.vxor 4 23 16 54 1)
    ∧ decodeTableWord 32 0xAEDEDAE8 = some (.vshl 5 30 54 46 1)
    ∧ decodeTableWord 32 0xCF07B1D8 = some (.vshr 6 7 44 29 1)
    ∧ decodeTableWord 32 0xEF4E7F98 = some (.vsar 7 14 31 57 1)
    ∧ decodeTableWord 32 0x2F95E63D = some (.vcmp 1 21 57 35 1 5)
    ∧ decodeTableWord 32 0x4FDC84D8 = some (.vsel 2 28 33 13 1)
    ∧ decodeTableWord 32 0x70053C00 = some (.vcvt 3 5 15)
    ∧ decodeTableWord 32 0x904CF268 = some (.vperm 4 12 60 38 1)
    ∧ decodeTableWord 32 0xB0930248 = some (.vbcast 5 19 36)
    ∧ decodeTableWord 32 0xD0DA7B14 = some (.vred 6 26 30 49 4)
    ∧ decodeTableWord 32 0xF103C695 = some (.vscan 7 3 49 41 5)
    ∧ decodeTableWord 32 0x314A9C06 = some (.vld 1 10 39 0 0 6) := by decide

theorem test_decode_08 :
    decodeTableWord 32 0x51913AB8 = some (.vst 2 17 14 43 1 0)
    ∧ decodeTableWord 32 0x71D8D2C8 = some (.vldx 3 24 52 44)
    ∧ decodeTableWord 32 0x9201A9B8 = some (.vstx 4 1 42 27)
    ∧ decodeTableWord 32 0xB24001DE = some (.vidx 5 0 29 1 6)
    ∧ decodeTableWord 32 0xD28FDC00 = some (.vsetvl 6 15 55)
    ∧ decodeTableWord 32 0xF2D6B4B8 = some (.vmovsWrite 7 22 45 11)
    ∧ decodeTableWord 32 0x32DD37A9 = some (.vmovsRead 1 29 13 58)
    ∧ decodeTableWord 32 0x5306E800 = some (.vrcp 2 6 58)
    ∧ decodeTableWord 32 0x734D8800 = some (.vrsqrt 3 13 34)
    ∧ decodeTableWord 32 0x93947000 = some (.vexp2 4 20 28)
    ∧ decodeTableWord 32 0xB3DBF670 = some (.vdot4 5 27 61 39)
    ∧ decodeTableWord 32 0xD40694AE = some (.mma 6 6 37 10 1 1 1)
    ∧ decodeTableWord 32 0xF4443328 = some (.mmr 7 4 12 50 1)
    ∧ decodeTableWord 32 0x3492000E = some (.mtile 1 18 1 1 1)
    ∧ decodeTableWord 32 0x54C00014 = some (.mzero 2 2 1)
    ∧ decodeTableWord 32 0x74C23474 = some (.mrd 3 2 13 6 1) := by decide

theorem test_decode_09 :
    decodeTableWord 32 0x94C960A4 = some (.mwr 4 9 24 4 1)
    ∧ decodeTableWord 32 0xB500D400 = some (.msk 5 53)
    ∧ decodeTableWord 32 0xD5570000 = some (.mcommit 6 23)
    ∧ decodeTableWord 32 0xF5403440 = some (.mwaitb 7 13)
    ∧ decodeTableWord 32 0x3547B880 = some (.mstat 1 7 46)
    ∧ decodeTableWord 32 0x560E6980 = some (.kprobe 2 14 26 24)
    ∧ decodeTableWord 32 0x7655EC10 = some (.kins 3 21 59 1)
    ∧ decodeTableWord 32 0x969C8C80 = some (.kups 4 28 35 8)
    ∧ decodeTableWord 32 0xB6C528F0 = some (.krem 5 5 10 15)
    ∧ decodeTableWord 32 0xD70CC028 = some (.knew 6 12 48 40)
    ∧ decodeTableWord 32 0xF7139840 = some (.kdel 7 19 38)
    ∧ decodeTableWord 32 0x371A64B3 = some (.kpub 1 26 25 51)
    ∧ decodeTableWord 32 0x5703CCEB = some (.kcfg 2 3 51 43)
    ∧ decodeTableWord 32 0x774AA407 = some (.kiter 3 10 41 7)
    ∧ decodeTableWord 32 0x97512476 = some (.kstat 4 17 9 54)
    ∧ decodeTableWord 32 0xB818D803 = some (.fpush 5 24 54 3) := by decide

theorem test_decode_10 :
    decodeTableWord 32 0xD8010045 = some (.fpop 6 1 5)
    ∧ decodeTableWord 32 0xF8080082 = some (.fpeek 7 8 2)
    ∧ decodeTableWord 32 0x380F00CF = some (.fstat 1 15 15)
    ∧ decodeTableWord 32 0x58568405 = some (.pland 2 22 33 5)
    ∧ decodeTableWord 32 0x785D0044 = some (.pcnt 3 29 4)
    ∧ decodeTableWord 32 0x9846F087 = some (.pwait 4 6 60 7)
    ∧ decodeTableWord 32 0xB84D00C6 = some (.pcancel 5 13 6)
    ∧ decodeTableWord 32 0xD9145C03 = some (.syncC 6 20 23 3)
    ∧ decodeTableWord 32 0xF91B0006 = some (.syncX 7 27 2)
    ∧ decodeTableWord 32 0x3940C68F = some (.xmit 1 49 655)
    ∧ decodeTableWord 32 0x59809723 = some (.xsel 2 37 6 35)
    ∧ decodeTableWord 32 0x79D2D000 = some (.ssrd 3 18 52)
    ∧ decodeTableWord 32 0x99D9A842 = some (.ulog 4 25 42 2)
    ∧ decodeTableWord 32 0xBA025A80 = some (.facq 5 2 22 2 1)
    ∧ decodeTableWord 32 0xDA49DC00 = some (.fsur 6 9 55)
    ∧ decodeTableWord 32 0xFA400042 = some (.fans 7 2) := by decide

theorem test_decode_11 :
    decodeTableWord 32 0x3A971800 = some (.frel 1 23 6)
    ∧ decodeTableWord 32 0x5A9EE840 = some (.frecall 2 30 58)
    ∧ decodeTableWord 32 0x7B078813 = some (.cwr 3 7 34 19)
    ∧ decodeTableWord 32 0x9B0E547D = some (.cclr 4 14 21 61)
    ∧ decodeTableWord 32 0xBB15F4A7 = some (.clrn 5 21 61 39)
    ∧ decodeTableWord 32 0xDB5C9403 = some (.cdec 6 28 37 3)
    ∧ decodeTableWord 32 0xFB451472 = some (.cback 7 5 5 50)
    ∧ decodeTableWord 32 0x3B4CC8AA = some (.cprop 1 12 50 42)
    ∧ decodeTableWord 32 0x5B93A012 = some (.ctrail 2 19 40 18)
    ∧ decodeTableWord 32 0x7B9A5075 = some (.cval 3 26 20 53)
    ∧ decodeTableWord 32 0x9B83D4AD = some (.cconf 4 3 53 45)
    ∧ decodeTableWord 32 0xBC0AAC00 = some (.launch 5 10 43)
    ∧ decodeTableWord 32 0xDC51100D = some (.hstart 6 17 4 13)
    ∧ decodeTableWord 32 0xFC800000 = some (.hexit 7)
    ∧ decodeTableWord 32 0x3C80E040 = some (.hjoin 1 56)
    ∧ decodeTableWord 32 0x5CC84E00 = some (.gdone 2 8 19 2) := by decide

theorem test_decode_12 :
    decodeTableWord 32 0x7D0FEE50 = some (.schsel 3 15 59 37)
    ∧ decodeTableWord 32 0x9E000027 = some (.trap 4 39)
    ∧ decodeTableWord 32 0xBE000040 = some (.eret 5)
    ∧ decodeTableWord 32 0xDE06C080 = some (.halt 6 6 48)
    ∧ decodeTableWord 32 0xFE0000C0 = some (.yield 7)
    ∧ decodeTableWord 32 0x3E54201B = some (.srr 1 20 539)
    ∧ decodeTableWord 32 0x5E6F0447 = some (.srw 2 47 71)
    ∧ decodeTableWord 32 0x7E84A41F = some (.wrd 3 4 41 31)
    ∧ decodeTableWord 32 0x9E960876 = some (.wwr 4 22 2 54)
    ∧ decodeTableWord 32 0xBE92D8AE = some (.wres 5 18 54 46)
    ∧ decodeTableWord 32 0xDED9B000 = some (.gen 6 25 44)
    ∧ decodeTableWord 32 0xFEC24479 = some (.tlbi 7 2 17 57)
    ∧ decodeTableWord 32 0x3F09E400 = some (.scrub 1 9 57)
    ∧ decodeTableWord 32 0x5FA791EE = some (.rpt 2 4 15 2 247)
    ∧ decodeTableWord 32 0x7FE54BA0 = some (.pfx 3 37 18 14 2) := by decide

/-- The words that the spec writes out, chapter by chapter (02, 05 to 09). -/
theorem test_words_of_the_chapters :
    decode 0x40058140 = .instr (.add 2 5 0x20 0x14) ∧ decode 0x04C403FD = .instr (.bcLt 0 4 0 0x3FD)
    ∧ decode 0x0CC3C898 = .instr (.vfma 0 3 50 9 1) ∧ decode 0x07492141 = .instr (.bxenc 0 9 8 0x14)
    ∧ decode 0x09871844 = .instr (.stgRel 0 7 6 2) ∧ decode 0x09C518C0 = .instr (.waitv 0 5 6)
    ∧ decode 0x0A491824 = .instr (.red 0 9 6 0 2 2) ∧ decode 0x0A851844 = .instr (.bwait 0 5 6 4)
    ∧ decode 0x12C61009 = .instr (.vmovsRead 0 6 4 0) ∧ decode 0x0F850425 = .instr (.vcmp 0 5 1 2 0 5)
    ∧ decode 0x140428B6 = .instr (.mma 0 4 10 11 0 1 1) ∧ decode 0x14CC2494 = .instr (.mwr 0 12 9 2 1) := by decide

/-- The words of the later chapters (10 to 17). -/
theorem test_words_of_the_units :
    decode 0x16085090 = .instr (.kprobe 0 8 0x14 9) ∧ decode 0x170350C9 = .instr (.kcfg 0 3 0x14 9)
    ∧ decode 0x1806004F = .instr (.fpop 0 6 15) ∧ decode 0x187F8080 = .instr (.pwait 0 0x3F 0x20 0)
    ∧ decode 0x19805580 = .instr (.xsel 0 0x15 3 0) ∧ decode 0x19FF0041 = .instr (.ulog 0 0x3F 0 1)
    ∧ decode 0x1A031480 = .instr (.facq 0 3 5 0 1) ∧ decode 0x1B882849 = .instr (.cval 0 8 10 9)
    ∧ decode 0x1CC41500 = .instr (.gdone 0 4 5 1) ∧ decode 0x1E411040 = .instr (.srw 0 1 0x100)
    ∧ decode 0x1E850C86 = .instr (.wres 0 5 3 6) ∧ decode 0x1F021000 = .instr (.scrub 0 2 4) := by decide

/-- Reserved majors, unassigned operations, reserved bits and values are refused by cause, the lowest first (R51). -/
theorem test_illegal_words :
    decode 0x00C00000 = .illegal .reservedMajor ∧ decode 0xFFFFFFFF = .illegal .reservedBit
    ∧ decode 0x14800040 = .illegal .reservedBit ∧ decode 0x14800002 = .instr (.mtile 0 0 0 0 1)
    ∧ decode 0x0000000F = .illegal .unassignedSub ∧ decode 0x00200000 = .illegal .operandCode
    ∧ decode 0x04001800 = .illegal .reservedValue ∧ decode 0x1FC90000 = .illegal .formatCode := by decide

/-! ### Single steps: the values are worked out by hand from the rules cited -/

/-- R81, R82: sums wrap, shifts count modulo 64, the corners of division. -/
theorem test_integer_corners :
    result (.add 0 3 1 2) (g12 0xFFFFFFFFFFFFFFFF 1) = 0
    ∧ result (.sub 0 3 1 2) (g12 0 1) = 0xFFFFFFFFFFFFFFFF
    ∧ result (.shl 0 3 1 2) (g12 1 65) = 2
    ∧ result (.sar 0 3 1 2) (g12 0x8000000000000000 63) = 0xFFFFFFFFFFFFFFFF
    ∧ result (.rot 0 3 1 2) (g12 0x8000000000000001 1) = 3
    ∧ result (.min 0 3 1 2) (g12 0xFFFFFFFFFFFFFFFF 1) = 0xFFFFFFFFFFFFFFFF
    ∧ result (.minc 0 3 1 2) (g12 0xFFFFFFFFFFFFFFFF 1) = 1
    ∧ result (.mulh 0 3 1 2) (g12 0xFFFFFFFFFFFFFFFF 1) = 0xFFFFFFFFFFFFFFFF
    ∧ result (.mulhc 0 3 1 2) (g12 0xFFFFFFFFFFFFFFFF 2) = 1
    ∧ result (.div 0 3 1 2) (g12 7 0) = 0xFFFFFFFFFFFFFFFF
    ∧ result (.rem 0 3 1 2) (g12 7 0) = 7
    ∧ result (.div 0 3 1 2) (g12 0x8000000000000000 0xFFFFFFFFFFFFFFFF) = 0x8000000000000000
    ∧ result (.div 0 3 1 2) (g12 0xFFFFFFFFFFFFFFF9 2) = 0xFFFFFFFFFFFFFFFD
    ∧ result (.rem 0 3 1 2) (g12 0xFFFFFFFFFFFFFFF9 2) = 0xFFFFFFFFFFFFFFFF := by decide

theorem test_integer_unary :
    result (.clz 0 3 1) (g1 1) = 63 ∧ result (.clz 0 3 1) (g1 0) = 64 ∧ result (.ctz 0 3 1) (g1 8) = 3
    ∧ result (.popc 0 3 1) (g1 0xF0) = 4 ∧ result (.bswap 0 3 1) (g1 0x0102030405060708) = 0x0807060504030201
    ∧ result (.cmp 0 3 1 2 2) (g12 0xFFFFFFFFFFFFFFFF 0) = 1 ∧ result (.cmp 0 3 1 2 3) (g12 0xFFFFFFFFFFFFFFFF 0) = 0 := by decide

theorem test_immediates :
    result (.addi 0 3 1 0x3FF) (g1 0) = 0xFFFFFFFFFFFFFFFF ∧ result (.li 0 3 0x8000) base = 0xFFFFFFFFFFFF8000
    ∧ result (.lsh 0 1 0xBEEF) (g1 0xDEAD) = 0xDEADBEEF ∧ result (.shri 0 3 1 63) (g1 0x8000000000000000) = 1 := by decide

/-- R70, R72: a result is pushed; before its cycle q1 reads what its slot held. -/
theorem test_stale_queue :
    ((after (exec (.li 0 3 7) base) base).cur.settle 100).q 1 = 0 ∧ ((after (exec (.li 0 3 7) base) base).cur.settle 101).q 1 = 7 := by
  decide

/-- R84 to R86: a taken branch, a branch not taken, and the offset from the branch's own address. -/
theorem test_branches :
    (after (exec (.bcLt 0 1 2 0x3FD) (g12 0xFFFFFFFFFFFFFFFF 0)) base).cur.pc = 0xFFF4
    ∧ (after (exec (.bcLtc 0 1 2 0x3FD) (g12 0xFFFFFFFFFFFFFFFF 0)) base).cur.pc = 0x10004
    ∧ (after (exec (.j 0 3) base) base).cur.pc = 0x1000C
    ∧ (after (exec (.jr 0 3 1) (g1 0x20000)) base).cur.pc = 0x20000 := by decide

/-- R87, R357: a misaligned target traps; without a trap vector the context halts with the cause. -/
theorem test_misaligned_target :
    let t := (after (exec (.jr 0 3 1) (g1 0x20002)) base).cur
    t.status = .halted ∧ t.haltCause = 91 ∧ t.pc = 0x10000 ∧ t.trec = 91 ∧ t.taddr = 0x20002 := by decide

/-- R108, R93: sums and conversions in f32, and the flags of a division by zero. -/
theorem test_float :
    result (.fadd 0 3 1 2) (g12 0x3F800000 0x3F800000) = 0x40000000
    ∧ result (.fmul 0 3 1 2) (g12 0x40400000 0xC0000000) = 0xC0C00000
    ∧ result (.cvt 0 3 1) (g1 3) = 0x40400000
    ∧ result (.fdiv 0 3 1 2) (g12 0x3F800000 0) = 0x7F800000
    ∧ bit ((after (exec (.fdiv 0 3 1 2) (g12 0x3F800000 0)) base).cur.settle 1000).st 3 = true := by decide

/-- R113, R130: a store writes its low bytes, lowest first, and a load extends what it finds. -/
theorem test_local_store :
    let s := after (exec (.st 0 1 2 0) (g12 0x1122334455667788 0x100)) base
    (s.core 0).lbyte 0x100 = 0x88 ∧ (s.core 0).lbyte 0x107 = 0x11 ∧ (s.core 0).lbyte 0x108 = 0 := by decide

theorem test_local_faults :
    (after (exec (.ld 0 3 1 0) (g1 0x101)) base).cur.haltCause = 1
    ∧ (after (exec (.ld 0 3 1 0) (g1 0x60000)) base).cur.haltCause = 2
    ∧ (after (exec (.ld 0 3 1 0) (g1 0x5FFF8)) base).cur.haltCause = 0 := by decide

/-- R145: a local atomic answers the old word and leaves the new one. -/
theorem test_local_atomic :
    let s := onCore fun k => { k with ls := [(0x100, 5)], ctxs := [(0, { status := .running, pc := 0x10000, regs := [(1, 0x100)], slots := [(0, 3)] })] }
    result (.aadd 0 3 1 0 0 1) s = 5 ∧ ((after (exec (.aadd 0 3 1 0 0 1) s) s).core 0).lbyte 0x100 = 8 := by decide

/-- R161: VL is rounded up to a multiple of 16, from 16 to 128. -/
theorem test_vsetvl :
    result (.vsetvl 0 3 1) (g1 17) = 32 ∧ result (.vsetvl 0 3 1) (g1 0) = 16 ∧ result (.vsetvl 0 3 1) (g1 1000) = 128 := by decide

set_option maxRecDepth 20000 in
/-- R354 to R356: a trap saves the pc behind it and goes to the vector. -/
theorem test_trap :
    let s := onCore fun k => { k with tvec := 0x4000, tfa := 0x200 }
    let t := after (exec (.trap 0 7) s) s
    t.cur.ih = true ∧ t.cur.pc = 0x4000 ∧ t.cur.trec = 0x507 ∧ (t.core 0).lbyte (0x200 + 8 * 49) = 4
      ∧ (t.core 0).lbyte (0x202 + 8 * 49) = 1 ∧ (t.core 0).lbyte (0x200 + 8 * 50) = 7 := by decide

/-- R371: eret outside a handler, and a system register above its level. -/
theorem test_privilege :
    (after (exec (.eret 0) base) base).cur.haltCause = 95
    ∧ (after (exec (.srr 0 3 0x301) (userLevel base)) base).cur.haltCause = 92
    ∧ (after (exec (.srw 0 1 0x103) base) base).cur.haltCause = 92
    ∧ (after (exec (.srw 0 1 0x100) (g1 2)) base).cur.haltCause = 93 := by decide

/-- R51: an illegal word halts its context with its cause. -/
theorem test_illegal_halt :
    let t := after (exec .illegalWordHalt (event 1 0 0 0xC00000)) base
    t.cur.status = .halted ∧ t.cur.haltCause = 1 ∧ t.cur.haltWord = 0xC00000 ∧ t.cur.hk = 1 := by decide

/-- The whole step: the word at the pc is fetched, decoded and run. -/
theorem test_step : (after (step (State.reset.withFetchWord 32 0x02C18000)) base).cur.pc = 0x10004
    ∧ ((after (step (State.reset.withFetchWord 32 0x02C18000)) base).cur.settle 1000).q 1 = 0xFFFFFFFFFFFF8000 := by decide

/-- R327: a decision opens a level and sets its variable. -/
theorem test_decision :
    let s : State := { event 7 0 0 with
      units := [(4096, { gang := some 1 })], clauseReqs := [(7, { id := 7, core := 0, ctx := 0, m := 0, op := 3, b := 0x405, gang := 1 })] }
    let a : ClauseArr := SMap.get {} (after (exec .clauseOperationAtArray s) s).arrays 0
    a.cl = 1 ∧ a.vals = [(5, (true, 1, 0))] ∧ a.trail = [⟨5, true, 1, 0xFFF⟩] := by decide

/-! ### Witnesses: states and operands that meet the hypotheses of the statements -/

/-- The page of core 0's program is the only translation it holds, for reads and fetches; here also writes. -/
def writable : State := onCore fun k => { k with tlb := [⟨1, 0, placedVa, 65536, placedPa + 0x33F, 0, []⟩] }
/-- The same with an address in g1 and a value in g2. -/
def writableAt (v w : Word) : State := writable.modCur fun t => { t with regs := [(1, v), (2, w)] }

theorem regions_none {k : CoreState} (h : k.regions = []) : regionsAligned k.regions := fun _ => by rw [h]; rfl

theorem witness_IntegerOperations :
    base.clear [1, 2] ∧ base.clear [1, 2, 0x20] ∧ base.clear [1] ∧ base.clear [] ∧ base.clear [0x20]
    ∧ (∀ c : BitVec 4, c.toNat ≤ 5 → c.toNat = 0 ∨ c.toNat = 1 ∨ c.toNat = 2 ∨ c.toNat = 3 ∨ c.toNat = 4 ∨ c.toNat = 5)
    ∧ base.curCore.divAt ≤ base.now
    ∧ (onCore fun k => { k with divAt := 101 }).clear [1, 2] ∧ (onCore fun k => { k with divAt := 101 }).curCore.divAt = 101 := by
  unfold State.clear; decide

/-- clz and ctz: the counts of 0 and of all ones. -/
theorem witness_IntegerOperations_counts (i : Nat) :
    ((0 : Word).getMsbD i = true → 64 ≤ i) ∧ ((0 : Word).getLsbD i = true → 64 ≤ i)
    ∧ ((0xFFFFFFFFFFFFFFFF : Word).getMsbD i = true → 0 ≤ i) ∧ (0xFFFFFFFFFFFFFFFF : Word).getMsbD 0 = true
    ∧ (0xFFFFFFFFFFFFFFFF : Word).getLsbD 0 = true :=
  ⟨fun h => by simp at h, fun h => by simp at h, fun _ => i.zero_le, by decide, by decide⟩

/-- bswap: the reversed bytes. -/
theorem witness_IntegerOperations_bytes : ∀ i, i < 8 →
    (0x0807060504030201 : Word).extractLsb' (8 * i) 8 = (0x0102030405060708 : Word).extractLsb' (56 - 8 * i) 8 := by decide

theorem witness_FloatOperations :
    base.clearPfx arithAccepts [1, 2] ∧ (prefixedBy 0x12 0x12 0xB 0).clearPfx arithAccepts [1, 2, 0x20]
    ∧ base.clearPfx sqrtAccepts [1] ∧ base.clearPfx quietAccepts [1] ∧ base.clearPfx fcmpAccepts [1, 2]
    ∧ base.clearPfx cvtAccepts [1] ∧ base.clearPfx bxencAccepts [1, 2] ∧ base.clearPfx bxdecAccepts [1, 2]
    ∧ (prefixedBy 0x12 0 0x3 2).clearPfx cvtAccepts [1] ∧ (prefixedBy 0x12 0x24 0 0).clearPfx bxencAccepts [1, 2]
    ∧ base.curCore.rootAt ≤ base.now ∧ base.now < (onCore fun k => { k with rootAt := 101 }).curCore.rootAt := by
  unfold State.clearPfx; decide

/-- Numbers of both signs, both zeros, both infinities and both kinds of NaN of f32; one of each other format. -/
theorem witness_FloatValues :
    (f32.read 0x40400000).Is false 3 ∧ (f32.read 0xBF000000).Is true (-1 / 2) ∧ (f32.read 0).Is false 0 ∧ (f32.read 0x80000000).Is true 0
    ∧ (bf16.read 0x4040).Is false 3 ∧ (f16.read 0x4200).Is false 3 ∧ (f32.read 0x45000000).Is false 2048 ∧ (f32.read 0xC5000000).Is true (-2048)
    ∧ f32.read 0x7F800000 = .inf false ∧ f32.read 0xFF800000 = .inf true ∧ f32.read 0x7F800001 = .nan true ∧ f32.read 0x7FC00000 = .nan false
    ∧ ¬ 0x7F800001 / 2 ^ f32.fb % 2 ^ f32.eb ≠ 2 ^ f32.eb - 1 ∧ 0x40400000 / 2 ^ f32.fb % 2 ^ f32.eb ≠ 2 ^ f32.eb - 1 := by
  refine ⟨⟨0xC00000, -22, by decide, by norm_num⟩, ⟨0x800000, -24, by decide, by norm_num⟩, ⟨0, -149, by decide, by norm_num⟩,
    ⟨0, -149, by decide, by norm_num⟩, ⟨0xC0, -6, by decide, by norm_num⟩, ⟨0x600, -9, by decide, by norm_num⟩,
    ⟨0x800000, -12, by decide, by norm_num⟩, ⟨0x800000, -12, by decide, by norm_num⟩, by decide, by decide, by decide, by decide, by decide, by decide⟩

/-- A block whose greatest number is 3, one of zeros, one with an infinity; a dot product of one pair. -/
theorem witness_FloatValues_blocks :
    (∀ v ∈ [f32.read 0x40400000, f32.read 0x80000000], ∃ s x, v.Is s x ∧ |x| < (2 : ℚ) ^ ((1 : Int) + 1))
    ∧ (∃ v ∈ [f32.read 0x40400000, f32.read 0x80000000], ∃ s x, v.Is s x ∧ (2 : ℚ) ^ (1 : Int) ≤ |x|)
    ∧ (∀ v ∈ [f32.read 0, f32.read 0x80000000], ∃ s, v.Is s 0) ∧ (∃ v ∈ [f32.read 0x7F800000], ∀ s x, ¬ v.Is s x)
    ∧ ∀ i p, [((3 : ℚ) * (-1 / 2), (false != true))][i]? = some p → ∃ x y nx ny, ([f32.read 0x40400000].getD i (f32.read 0)).Is nx x
        ∧ ([f32.read 0xBF000000].getD i (f32.read 0)).Is ny y ∧ p = (x * y, nx != ny) := by
  obtain ⟨h3, hh, h0, h0', -⟩ := witness_FloatValues
  refine ⟨fun v h => ?_, ⟨_, List.mem_cons_self, _, _, h3, by norm_num⟩, fun v h => ?_, ⟨_, List.mem_cons_self, ?_⟩, fun i p h => ?_⟩
  · rcases List.mem_cons.mp h with rfl | h
    · exact ⟨_, _, h3, by norm_num⟩
    · rw [List.mem_singleton.mp h]; exact ⟨_, _, h0', by norm_num⟩
  · rcases List.mem_cons.mp h with rfl | h
    · exact ⟨_, h0⟩
    · rw [List.mem_singleton.mp h]; exact ⟨_, h0'⟩
  · rintro s x ⟨m, e, h, -⟩
    rw [show f32.read 0x7F800000 = .inf false from by decide] at h; cases h
  · match i, h with
    | 0, h => exact ⟨_, _, _, _, h3, hh, (Option.some.inj h).symm⟩

theorem witness_BranchesAndJumps :
    (g12 5 5).clear [1, 2] ∧ (g12 5 5).opnd 1 = (g12 5 5).opnd 2 ∧ (g1 0x20000).clear [1]
    ∧ ((g1 0x20000).opnd 1).toNat % 4 = 0 ∧ ((g1 0x20003).opnd 1).toNat % 4 = 3 := by
  unfold State.clear; decide

theorem witness_Prefixes :
    base.cur.prefixed = false ∧ base.inExchange = false ∧ (prefixedBy 0x12 0 0 0).cur.prefixed = true
    ∧ arithAccepts (prefixedBy 0x07 0 0 0).cur.pfx = false ∧ memAccepts (prefixedBy 0x12 0x12 0 0).cur.pfx = false := by decide

/-- A capture that succeeds, one with a word no frame may hold, a missing translation, and a leaf without the fetch permission. -/
theorem witness_RepeatFrames_capture :
    base.clear [] ∧ base.fetchRun 0 (base.cur.pc + 4) 2 = .ok [0, 0] ∧ frameOk [0, 0] = true
    ∧ (let s := { base with mem := Mem.putBytes base.mem (placedPa + 4) (toBytes 4 0x05C00000) }
      s.fetchRun 0 (s.cur.pc + 4) 1 = .ok [0x05C00000] ∧ frameOk [0x05C00000] = false)
    ∧ (onCore fun k => { k with tlb := [] }).fetchRun 0 0x10004 1 = .error (0x10004, .miss)
    ∧ (onCore fun k => { k with tlb := [⟨1, 0, placedVa, 65536, placedPa + 0x137, 0, []⟩] }).fetchRun 0 0x10004 1
        = .error (0x10004, .bad 6) := by
  unfold State.clear; decide

/-- Within a frame of two words and two passes: the first word, the last word of the first pass, the last word of all. -/
theorem witness_RepeatFrames_course :
    let f (word pass : Nat) : Ctx := { frameRpt := 0x1F808002, st := BitVec.ofNat 64 (2 ^ 62 + word * 2 ^ 58 + pass * 2 ^ 48) }
    (f 0 0).inFrame = true ∧ rptCount (f 0 0).frameRpt = 2 ∧ rptPasses (f 0 0).frameRpt = 2 ∧ (f 0 0).rfWord + 1 < 2
    ∧ (f 1 0).rfWord = 1 ∧ (f 1 0).rfPass + 1 < 2 ∧ (f 1 1).rfPass = 1 ∧ ({} : Ctx).inFrame = false := by decide

/-- Captured words of each shape that staggers; an rpt whose mask selects every field, with a stride of 5. -/
theorem witness_RepeatFrames_stagger :
    decode 0x400DA0F0 = .instr (.add 2 13 40 15) ∧ decode 0x60517407 = .instr (.clz 3 17 29) ∧ decode 0x42D21C81 = .instr (.li 2 18 7297)
    ∧ decode 0x2C0DB9F8 = .instr (.vadd 1 13 46 31 1) ∧ decode 0xED999800 = .instr (.vabs 7 25 38) ∧ decode 0xB0930248 = .instr (.vbcast 5 19 36)
    ∧ decode 0xB3DBF670 = .instr (.vdot4 5 27 61 39) ∧ decode 0xD40694AE = .instr (.mma 6 6 37 10 1 1 1) ∧ decode 0x871D5F64 = .instr (.fcmp 4 29 23 54 4)
    ∧ decode 0x2F95E63D = .instr (.vcmp 1 21 57 35 1 5) ∧ decode 0xC21BDC09 = .instr (.shli 6 27 55 9)
    ∧ (decode 0xBE000040 = .instr (.eret 5) ∧ frameRoles (.eret 5) = none)
    ∧ (∃ w, encode (.rpt 0 7 1 5 3) = some w ∧ rptMask w = 7 ∧ rptStride w = 5) := by
  refine ⟨by decide, by decide, by decide, by decide, by decide, by decide, by decide, by decide, by decide, by decide, by decide, by decide,
    _, rfl, by decide⟩

/-- Own store and a sibling's, first and last byte; a store that waits; the three causes, at their boundaries. -/
theorem witness_LocalAccesses :
    (g1 0x100).clearPfx memAccepts [1] ∧ (g12 0x100 1).clearPfx memAccepts [2, 1, 1]
    ∧ localFault (g1 0x100) 0x100 8 = none ∧ localPlace 0 0x100 = some (0, 0x100)
    ∧ localFault base 0x5FFF8 8 = none ∧ localPlace 0 0x5FFF8 = some (0, 0x5FFF8)
    ∧ localPlace 0 0x880000 = some (1, 0) ∧ localPlace 9 0xBDFFFF = some (15, 0x5FFFF)
    ∧ localFault base 0x880000 8 = none ∧ base.localFree 0 = true ∧ base.localFree 1 = true
    ∧ base.guarded 0 0x100 8 = false ∧ base.guarded 1 0 8 = false
    ∧ (onCtx fun t => { t with localTo := 1, localAt := 102 }).localFree 0 = false
    ∧ localFault base 0x101 8 = some 1 ∧ localFault base 0x60000 8 = some 2 ∧ localFault base 0xBE0000 8 = some 2
    ∧ localFault (base.modGang 1 fun g => { g with chain := { g.chain with rbe := true } }) 0x58000 8 = some 3
    ∧ localFault (base.modGang 1 fun g => { g with chain := { g.chain with rbe := true } }) 0x57FF8 8 = none := by
  unfold State.clearPfx; decide

theorem witness_LocalAccesses_regions : regionsAligned base.curCore.regions := regions_none (by decide)

/-- A store that a queued matrix entry guards. -/
theorem witness_LocalAccesses_guarded :
    (onCore fun k => { k with ls := [(0x100, 2), (0x101, 0x28), (0x200, 2), (0x201, 0x28)], mat := { k.mat with q := [{ seq := 0, ctx := 0, acc := 0, pair := false, pl := false, mid := false, refine := false, a := 0x100, b := 0x200, fa := 0x28, fb := 0x28, fd := 0, mg := true, skip := 0 }] } }).guarded
      0 0x140 8 = true := by decide

theorem witness_SiblingAccesses :
    (let b : Sib := ⟨103, 0, 1, 0x10, 8, false, .load, 0, 0, 1⟩;
      regionsAligned (base.core b.target).regions ∧ b.width ≤ 8 ∧ b.op = .load)
    ∧ (let b : Sib := ⟨103, 0, 1, 0x10, 8, false, .store, 5, 0, 0⟩;
      regionsAligned (base.core b.target).regions ∧ b.width ≤ 8 ∧ b.op = .store ∧ b.v = 5)
    ∧ (let b : Sib := ⟨103, 0, 1, 0x10, 4, true, .atomic 0, 5, 0, 1⟩;
      regionsAligned (base.core b.target).regions ∧ b.width ≤ 8 ∧ b.op = .atomic 0) :=
  ⟨⟨regions_none (by decide), by decide, rfl⟩, ⟨regions_none (by decide), by decide, rfl, rfl⟩,
    regions_none (by decide), by decide, rfl⟩

/-- lsr: the largest region, one that ends past the store, one whose base is no multiple of 4096. -/
theorem witness_SiblingAccesses_regions :
    (g12 0 96).clear [1, 2] ∧ 0 + 4096 * 96 = 0x60000 ∧ (g12 0 96).localFree 0 = true
    ∧ ((g12 0x1000 96).opnd 1).toNat + 4096 * ((g12 0x1000 96).opnd 2).toNat > 0x60000
    ∧ ((g12 0x800 1).opnd 1).toNat % 4096 ≠ 0
    ∧ (onCtx fun t => { t with localTo := 1, localAt := 102 }).localFree 0 = false := by
  unfold State.clear; decide

/-- Where global accesses go: a hit, and a device of the domain. -/
theorem goes_here (v w : Word) (need : Nat) (h : (writableAt v w).xlateCur 0x10008 need = .hit 0x10008 (placedPa + 0x33F)) :
    goesTo (writableAt v w) 0x10008 8 need (.here 0x10008) :=
  ⟨by decide, .inl ⟨by decide, _, _, h, rfl⟩⟩

theorem witness_GlobalAccesses :
    (writableAt 0x10008 7).clearPfx memAccepts [2, 1] ∧ (writableAt 0x10008 0).clear [1, 2]
    ∧ (writableAt 0x10008 7).cur.ld.length < 32 ∧ (writableAt 0x10008 7).cur.stq.length < 64
    ∧ offsetAddress (writableAt 0x10008 7) 1 0 = 0x10008
    ∧ (onCtx fun t => { t with ld := List.replicate 32 ⟨0, none, false, true⟩ }).cur.ld.length = 32
    ∧ (onCtx fun t => { t with stq := List.replicate 64 ⟨0, none, false, false⟩ }).cur.stq.length = 64
    ∧ globalCause 0x10009 8 = some 1 ∧ globalCause (2 ^ 52) 8 = some 4 ∧ globalCause (2 ^ 51 + 320 * 2 ^ 42) 8 = some 9
    ∧ globalCause (2 ^ 51 + 319 * 2 ^ 42) 8 = none ∧ base.xlateCur 0x20000 1 = .miss := by
  unfold State.clear State.clearPfx; decide

theorem witness_GlobalAccesses_go :
    goesTo (writableAt 0x10008 7) 0x10008 8 1 (.here 0x10008) ∧ goesTo (writableAt 0x10008 7) 0x10008 8 2 (.here 0x10008)
    ∧ goesTo (writableAt 0x10008 7) 0x10008 1 18 (.here 0x10008) ∧ goesTo base (2 ^ 51 + 3 * 2 ^ 42) 8 1 (.away 3) :=
  ⟨goes_here _ _ 1 (by rfl), goes_here _ _ 2 (by rfl), ⟨by decide, .inl ⟨by decide, _, _, by rfl, rfl⟩⟩,
    by decide, .inr ⟨by decide, by decide⟩⟩

theorem witness_PrefetchesAndWaits :
    (writableAt 0x10008 7).clear [1] ∧ (writableAt 0x10008 7).xlateCur 0x10008 17 = .hit 0x10008 (placedPa + 0x33F)
    ∧ (g1 1).clear [1] ∧ (g1 1).cur.ld.length ≤ ((g1 1).opnd 1).toNat
    ∧ ((onCtx fun t => { t with enc := 1 }).opnd 1).toNat < (onCtx fun t => { t with enc := 1 }).cur.enc
    ∧ (writableAt 0x10008 7).clear [2, 1] ∧ (g1 0x20000).xlateCur ((g1 0x20000).opnd 1).toNat 17 = .miss
    ∧ (let s := onCore fun k => { k with tlb := [⟨1, 0, placedVa, 65536, placedPa + 0x33D, 0, []⟩] }
      s.xlateCur 0x10008 17 = .bad 6) ∧ base.xlateCur (2 ^ 52) 17 = .bad 4 := by
  unfold State.clear; decide

theorem witness_Atomics :
    (g1 0x100).clearPfx (atomAccepts false) [1, 0x20] ∧ (g1 0x100).clearPfx (atomAccepts true) [1, 0x21]
    ∧ (g1 0x100).clearPfx (atomAccepts false) [1, 0x20, 0x21] ∧ (g1 0x100).cur.ld.length < 32
    ∧ (g1 0x100).localFree 0 = true ∧ (g1 0x100).guarded 0 0x100 8 = false
    ∧ localFault (g1 0x100) 0x100 8 = none ∧ localFault (g1 0x104) 0x104 8 = some 1 ∧ (0 : Nat) < 2 ^ (8 * 4) := by
  unfold State.clearPfx; decide

theorem witness_Atomics_go : goesTo (writableAt 0x10008 7) 0x10008 8 3 (.here 0x10008) := goes_here _ _ 3 (by rfl)

theorem witness_Reductions :
    (writableAt 0x10008 7).clearPfx (redAccepts 0) [1, 0x20] ∧ (writableAt 0x10008 7).clearPfx (redAccepts 0) [1, 0x20, 2]
    ∧ (writableAt 0x10008 7).clear [1] ∧ (writableAt 0x10008 7).clear [1, 2] ∧ (writableAt 0x10008 7).cur.stq.length < 64
    ∧ (writableAt 0x10008 7).objectAt 0x10008 3 = .ok 0x10008 ∧ (writableAt 0x10008 7).objectAt 0x10008 1 = .ok 0x10008
    ∧ base.objectAt 0x10004 3 = .bad 1 ∧ base.objectAt (2 ^ 51) 3 = .bad 11 ∧ base.objectAt 0x20000 1 = .miss := by
  unfold State.clear State.clearPfx; decide

/-- red: the address goes here while its object is absent, is found, is misaligned, or misses. -/
theorem witness_Reductions_go :
    goesTo (writableAt 0x10008 7) 0x10008 8 2 (.here 0x10008) ∧ (writableAt 0x10008 0x10010).objectAt ((writableAt 0x10008 0x10010).opnd 2).toNat 2 = .ok 0x10010
    ∧ (writableAt 0x10008 0x10014).objectAt ((writableAt 0x10008 0x10014).opnd 2).toNat 2 = .bad 1
    ∧ (writableAt 0x10008 0x20000).objectAt ((writableAt 0x10008 0x20000).opnd 2).toNat 2 = .miss :=
  ⟨goes_here _ _ 2 (by rfl), by decide, by decide, by decide⟩

/-- A request that has arrived at its slice, by its event. -/
def arrived (k : ReqKind) (gen : Nat := 0) (pa : Nat := 0x200) (v : Nat := 0x55) (reached : Bool := true) : State :=
  { event 5 0 0 with reqs := [(5, { kind := k, core := 0, ctx := 0, id := 5, va := 0x200, pa := pa, width := 8, asid := 1, gen := gen, v := v,
                                    reached := reached })],
                     nextId := 6 }

theorem witness_Requests :
    (∀ k ∈ [ReqKind.load, .store, .wbk, .pref, .atomic 0, .red 0 false],
      ∃ r, SMap.find (arrived k).reqs (arrived k).ev.a = some r ∧ r.id = (arrived k).ev.a ∧ r.remote = none ∧ r.kind = k ∧ r.reached = true
        ∧ (arrived k).rejects r = none)
    ∧ (∀ k ∈ [ReqKind.load, .store, .wbk],
      ∃ r, SMap.find (arrived k 1).reqs (arrived k 1).ev.a = some r ∧ r.remote = none ∧ r.reached = true ∧ (arrived k 1).rejects r = some 16)
    ∧ ∀ k ∈ [ReqKind.load, .store, .atomic 0, .red 0 false, .barm, .watch],
      let s := { arrived k 0 0x200 0x55 false with cal := [⟨103, lineChan 0x200, .globalAccessAtSlice, ⟨6, 0, 0, 0, []⟩⟩] }
      ∃ r, SMap.find s.reqs s.ev.a = some r ∧ r.id = s.ev.a ∧ r.remote = none ∧ r.reached = false
        ∧ ∃ q ∈ s.cal, q.chan = lineChan r.pa ∧ SMap.find s.reqs q.args.a = none := by
  refine ⟨fun k h => ⟨_, rfl, rfl, rfl, rfl, rfl, ?_⟩, fun k h => ⟨_, rfl, rfl, rfl, ?_⟩,
    fun k h => ⟨_, rfl, rfl, rfl, rfl, _, List.mem_singleton.mpr rfl, rfl, rfl⟩⟩ <;> fin_cases h <;> decide

/-- A release whose context has nothing under way, one whose earlier store is, and one behind an earlier sibling access. -/
theorem witness_Requests_release :
    (let s : State := { event 5 0 0 with reqs := [(5, { kind := .store, core := 0, ctx := 0, id := 5, va := 0, pa := 0, width := 8, scope := some 3, src := some (1, 0), waitsFor := [4] })] }
      ∃ r, SMap.find s.reqs 5 = some r ∧ (s.core r.core).gang = r.src.map (·.1) ∧ r.waitLocal ≤ s.now ∧ (s.core r.core).sibs = []
        ∧ ∀ i ∈ r.waitsFor, (∀ o ∈ (s.ctxAt 0 0).ld, o.id ≠ i) ∧ ∀ o ∈ (s.ctxAt 0 0).stq, o.id ≠ i)
    ∧ (∃ o ∈ (onCtx fun t => { t with stq := [⟨4, none, false, false⟩] }).cur.stq, o.id = 4)
    ∧ ∃ b ∈ (onCore fun k => { k with sibs := [⟨102, 0, 1, 0x10, 8, false, .store, 5, 0, 0⟩] }).curCore.sibs, b.ctx = 0 ∧ b.due < 100 + 3 :=
  ⟨⟨_, rfl, by decide⟩, by decide, by decide⟩

/-- An arrival that completes its object and one that does not; a watch that wakes at once and one that stays. -/
theorem witness_BarrierObjects :
    (∃ r, SMap.find (arrived .barm).reqs 5 = some r ∧ r.id = 5 ∧ (arrived .barm).rejects r = none
      ∧ ofBytes ((arrived .barm).gbytes r.pa 8) % 2 ^ 24 ≤ ofBytes ((arrived .barm).gbytes r.pa 8) / 2 ^ 24 % 2 ^ 24 + 1)
    ∧ (let s := { arrived .barm with mem := [(0x200, 2)] }
      ∃ r, SMap.find s.reqs 5 = some r ∧ s.rejects r = none
        ∧ ¬ ofBytes (s.gbytes r.pa 8) % 2 ^ 24 ≤ ofBytes (s.gbytes r.pa 8) / 2 ^ 24 % 2 ^ 24 + 1)
    ∧ (∃ r, SMap.find (arrived .watch).reqs 5 = some r ∧ r.remote = none ∧ (arrived .watch).rejects r = none
      ∧ ofBytes ((arrived .watch).gbytes r.pa 8) ≠ r.v)
    ∧ ∃ r, SMap.find (arrived .bwatch 0 0x200 0).reqs 5 = some r ∧ (arrived .bwatch 0 0x200 0).rejects r = none
      ∧ ofBytes ((arrived .bwatch 0 0x200 0).gbytes r.pa 8) / 2 ^ 48 % 2 = r.v % 2
      ∧ ∃ w ∈ SMap.get [] ({ arrived .barm with watches := [(homeOf 0x200, [⟨3, 0, 1, 1, 0x200, true, none⟩])] } : State).watches (homeOf r.pa),
          w.barrier = true ∧ w.pa = r.pa ∧ w.away = none :=
  ⟨⟨_, rfl, rfl, by decide, by decide⟩, ⟨_, rfl, by decide, by decide⟩, ⟨_, rfl, rfl, by decide, by decide⟩,
    _, rfl, by decide, by decide, _, List.mem_singleton.mpr rfl, by decide, by decide, rfl⟩

theorem witness_VectorInstructions :
    (g12 0x100 4).clearPfx vArith [2] ∧ (prefixedBy 0x12 0 0 0).clearPfx vArith [2] ∧ (g12 0x100 4).clear [1, 2]
    ∧ base.clearPfx vConv [] ∧ base.clearPfx (vCompare 5) [2] ∧ base.clearPfx (vReduce 0) [] ∧ base.clearPfx vDot []
    ∧ (prefixedBy 0x12 0 0 0).clearPfx vFloat1 [] ∧ base.clear [1]
    ∧ base.curCore.vec.q.length < 16
    ∧ (onCore fun k => { k with vec := { k.vec with q := List.replicate 16 { seq := 0, ctx := 0, ins := .vadd 0 0 0 0 0 } } }).curCore.vec.q.length = 16 := by
  unfold State.clear State.clearPfx; decide

/-- vsetvl: 0, a multiple of 16, one above it, 128 and beyond. -/
theorem witness_VectorInstructions_vsetvl (n : Nat) :
    (∀ j, 1 ≤ j → j ≤ 8 → (0 ≤ 16 * j ∨ j = 8) → 16 ≤ 16 * j) ∧ (∀ j, 1 ≤ j → j ≤ 8 → (17 ≤ 16 * j ∨ j = 8) → 32 ≤ 16 * j)
    ∧ ∀ j, 1 ≤ j → j ≤ 8 → (128 + n ≤ 16 * j ∨ j = 8) → 128 ≤ 16 * j := by
  refine ⟨fun j _ _ _ => ?_, fun j _ _ _ => ?_, fun j _ _ _ => ?_⟩ <;> omega

/-- One entry in core 0's vector queue, and the event of its group or of its end. -/
def vectorEntry (i : Instr) (s1 s2 : Word := 0) (vl : Nat := 16) : State :=
  event 0 0 3 0 [] (onCore fun k => { k with vec := { k.vec with q := [{ seq := 3, ctx := 0, ins := i, s1 := s1, s2 := s2, vl := vl }] } })

theorem witness_ElementwiseEntries :
    ∀ i ∈ [Instr.vadd 0 1 2 3 0, .vsub 0 1 2 3 1, .vfma 0 1 2 3 0, .vabs 0 1 2, .vcmp 0 1 2 3 0 2, .vsel 0 1 2 3 0, .vcvt 0 1 2, .vbcast 0 1 2,
      .vrcp 0 1 2, .vdot4 0 1 2 3],
      ∃ e, (vectorEntry i).findV 0 (3 / 65536) (3 % 65536) = some e ∧ (vectorEntry i).vinjected 0 e = false
        ∧ ((vectorEntry i).core 0).vec.failed = false ∧ vMem e.ins = false ∧ vMoves e.ins = false ∧ (vUse e.ins e.fa).dst = some 1 := by
  intro i h
  refine ⟨_, rfl, ?_⟩
  fin_cases h <;> decide

theorem witness_ElementwiseEntries_table :
    (0 : Nat) ≠ 0x12 ∧ (7 : Nat) ≠ 0x12 ∧ (5 : Nat) ≠ 0x12 ∧ (1 : Nat) ≤ 1 ∧ (5 : BitVec 3).toNat < 6 ∧ (((6 : BitVec 3).toNat, 4) ∈ [(0, 0), (1, 1), (2, 2), (4, 3), (6, 4)]) := by
  decide

theorem witness_GatheringPoints :
    ∀ i ∈ [Instr.vperm 0 1 2 3 0, .vperm 0 1 2 3 1, .vred 0 1 2 0 0, .vscan 0 1 2 0 5],
      ∃ e, (vectorEntry i).findV 0 (3 / 65536) (3 % 65536) = some e ∧ e.vl ≤ 128 ∧ ((vectorEntry i).core 0).vec.failed = false
        ∧ (vectorEntry i).vinjected 0 e = false := by
  intro i h
  refine ⟨_, rfl, ?_⟩
  fin_cases h <;> decide

/-- A load and a store whose lanes all lie in the own store, and a load whose last lane lies past it. -/
theorem witness_VectorMemory :
    (∀ i ∈ [Instr.vld 0 1 4 0 0 0, .vst 0 1 4 0 0 2, .vldx 0 1 2 3, .vstx 0 1 2 3],
      ∃ e, (vectorEntry i 0x100 0x100).findV 0 0 3 = some e ∧ (vectorEntry i 0x100 0x100).vinjected 0 e = false
        ∧ ((vectorEntry i 0x100 0x100).core 0).vec.failed = false ∧ (∀ l ∈ e.lanes 0, ∀ x ∈ e.wrote, ¬ l < x.1)
        ∧ ∀ l ∈ e.lanes 0, e.addr ((vectorEntry i 0x100 0x100).core 0).vec l % 4 = 0 ∧ e.addr ((vectorEntry i 0x100 0x100).core 0).vec l < 0x60000)
    ∧ ∃ e, (vectorEntry (.vld 0 1 4 0 0 0) 0x5FFC4).findV 0 0 3 = some e ∧ vMem e.ins = true ∧ e.dropped = false
        ∧ (vectorEntry (.vld 0 1 4 0 0 0) 0x5FFC4).laneFault 0 e (e.lanes 0) = some (2, 15, 0x60000) := by
  refine ⟨fun i h => ⟨_, rfl, ?_⟩, _, rfl, ?_⟩
  · fin_cases h <;> decide
  · decide

theorem witness_VectorMemory_regions : regionsAligned ((vectorEntry (.vld 0 1 4 0 0 0)).core 0).regions := regions_none (by decide)

/-- A load's result and a store's acknowledgement that core 0 expects, one that it does not, and one for a gang that is out. -/
theorem witness_Responses :
    (let s := event 0 0 5 0 [] (onCtx fun t => { t with ld := [⟨5, some 3, false, true⟩], pend := [{ id := 5, slot := some 0, reg := some 4 }] });
      s.absent 0 0 5 = none ∧ s.landGuarded 5 = false ∧ s.frameHeld 0 0 5 = false ∧ (s.ctxAt 0 0).expects 5 = true
        ∧ (SMap.get {} s.resps 5 : Resp).also = none ∧ (SMap.get {} s.resps 5 : Resp).store = none ∧ (s.ctxAt 0 0).ih = false ∧ (s.ctxAt 0 0).rt = false)
    ∧ (let s := event 0 0 5 0 [] (onCtx fun t => { t with stq := [⟨5, some 3, false, false⟩] });
      s.absent 0 0 5 = none ∧ s.landGuarded 5 = false ∧ (s.ctxAt 0 0).expects 5 = true ∧ (s.ctxAt 0 0).pend = [])
    ∧ base.absent 0 0 5 = none ∧ (base.ctxAt 0 0).expects 5 = false
    ∧ ({ base with gangs := [(2, { status := .out, saved := [(0, { ctxs := [(0, { ld := [⟨5, none, false, true⟩] })] })] })] }).absent 0 0 5 = some 2 := by
  decide

/-- A keyed answer with a second result, the first for a register, the second for a slot. -/
theorem witness_Responses_second :
    let s : State := { event 0 0 5 0 [] (onCtx fun t => { t with ld := [⟨5, some 3, false, true⟩], pend := [{ id := 5, reg := some 17 }, { id := 6, slot := some 0 }] }) with
      resps := [(5, { v := 7, also := some (6, 1) })] }
    s.absent 0 0 5 = none ∧ s.landGuarded 5 = false ∧ s.frameHeld 0 0 5 = false ∧ (s.ctxAt 0 0).expects 5 = true
      ∧ (SMap.get {} s.resps 5 : Resp).also = some (6, 1) ∧ (s.ctxAt 0 0).ih = false ∧ (s.ctxAt 0 0).rt = false := by decide

/-- A result of the interrupted work that arrives in a handler, for slot 2 and register 4 of a frame whose PEND still marks them; and
the same where the frame lies in a guarded range. -/
theorem witness_Responses_frame :
    let p : Pend := { id := 5, frSlot := some 2, frReg := some 4 }
    let mat : MatState := { q := [{ seq := 0, ctx := 0, acc := 0, pair := false, pl := false, mid := false, refine := false, a := 0x100, b := 0x200, fa := 0x28, fb := 0x28, fd := 0, mg := true, skip := 0 }] }
    let s (m : MatState) (tfa : Nat) : State := { event 0 0 5 with
      cores := [(0, { gang := some 1, ls := [(0x100, 2), (0x101, 0x28), (0x200, 2), (0x201, 0x28), (0x21A0, 4), (0x21A2, 0x10)], mat := m,
                      ctxs := [(0, { status := .running, ih := true, frameAt := tfa, ld := [⟨5, none, false, true⟩], pend := [p] })] })] }
    let t := s {} 0x2000
    t.absent 0 0 5 = none ∧ t.frameHeld 0 0 5 = false ∧ (t.ctxAt 0 0).expects 5 = true ∧ (SMap.get {} t.resps 5 : Resp).store = none
      ∧ (SMap.get {} t.resps 5 : Resp).also = none ∧ t.rbe 0 = false ∧ (t.ctxAt 0 0).framed 5 p
      ∧ ofBytes ((t.core 0).lbytes ((t.ctxAt 0 0).frameAt + 8 * 52) 8) / 2 ^ 2 % 2 = 1
      ∧ (s mat 0).absent 0 0 5 = none ∧ (s mat 0).frameHeld 0 0 5 = true := by
  unfold Ctx.framed; decide

theorem witness_Responses_frame_regions : regionsAligned ((onCtx fun t => { t with ih := true }).core 0).regions := regions_none (by decide)

/-- A keyed answer that brings bytes for the store, which nothing guards, and one whose bytes a matrix entry guards. -/
theorem witness_Responses_store :
    let mat : MatState := { q := [{ seq := 0, ctx := 0, acc := 0, pair := false, pl := false, mid := false, refine := false, a := 0x100, b := 0x200, fa := 0x28, fb := 0x28, fd := 0, mg := true, skip := 0 }] }
    let s (m : MatState) : State := { event 0 0 5 with
      cores := [(0, { gang := some 1, ls := [(0x100, 2), (0x101, 0x28), (0x200, 2), (0x201, 0x28)], mat := m, ctxs := [(0, { status := .running, ld := [⟨5, none, false, true⟩] })] })]
      resps := [(5, { store := some (0, 0x140, [1, 2]) })] }
    ((s {}).absent 0 0 5 = none ∧ (s {}).landGuarded 5 = false ∧ ((s {}).ctxAt 0 0).expects 5 = true
      ∧ (SMap.get {} (s {}).resps 5 : Resp).store = some (0, 0x140, [1, 2]))
    ∧ (s mat).absent 0 0 5 = none ∧ (s mat).landGuarded 5 = true := by decide

/-- Page tables of address space 1 with one entry of level 1. -/
def tables (e : Nat) (need : Nat := 1) (again : Bool := false) : State :=
  let m := Mem.putBytes (Mem.putBytes (Mem.putBytes [] 0x8000 (toBytes 8 0x10001)) 0x10000 (toBytes 8 0x18001)) 0x18000 (toBytes 8 e)
  let s := onCtx fun t => { t with wait := .walk 0x100 need, rewalk := again }
  { event 0 0 0 0x100 [] s with spaces := [(1, { ptb := 0x8000, oldPtb := 0x8000 })], mem := m }

/-- A walk that ends in a leaf with the permission, in one without it, in a malformed entry and in one that is not valid. -/
theorem witness_Walks :
    ((tables 0x1F).ctxAt 0 0).wait = .walk 0x100 1 ∧ ((tables 0x1F).ctxAt 0 0).rewalk = false
    ∧ ((tables 0x1F 1 true).ctxAt 0 0).rewalk = true ∧ ((tables 0x11 49).ctxAt 0 0).wait = .walk 0x100 49
    ∧ 49 / 32 % 2 = 1 ∧ permit 49 0x11 = some 6 ∧ (tables 0x1013 49).walk 1 0x100 = .bad 7
    ∧ (tables 0x1F).walk 1 0x100 = .leaf 0x1F 0x18000 1 [0x18000, 0x10000, 0x8000] ∧ permit 1 0x1F = none
    ∧ (tables 0x11).walk 1 0x100 = .leaf 0x11 0x18000 1 [0x18000, 0x10000, 0x8000] ∧ permit 1 0x11 = some 6
    ∧ (tables 0x1013).walk 1 0x100 = .bad 7 ∧ (tables 0).walk 1 0x100 = .bad 5
    ∧ ∀ x, base.cur.wait = x → x = .none := by
  refine ⟨by decide, by decide, by decide, by decide, by decide, by decide, by decide, by decide, by decide, by decide, by decide, by decide, by decide,
    fun x h => h.symm.trans (by decide)⟩

/-- Two tiles of one step, at 0x100 and 0x800, and what the queue of core 0's array holds. -/
def tiled (m : MatState) (f : Ctx → Ctx := id) : State :=
  (onCore fun k => { k with ls := [(0x100, 2), (0x101, 0x28), (0x800, 2), (0x801, 0x28)], mat := m }).modCur f
def someEntry (acc : Nat) : MEntry := { seq := 3, ctx := 0, acc := acc, pair := false, pl := false, mid := false, refine := false, a := 0x100, b := 0x800, fa := 0x28, fb := 0x28, fd := 0, mg := true, skip := 0, batch := 1 }

theorem witness_MatrixInstructions :
    base.clearPfx (mmaAccepts false false) [1, 2] ∧ base.curCore.mat.q.length < 8 ∧ base.curCore.mat.skOn = false
    ∧ (tiled { q := List.replicate 8 (someEntry 0) }).curCore.mat.q.length = 8
    ∧ (let s := tiled { sk := 0x8000000000000400 }
      s.curCore.mat.skOn = true ∧ localFault s 0x400 2 = none ∧ localPlace s.cc 0x400 = some (0, 0x400) ∧ s.localFree 0 = true)
    ∧ localFault base 0x60000 2 = some 2 ∧ base.localWaits 0x60000 = false
    ∧ (prefixedBy 0x38 0x38 0 0).clearPfx (mmaAccepts false true) [1, 2] ∧ ((g1 0x100).opnd 1).toNat % 64 = 0
    ∧ localFault (g1 0x100) 0x100 64 = none ∧ localPlace 0 0x100 = some (0, 0x100) := by
  unfold State.clearPfx; decide

/-- A descriptor of two tiles and one step, at the first and at the last of them; one whose DONE is past its end. -/
def describedWords (done : Nat) : Nat := 2 ^ 168 + done * 2 ^ 176
def described (done : Nat) : State :=
  (onCore fun k => { k with ls := [(0x40, 0), (0x55, 1), (0x56, BitVec.ofNat 8 done)] }).modCur fun t =>
    { t with regs := [(1, 0x40)], wait := .tile 0x40 false false false 0 (describedWords done) }

theorem witness_MatrixInstructions_expansion :
    (described 0).clearPfx (mmaAccepts false false) [1] ∧ (described 0).localWaits 0x40 = false
    ∧ localFault (described 0) 0x40 32 = none ∧ localPlace 0 0x40 = some (0, 0x40)
    ∧ ofBytes (((described 1).core 0).lbytes 0x40 32) = describedWords 1
    ∧ (TileDesc.ofNat (describedWords 1)).ok false false = true ∧ (TileDesc.ofNat (describedWords 0)).na = 2
    ∧ ¬ (TileDesc.ofNat (describedWords 2)).done < 1 * 2 ∧ localFault (described 0) 0x44 32 = some 1
    ∧ (described 0).cur.wait = .tile 0x40 false false false 0 (describedWords 0) ∧ (described 0).guarded 0 0x56 2 = false
    ∧ (TileDesc.ofNat (describedWords 1)).done + 1 = 1 * 2 := by
  unfold State.clearPfx; decide

theorem settled_here (s : State) (h : s.curCore.sibs = []) (c : Nat) : settled s c := fun b hb => by rw [h] at hb; cases hb

theorem witness_MatrixInstructions_settled :
    settled (described 0) 0 ∧ settled (tiled {}) 0 ∧ regionsAligned (described 0).curCore.regions :=
  ⟨settled_here _ (by decide) 0, settled_here _ (by decide) 0, regions_none (by decide)⟩

theorem witness_AccumulatorWords :
    base.clear [] ∧ base.accFree 7 false = true ∧ base.accFree 6 true = true ∧ (tiled { q := [someEntry 0] }).accFree 0 false = false
    ∧ (g12 0x100 0).clearPfx (mrdAccepts false) [1, 2] ∧ (g12 0x100 0).clearPfx (mwrAccepts true) [1, 2] ∧ base.clear [1]
    ∧ (g12 0x5F000 0x3E0).localFree 0 = true ∧ 0x5F000 + 32 * 32 * 4 ≤ 0x60000 ∧ 0x5F000 % 8 = 0
    ∧ base.guarded 0 0x5F000 0x1000 = false := by
  unfold State.clear State.clearPfx; decide

/-- Batches: none held, eight held with an open oldest one, one complete and one not. -/
theorem witness_AccumulatorWords_batches :
    let eight : List Batch := (List.range 8).map fun i => ⟨0, i + 1, 1, 0⟩
    (eight.filter fun b => b.ctx == 0 && b.num != 0).length = 8 ∧ (∀ b, eight.head? = some b → b.left ≠ 0)
    ∧ (tiled { batches := [⟨0, 1, 0, 3⟩, ⟨0, 2, 1, 0⟩] }).clear [1]
    ∧ ((tiled { batches := [⟨0, 1, 0, 3⟩, ⟨0, 2, 1, 0⟩] }).curCore.mat.batches.find? fun b => b.ctx == 0 && b.num == 1) = some ⟨0, 1, 0, 3⟩
    ∧ ((tiled { batches := [⟨0, 1, 0, 3⟩, ⟨0, 2, 1, 0⟩] }).curCore.mat.batches.find? fun b => b.ctx == 0 && b.num == 2) = some ⟨0, 2, 1, 0⟩ := by
  refine ⟨by decide, fun b h => ?_, ?_⟩
  · injection h with h; rw [← h]; decide
  · unfold State.clear; decide

/-- An entry that begins well, one whose first tile has no header, and one that ends. -/
theorem witness_MatrixEntries :
    (∃ e, (tiled { q := [someEntry 0] }).curCore.mat.nextEntry = some e ∧ e.early = none
      ∧ (tiled { q := [someEntry 0] }).tileFaults 0 e.a e.fa e.pl e.planes = [] ∧ (tiled { q := [someEntry 0] }).tileFaults 0 e.b e.fb false 0 = []
      ∧ ((tiled { q := [someEntry 0] }).tileAt 0 e.a).2.2.ks = ((tiled { q := [someEntry 0] }).tileAt 0 e.b).2.2.ks
      ∧ (tiled { q := [someEntry 0] }).curCore.mat.freeAt ≤ 100 ∧ e.at_ + 2 ≤ 100 ∧ e.after ≤ 100
      ∧ (tiled { q := [someEntry 0] }).curCore.sibs = [] ∧ ((tiled { q := [someEntry 0] }).ctxAt 0 e.ctx).status = .running)
    ∧ (∀ e, (tiled { q := [someEntry 0], freeAt := 101 }).curCore.mat.nextEntry = some e → ¬ (tiled { q := [someEntry 0], freeAt := 101 }).curCore.mat.freeAt ≤ 100)
    ∧ ({ someEntry 0 with at_ := 98 } : MEntry).at_ + 2 ≤ 100 ∧ ¬ ({ someEntry 0 with at_ := 99 } : MEntry).at_ + 2 ≤ 100
    ∧ (tiled { q := [{ someEntry 0 with a := 0x200 }] }).mfaultOf 0 { someEntry 0 with a := 0x200 } = some (21, 0x200)
    ∧ (let s := event 0 0 3 0 [] (tiled { q := [{ someEntry 0 with begunAt := some 90 }] })
      ∃ e, (s.curCore.mat.q.find? fun e => e.ctx == 3 / 65536 && e.seq == 3 % 65536) = some e
        ∧ s.mlateOf 0 (s.minput 0 e) = none ∧ (s.core 0).injM = false ∧ e.refine = false) :=
  ⟨⟨_, rfl, by decide, by decide, by decide, by decide, by decide, by decide, by decide, by decide, by decide⟩, fun _ _ => by decide, by decide, by decide,
    by decide, ⟨_, rfl, by decide, by decide, by decide⟩⟩

/-- A handle that is well formed, one whose low half is not 0, one of number 0, the greatest number. -/
theorem witness_KeyedWords :
    (g12 0x0000000500000000 7).clear [1, 0x20] ∧ (g12 0x0000000500000000 7).clear [1, 0x20, 0x21] ∧ base.clear [1, 2] ∧ base.clear [1]
    ∧ base.cur.ld.length < 32 ∧ badHandle 0x0000000500000000 = false ∧ badHandle 0x0000FFFF00000000 = false
    ∧ badHandle 1 = true ∧ badHandle 0 = true ∧ badHandle 0x0001000000000000 = false
    ∧ base.clear [1, 2, 0x20] ∧ base.localWaits 0x5FE00 = false ∧ 0x5FE00 + 512 ≤ 0x60000 ∧ 0x5FE00 % 16 = 0 := by
  unfold State.clear; decide

theorem witness_KeyedWords_knew :
    goesTo (writableAt 0x10008 7) 0x10008 8 1 (.here 0x10008) ∧ goesTo (writableAt 0x10008 7) (0x10008 + 8) 8 1 (.here 0x10010) :=
  ⟨goes_here _ _ 1 (by rfl), by decide, .inl ⟨by decide, _, _, by rfl, rfl⟩⟩

/-- kiter with a full ldc, with a buffer past the store, and with one in the undo log of a gang with rollback. -/
theorem witness_KeyedWords_kiter :
    (let s := onCtx fun t => { t with ld := List.replicate 32 ⟨0, none, false, true⟩ };
      s.clear [1, 2, 0x20] ∧ s.clear [1, 2] ∧ 32 ≤ s.cur.ld.length)
    ∧ (0x5FF00 % 16 = 0 ∧ 0x5FF00 < 0x60000 ∧ 0x60000 < 0x5FF00 + 512 ∧ localPlace 0 0x70000 = none)
    ∧ (base.modGang 1 fun g => { g with chain := { g.chain with rbe := true } }).rbe 0 = true ∧ 0x58000 < 0x57F00 + 512 ∧ 0x57F00 + 512 ≤ 0x60000 := by
  unfold State.clear; decide

/-- A map of one slice with one key, and an operation that reaches it. -/
def keyed (op : Nat) (key : Word) (v : Word := 9) (handle : Word := 0x0010000500000000) (gen : Nat := 0) : State :=
  { event 7 0 0 with
    maps := [(5, { part := 0, kw := true, vw := true, lgs := 0, slices := [(0, { chains := [(0, { home := 0, ents := [(3, 8)], places := [(none, 0)] })] })] })],
    kreqs := [(7, { id := 7, core := 0, ctx := 0, op := op, handle := handle, key := key, v := v, asid := 1, gen := gen, gang := 1 })] }

theorem witness_KeyedOperations :
    (∃ r m, SMap.find (keyed 0 3).kreqs 7 = some r ∧ SMap.find (keyed 0 3).maps 5 = some m ∧ r.id = 7 ∧ r.sl = (keyed 0 3).kslice r ∧ r.recs = []
      ∧ SMap.get [] (keyed 0 3).kwait r.sl = [] ∧ ((m.slice 0).chain 0).state = 0 ∧ (keyed 0 3).kbehind r r.sl = false
      ∧ r.gen = ((keyed 0 3).space r.asid).gen ∧ (keyed 0 3).liveMap ((keyed 0 3).kpart r) r.handle = some m
      ∧ (keyed 0 3).bufferFull ((keyed 0 3).kslice r) 5 (m.key r.key) r.gang = false
      ∧ (((m.slice 0).chain 0).ents.map (·.1)).Nodup ∧ ((m.slice 0).chain 0).ents.length < m.room * ((m.slice 0).chain 0).places.length
      ∧ (m.slice 0).find m.b0 3 = some 8 ∧ (m.slice 0).find m.b0 4 = none ∧ m.pub = none ∧ 0 < m.b0
      ∧ (m.slice 0).p < m.b0 * 2 ^ (m.slice 0).l ∧ SMap.rising 0 (m.slice 0).chains = true)
    ∧ (∃ r, SMap.find (keyed 0 3 9 0x0010000500000000 1).kreqs 7 = some r ∧ r.gen ≠ ((keyed 0 3).space r.asid).gen)
    ∧ (∃ r, SMap.find (keyed 9 0 1).kreqs 7 = some r ∧ r.op = 9 ∧ r.v.toNat % 16 = 1)
    ∧ (∃ r, SMap.find (keyed 7 0 0x102).kreqs 7 = some r ∧ r.op = 7 ∧ r.v.getLsbD 15 = false)
    ∧ (∃ r, SMap.find (keyed 0 3 9 0x0010000600000000).kreqs 7 = some r ∧ (keyed 0 3 9 0x0010000600000000).liveMap 0 r.handle = none) :=
  ⟨⟨_, _, rfl, rfl, rfl, by decide, by decide, by decide, by decide, by decide, by decide, by decide, by decide, by decide, by decide, by decide,
    by decide, by decide, by decide, by decide, by decide⟩, ⟨_, rfl, by decide⟩, ⟨_, rfl, by decide⟩, ⟨_, rfl, by decide⟩, _, rfl, by decide⟩

/-- An operation behind an earlier one of its context; one on a held bucket; one behind an operation of another context on another, held
bucket; two maps to be paired, and a handle of none. -/
theorem witness_KeyedOperations_line :
    let one (op : Nat) (key v : Word) : KReq := { id := 7, core := 0, ctx := 0, op := op, handle := 0x0010000500000000, key := key, v := v, asid := 1, gen := 0, gang := 1 }
    let m : KMap := { part := 0, kw := true, vw := true, lgs := 0, slices := [(0, { l := 1, chains := [(0, { home := 0, state := 1 }), (1, { home := 1 })] })] }
    let s (rs : SMap KReq) (line : List Nat) : State := { event 7 0 0 with maps := [(5, m), (6, m)], kreqs := rs, kwait := [(0, line)] }
    let other : KReq := { one 0 3 0 with id := 6, core := 1 }
    (∃ r, SMap.find (s [(6, one 0 3 0), (7, one 0 4 0)] []).kreqs 7 = some r ∧ (s [(6, one 0 3 0), (7, one 0 4 0)] []).kbehind r 0 = true)
    ∧ (∃ k₁ k₂ : Word, let t := s [(6, { other with key := k₁ }), (7, one 0 k₂ 0)] [6, 7]
        t.kheld { other with key := k₁ } = true ∧ t.kheld (one 0 k₂ 0) = false ∧ t.kbucket { other with key := k₁ } ≠ t.kbucket (one 0 k₂ 0)
          ∧ t.kbehind (one 0 k₂ 0) 0 = false ∧ (t.ev.b = 1 → 7 ∈ SMap.get [] t.kwait 0)
          ∧ (SMap.get [] t.kwait 0).takeWhile (· != 7) = [6])
    ∧ (let t := s [(7, one 6 0 0x0010000600000000)] [];
        t.liveMap (t.kpart (one 6 0 0)) 0x0010000600000000 = some m ∧ t.liveMap (t.kpart (one 6 0 0)) 0x0010000500000000 = some m
          ∧ t.liveMap (t.kpart (one 6 0 0)) 0x0010000700000000 = none ∧ m.pub = none ∧ t.kbucket (one 6 0 0) = none)
    ∧ (let t : State := { s [] [] with combs := [(0, [{ num := 2, map := 5, key := 0, gang := 1, v := 0 }])] };
        t.combHeld 0 3 = false ∧ t.combHeld 0 2 = true) := by
  refine ⟨⟨_, rfl, by decide⟩, ?_, by decide, by decide⟩
  exact ⟨0, 1, by decide⟩

set_option maxRecDepth 20000 in
/-- A migration: the slice has a facet, and its one bucket moves in. -/
theorem witness_KeyedOperations_migration :
    (({ facets := [9], chains := [(0, { home := 0, ents := [(3, 8)], places := [(none, 0)] })] } : KSlice).moveIn 9).isSome = true
    ∧ (∃ h, SMap.find ({ base with units := [(9, { agent := some (1, 5), recalled := some 4 })] } : State).units 9 = some h
      ∧ h.agent = some (1, 5) ∧ h.gang = none ∧ h.underRecall 4 = true)
    ∧ ({ agent := some (1, 5), recalled := some 6 } : UnitHold).underRecall 4 = false ∧ ({ agent := some (2, 0), recalled := some 4 } : UnitHold).underRecall 4 = true :=
  ⟨by decide, ⟨_, rfl, rfl, rfl, by decide⟩, by decide, by decide⟩

/-- facq: any unit of a class, the last array, one past it; a context with something under way; the routine's context. -/
theorem witness_NegotiationWords :
    base.clear [1] ∧ base.clear [] ∧ base.cur.ld = [] ∧ base.cur.stq = [] ∧ base.cx = 0 ∧ base.cur.rt = false ∧ base.cur.ld.length < 32
    ∧ ¬ (63 / 2 ^ 13 ≠ 0 ∨ ((1 : BitVec 1) = 1 ∧ 63 / 4096 % 2 = 0 ∧ 63 < 63 % 4096)) ∧ (64 / 4096 % 2 = 0 ∧ 63 < 64 % 4096)
    ∧ (8192 : Nat) / 2 ^ 13 ≠ 0 ∧ (userLevel base).level 0 = 0 ∧ base.level 0 = 2
    ∧ (onCore fun k => { k with routine := 0x4000 }).curCore.routine ≠ 0
    ∧ ((g1 0xFFFFFFFFFFFFC).opnd 1).toNat < 2 ^ 52 ∧ ((g1 0xFFFFFFFFFFFFC).opnd 1).toNat % 4 = 0
    ∧ (onCtx fun t => { t with rt := true }).cur.rt = true ∧ (onCtx fun t => { t with rt := true }).cur.pend = [] := by
  unfold State.clear; decide

theorem witness_NegotiationWords_fans :
    let s : State := { onCore (fun k => { k with running := some { unit := 9, req := 4, force := true } }) with units := [(9, { gang := some 1, recalled := some 4 })] }
    ∃ r, s.curCore.running = some r ∧ s.openRecall r = true ∧ r.force = true ∧ s.waiting r.unit = [] :=
  ⟨_, rfl, by decide, by decide, by decide⟩

/-- A request of the arbiter: of one facet with and without budget, of an array, and a release. -/
def asked (q : UnitReq) (us : SMap UnitHold := []) : State := { event 7 0 0 with unitReqs := [(7, q)], units := us }

theorem witness_Arbitration :
    (let q : UnitReq := { id := 7, src := 0, who := (0, 1), unit := 9, links := [⟨0x1000, 0x2000, 8, 8, 8⟩] };
      SMap.find (asked q).unitReqs 7 = some q ∧ q.waits = none ∧ (asked q).fits q.links 1 1 = true
        ∧ (q.candidates.find? fun u => (SMap.find (asked q).units u).isNone) = some 9 ∧ ∀ l ∈ q.links, l.use + 8 ≤ facetBase)
    ∧ (let q : UnitReq := { id := 7, src := 0, who := (0, 1), unit := 9, links := [⟨0x1000, 0x2000, 8, 0, 8⟩] }
      (asked q).fits q.links 1 1 = false)
    ∧ (let q : UnitReq := { id := 7, src := 0, who := (0, 1), unit := 4096 + 63 }
      (q.candidates.find? fun u => (SMap.find (asked q).units u).isNone) = some 4159)
    ∧ (let q : UnitReq := { id := 7, src := 0, who := (0, 1), unit := 9 }
      let s := asked q [(9, { gang := some 1 })]
      s.fits q.links 1 1 = true ∧ q.candidates.find? (fun u => (SMap.find s.units u).isNone) = none
        ∧ ∀ u ∈ q.candidates, s.reachable q 1 u = false ∧ s.reachable q 2 u = false)
    ∧ (let q : UnitReq := { id := 7, src := 3, who := (0, 1), unit := 9 }
      let s := asked q [(9, { gang := some 1, cls := 1 })]
      SMap.find (asked q).units q.unit = none ∧ s.unitPart { gang := some 1, cls := 1 } = some q.part ∧ s.waiting q.unit = []
        ∧ s.unitPart { gang := some 1, cls := 1 } ≠ some 1)
    ∧ (let q : UnitReq := { id := 7, src := 4, who := (0, 1), unit := 9 }
      SMap.find (asked q).units q.unit = none ∧ (SMap.find (asked q [(9, { gang := some 1 })]).units q.unit).isSome = true
        ∧ (asked q [(9, { gang := some 1 })]).waiting q.unit = []) := by decide

/-- A core with a recall before it and a routine; one whose routine runs; a unit whose FINISH is open. -/
theorem witness_SurrenderRoutines :
    (let s := event 0 0 0 0 [] (onCore fun k => { k with recalls := [{ unit := 9, req := 4 }], routine := 0x4000 });
      (s.core 0).recalls = [{ unit := 9, req := 4 }] ∧ s.routineReady 0 = true ∧ (s.ctxAt 0 0).pend = []
        ∧ s.routineHeld 0 = false ∧ (s.ctxAt 0 0).wait = .none)
    ∧ (let s := event 0 0 0 0 [] (onCore fun k => { k with recalls := [{ unit := 9, req := 4 }], routine := 0x4000, sibs := [⟨102, 0, 1, 0x10, 8, false, .store, 5, 0, 0⟩] });
      s.routineReady 0 = true ∧ s.routineHeld 0 = true ∧ (s.ctxAt 0 0).wait = .none)
    ∧ base.routineReady 0 = false ∧ (base.core (base.part (base.partOf 0)).sup).fifo15.length < 64
    ∧ (let s : State := { onCore (fun k => { k with running := some { unit := 9, req := 4 } }) with units := [(9, { gang := some 1, recalled := some 4, finish := true })] }
      (s.core 0).running = some { unit := 9, req := 4 } ∧ s.openRecall { unit := 9, req := 4 } = true ∧ s.waiting 9 = []
        ∧ (SMap.find s.units 9).isSome = true) := by decide

theorem frame_fits (s : State) (h : (s.core 0).regions = []) (h' : s.rbe 0 = false) : s.frameFits 0 0 :=
  ⟨regions_none h, fun h => by rw [h'] at h; cases h⟩

theorem witness_SurrenderRoutines_fits : base.frameFits 0 0 := frame_fits _ (by decide) (by decide)

/-- FIFO words: a command that fits, a full FIFO, four commands in the octant's codec; results present and absent. -/
theorem witness_FifoWords :
    (g1 0x100).clear [1] ∧ (g1 0x100).localWaits 0x100 = false ∧ localFault (g1 0x100) 0x100 32 = none ∧ base.clear []
    ∧ (g1 0x100).curCore.cmds.length < 16 ∧ localFault (g1 0x104) 0x104 32 = some 1
    ∧ (onCore fun k => { k with cmds := (List.range 16).map fun i => ⟨i, 0, 0, [], 0, 0, [], [], false, 0, 0, 0, 0, 0, [], [], [], none, 0, 0, 0, 0, false, false⟩ }).curCore.cmds.length = 16
    ∧ 4 ≤ (onCore fun k => { k with cmds := (List.range 4).map fun i => ⟨i, 0, 3, [], 0, 0, [], [], false, 0, 0, 0, 0, 0, [], [], [], none, 0, 0, 0, 0, false, false⟩ }).codecs 0
    ∧ (userLevel base).level 0 = 0 ∧ base.level base.cc ≠ 0
    ∧ (base.curCore.results.find? fun r => r.ctx == base.cx && r.fid == 1) = none
    ∧ ((onCore fun k => { k with results := [⟨3, 0, 1, 77⟩] }).curCore.results.find? fun r => r.ctx == 0 && r.fid == 1) = some ⟨3, 0, 1, 77⟩ := by
  unfold State.clear; decide

/-- Landing slots: armed, landing, ended; a landing tile that fits and an address that holds none. -/
def landingTile (l : Land) (v : Word := 0x100) : State :=
  (onCore fun k => { k with ls := [(0x100, 4), (0x101, 0x34)], land := [(2, l)], landSeen := [(2, l)] }).modCur fun t => { t with regs := [(1, v)] }

theorem witness_LandingWords :
    (landingTile {}).clear [1] ∧ (landingTile {}).localFree 0 = true ∧ localPlace 0 0x100 = some (0, 0x100 % 0x80000)
    ∧ ((landingTile {}).tile 0 0x100).tag = 4 ∧ ((landingTile {}).tile 0 0x100).fmt = 0x34
    ∧ 0x100 + tileLen 4 0x34 ((landingTile {}).tile 0 0x100).depth (blockWidth 0x34) ≤ 0x60000
    ∧ (landingTile {}).guarded 0 0x100 64 = false ∧ ((landingTile {}).tile 0 0x200).tag ≠ 4
    ∧ (SMap.get {} (landingTile { st := 2 }).curCore.land 2 : Land).st = 2
    ∧ localPlace 0 0x880000 ≠ some (0, 0x880000 % 0x80000) ∧ (0x110 : Nat) % 64 ≠ 0
    ∧ (SMap.get {} (landingTile { st := 2 }).curCore.landSeen 2 : Land).st = 2 ∧ (SMap.get {} base.curCore.landSeen 2 : Land).st = 0
    ∧ ((landingTile { cnt := 3, st := 2 } 3).opnd 1).toNat ≤ 3 ∧ ¬ ((landingTile { cnt := 2, st := 2 } 3).opnd 1).toNat ≤ 2 := by
  unfold State.clear; decide

/-- Core 0 with one command: its code, its other bytes by offset, and how far it has come. -/
def bytesOf (fs : List (Nat × Nat × Nat)) : List Byte := toBytes 32 (fs.foldl (fun n f => n + f.2.2 % 256 ^ f.2.1 * 256 ^ f.1) 0)
def engined (c : Cmd) : State := event 0 c.id 0 0 [] (onCore fun k => { k with cmds := [c] })
def command (fid : Nat) (fs : List (Nat × Nat × Nat)) : Cmd := { id := 5, ctx := 0, fid := fid, bytes := bytesOf fs, begun := true }

theorem openRange_of (s : State) (h : (s.core 0).regions = []) (h' : s.matrixBusy 0 = false) (a n : Nat)
    (h'' : a + n ≤ if s.rbe 0 then 0x58000 else 0x60000) : s.openRange 0 a n := ⟨regions_none h, h', h''⟩

/-- A code that its FID does not take; COPYL with words to write and with words to read. -/
theorem witness_EngineCommands :
    (let c : Cmd := { command 2 [(0, 1, 1)] with begun := false };
      (engined c).findCmd 0 (engined c).ev.b = some c ∧ c.id = (engined c).ev.b ∧ c.ended = false ∧ c.known = false ∧ (engined c).sides = [])
    ∧ (let c : Cmd := { command 0 [(0, 1, 2), (4, 4, 0x100), (8, 2, 0), (12, 4, 0x200), (16, 4, 8)] with buf := toBytes 8 7, rd := 8 };
      (engined c).findCmd 0 5 = some c ∧ c.code = 2 ∧ 0 = c.n 8 2 ∧ 0x200 = c.n 12 4 ∧ (0x200 + (if c.hdr then 64 else 0) + c.wr) % 8 = 0
        ∧ c.buf ≠ [] ∧ c.buf.length % 8 = 0 ∧ c.total ≤ c.rd ∧ ((engined c).core 0).copylHeld = false ∧ ((engined c).copyTurn 0 c).2 = true)
    ∧ (let c : Cmd := command 0 [(0, 1, 2), (4, 4, 0x100), (8, 2, 0), (12, 4, 0x200), (16, 4, 8)];
      c.buf = [] ∧ c.failed = false ∧ c.rd < c.total ∧ (c.n 4 4 + c.rd) % 8 = 0 ∧ c.total % 8 = 0 ∧ c.n 4 4 + c.total ≤ 0x60000) := by
  decide

/-- A GATHER row to deliver, GPRE at its end and before it, a HOTSET row read. -/
theorem witness_EngineCommands_rows :
    (let c : Cmd := { command 1 [(0, 1, 3), (16, 4, 1), (20, 4, 8), (24, 4, 0x200)] with idx := [3], rows := [(3, List.replicate 8 0)], rd := 1 };
      c.idx = [3] ∧ (c.rows.find? fun e => e.1 == 3) = some (3, List.replicate 8 0) ∧ c.n 16 4 ≤ c.rd ∧ 0 < c.rlen ∧ c.wr % 8 = 0
        ∧ c.rlen % 8 = 0 ∧ c.n 24 4 % 8 = 0 ∧ (List.replicate 8 (0 : Byte)).length = c.rlen)
    ∧ (let c : Cmd := { command 1 [(0, 1, 4), (16, 4, 1)] with rd := 1 };
      c.n 16 4 ≤ c.rd)
    ∧ (command 1 [(0, 1, 4), (16, 4, 1)]).rd < (command 1 [(0, 1, 4), (16, 4, 1)]).n 16 4 := by decide

/-- A HOTSET row that is read, with room for it in a facet; codec blocks: stored whole, all zero, and the last row of a block tile. -/
theorem witness_EngineCommands_codec :
    (let h : HotSet := { gang := 1, core := 0, tbase := 0, rstr := 4096, rlen := 4096, facets := [9] };
      h.core = 0 ∧ h.gang = (base.core 0).gang.getD 0 ∧ h.asked = 0 ∧ h.room = some (facetBase + 65536 * 9))
    ∧ (∀ table pad, compressBlock 1 table [1] pad = (1024, [1])) ∧ (∀ table, expandBlock 1 table 0 [] = (List.replicate 1024 0, true))
    ∧ (let c : Cmd := { command 3 [(0, 1, 6), (1, 1, 8), (8, 4, 0x400), (12, 4, 0x200), (16, 1, 1)] with rd := 1, buf := [1] };
      c.kind = 1 ∧ c.wr < c.n 16 1 ∧ c.rd = c.wr + 1 ∧ c.n 12 4 % 2 = 0 ∧ c.n 12 4 + 2 ≤ c.n 8 4 ∧ c.n 8 4 + 1024 ≤ 0x60000)
    ∧ (let c : Cmd := { command 3 [(0, 1, 6), (1, 1, 3), (8, 4, 0x400)] with wr := 32 };
      c.wr = 32 ∧ c.n 8 4 + 64 ≤ 0x60000)
    ∧ (let c : Cmd := { command 3 [(0, 1, 6), (4, 4, 0x100), (8, 4, 0x400)] with cur := some (2 + 16 * 0x28 + 4096 * 16), rd := 32, wr := 31, buf := List.replicate 64 1 };
      c.cur = some (2 + 16 * 0x28 + 4096 * 16) ∧ c.wr < 32 ∧ c.rd = c.wr + 1 ∧ c.buf.length = 4 * 16 ∧ c.n 8 4 + c.wr * (4 * 16) + 4 * 16 ≤ 0x60000
        ∧ c.n 4 4 + 64 ≤ 0x60000) :=
  ⟨by decide, fun _ _ => rfl, fun _ => rfl, by decide, by decide, by decide⟩

theorem witness_EngineCommands_range :
    (engined (command 0 [])).openRange 0 0x200 8 ∧ (engined (command 3 [])).openRange 0 0x5FC00 1024 :=
  ⟨openRange_of _ (by decide) (by decide) _ _ (by decide), openRange_of _ (by decide) (by decide) _ _ (by decide)⟩

/-- A row of sixteen zeros that a block encoder has read: its pieces, apart from each other, and room for them. -/
theorem witness_EngineCommands_rowEncode :
    let c : Cmd := { command 3 [(0, 1, 6), (8, 4, 0x400), (20, 1, 3), (21, 1, 0x28)] with rd := 6, wr := 5, buf := List.replicate 64 0 }
    let pieces := rowPieces 3 8 16 5 [0] (List.replicate 16 0)
    c.hTag = 3 ∧ blockWidth c.hFmt = 8 ∧ c.hK = 16 ∧ c.wr < 32 ∧ c.rd = c.wr + 1 ∧ c.buf.length = 4 * c.hK
      ∧ encodeRow 3 8 (c.flg / 32 % 2) ((List.range 16).map fun k => ofBytes ((c.buf.drop (4 * k)).take 4)) = ([0], List.replicate 16 0, 0)
      ∧ (∀ p ∈ pieces, p.2 ≠ [] ∧ 0x400 + p.1 + p.2.length ≤ 0x60000)
      ∧ pieces.Pairwise (fun p q => p.1 + p.2.length ≤ q.1 ∨ q.1 + q.2.length ≤ p.1) := by decide

/-- A collective of one branch: its first section to send, all of them sent, and its end. -/
def collective (x : Xfer) (c : Cmd := { command 5 [(0, 1, 0x10), (4, 4, 0x100)] with xfer := 9 }) : State :=
  { engined c with xfers := [(9, x)] }

theorem witness_Collectives :
    (let x : Xfer := { core := 0, w := 4, ks := 0, branches := [{ core := 1, slot := 2 }] };
      SMap.find (collective x).xfers 9 = some x ∧ x.sent ≤ x.w ∧ x.stopped = false ∧ (0x100 + sectionAt x.ks x.sent) % 8 = 0
        ∧ 0x100 + sectionAt x.ks x.sent + sectionLen x.ks x.sent ≤ 0x60000)
    ∧ (let x : Xfer := { core := 0, w := 4, ks := 0, sent := 5, branches := [{ core := 1, slot := 2, known := true }] };
      x.w < x.sent ∧ ∀ v ∈ x.branches, v.known = true)
    ∧ (∃ v, (({ core := 0, w := 4, ks := 0, branches := [{ core := 1, slot := 2 }] } : Xfer).branches[0]?) = some v ∧ v.known = false)
    ∧ base.enginesRun 0 = true ∧ (base.core 0).scatters = [] ∧ 1 < (2 : Word).toNat := by
  refine ⟨by decide, by decide, ⟨_, rfl, rfl⟩, by decide, by decide, by decide⟩

/-- A reduce-scatter of two members, as it begins, and its first chunk. -/
theorem witness_Collectives_prscat :
    let c : Cmd := { command 5 [(0, 1, 0x12), (4, 4, 0x400), (8, 1, 2), (9, 1, 2), (12, 4, 0x200)] with xfer := 0 }
    let s : State := { onCore (fun k => { k with cmds := [c], ls := [(0x200, 1)] }) with cores := SMap.put (onCore fun k => { k with cmds := [c], ls := [(0x202, 1)] }).cores 1 { gang := some 1 } }
    s.membersAt 0 c = some ([0, 1], 0) ∧ prscatOk 0 s c = true ∧ c.known = true ∧ ([0, 1] : List Nat)[c.rd]? = some 0 ∧ c.n 4 4 % 8 = 0
      ∧ ({ c with idx := [0, 1], cur := some 0 } : Cmd).idx[c.rd]? = some 0 ∧ c.n 4 4 + 128 * c.pK ≤ 0x60000 := by decide

/-- A unit of an engine block under the recall that the event names. -/
theorem witness_Collectives_surrender :
    let h : UnitHold := { agent := some (2, 0), recalled := some 4 }
    let s : State := { event 9 0 4 with units := [(9, h)], hots := [(0, { gang := 1, core := 0, tbase := 0, rstr := 4096, rlen := 4096, facets := [9] })] }
    SMap.find s.units s.ev.a = some h ∧ h.underRecall s.ev.c = true ∧ h.gang = none ∧ s.waiting 9 = [] ∧ SMap.find s.hots 0 ≠ none := by decide

/-- A section in order for a slot bound to its branch; one for an armed slot of its shape; one for a slot of another; a late one. -/
theorem witness_Collectives_landing :
    let x : Xfer := { core := 1, w := 4, ks := 0, branches := [{ core := 0, slot := 2, got := 1 }] }
    let s : State := { event 9 0 1 0 (List.replicate 64 7) (landingTile { cnt := 1, st := 2, w := 4, addr := 0x100, xfer := 9, branch := 0 }) with xfers := [(9, x)] }
    SMap.find s.xfers 9 = some x ∧ x.branches[0]? = some { core := 0, slot := 2, got := 1 } ∧ s.lands 0 = true
      ∧ x.dev = none ∧ (s.myTurn (s.sectionTurn 9 0 1 x { core := 0, slot := 2, got := 1 })).2 = true
      ∧ (SMap.get {} (s.core 0).land 2 : Land).st = 2 ∧ (SMap.get {} (s.core 0).land 2 : Land).xfer = 9 ∧ s.ev.data.length % 8 = 0 ∧ 0 < s.ev.data.length
      ∧ 0x100 + sectionAt 0 1 + 64 ≤ 0x60000 ∧ s.matrixBusy 0 = false
      ∧ (let l : Land := SMap.get {} (landingTile { st := 1, w := 4 }).curCore.land 2; l.st = 1 ∧ l.w = x.w ∧ l.ks = x.ks)
      ∧ ¬ (SMap.get {} (landingTile {}).curCore.land 2 : Land).st = 1 := by decide

/-- The cores of gang 1 with its control contexts at a sync, and what its group holds. -/
def group (v : Group) (ex : Exch := {}) (out : Bool := false) : State :=
  let k : CoreState := { gang := some 1, ex := ex, ctxs := [(0, { status := if out then .free else .running, wait := .sync 0x3F })] }
  { event 1 0 0 0 [] with cores := (List.range 8).map fun i => (i, k), gangs := [(1, { placedGang with groups := [(0, v)] })] }
def everyone : List (Nat × Nat) := (List.range 8).map fun i => (i, 90)

/-- sync.c and sync.x: ready in either phase, not ready, a helper alive, outside its scope. -/
theorem witness_SyncWords_issue :
    base.clearAny [0] ∧ base.clearAny [] ∧ base.cur.vqc = 0 ∧ base.cur.enc = 0 ∧ base.cur.mpend = 0 ∧ base.cur.ld = [] ∧ base.cur.stq = []
    ∧ base.cur.localAt = 0 ∧ base.cx = 0 ∧ base.curCore.ex.phase = false ∧ (onCore fun k => { k with ex := { phase := true } }).curCore.ex.phase = true
    ∧ base.curCore.gang = some 1 ∧ (base.gang 1).chain.ssc = (3 : BitVec 2).toNat ∧ base.groupKey 0 = some (1, 0)
    ∧ (∀ x ∈ base.curCore.ctxs, ¬ (x.1 ≠ 0 ∧ x.2.status ≠ .free))
    ∧ (∃ x ∈ (onCore fun k => { k with ctxs := k.ctxs ++ [(1, { status := .running })] }).curCore.ctxs, x.1 ≠ 0 ∧ x.2.status ≠ .free)
    ∧ (onCtx fun t => { t with vqc := 1 }).cur.vqc ≠ 0 ∧ base.accessing base.cc base.cx = false
    ∧ (onCore fun k => { k with sibs := [⟨102, 0, 1, 0x10, 8, false, .store, 5, 0, 0⟩] }).accessing 0 0 = true := by
  unfold State.clearAny; decide

/-- A route table that binds input 0 to core 3, one with an entry of a core outside the group, and one out of the store. -/
theorem witness_SyncWords_routes :
    (let s := onCore fun k => { k with ls := [(0x100, 3), (0x101, 0x80)] };
      ofBytes (s.curCore.lbytes 0x100 2) = 2 ^ 15 + 3 ∧ 3 ∈ s.members 1 0 ∧ localFault s 0x100 16 = none
        ∧ localPlace s.cc 0x100 = some (s.cc, 0x100))
    ∧ 9 ∉ base.members 1 0 ∧ localFault base 0x60000 16 = some 2 ∧ localFault base 0x104 16 = some 1 := by decide

theorem witness_SyncWords_arrival :
    (base.members 1 0) = [0, 1, 2, 3, 4, 5, 6, 7] ∧ (∃ m ∈ base.members 1 0, m ≠ base.cc)
    ∧ (∀ m ∈ (group { arrived := everyone }).members 1 0, ∃ e ∈ ((group { arrived := everyone }).group 1 0).arrived, e.1 = m) := by decide

/-- The releases: everyone has arrived and none is held back; someone has not; a timeout that is due, and one that is not. -/
theorem witness_SyncWords_release :
    (let s := group { arrived := everyone };
      (s.members 1 0).Nodup ∧ (∀ m ∈ s.members 1 0, ∃ e ∈ (s.group 1 0).arrived, e.1 = m) ∧ s.heldBack 1 0 = false ∧ (s.ctxAt 5 0).wait = .sync 0x3F)
    ∧ (∃ m ∈ (group {}).members 1 0, ∀ e ∈ ((group {}).group 1 0).arrived, e.1 ≠ m)
    ∧ (let s := group { arrived := everyone } { phase := true };
      (∃ m ∈ s.members 1 0, (s.core m).ex.phase = true) ∧ s.halts = [] ∧ ∀ m ∈ s.members 1 0, m ∉ (s.group 1 0).late → ∃ e ∈ (s.group 1 0).arrived, e.1 = m)
    ∧ (let s := group { startAt := 0 } { phase := true };
      (s.group 1 0).startAt = s.ev.c ∧ s.halts = [] ∧ (∃ m ∈ s.members 1 0, (s.core m).ex.phase = true ∧ ∀ e ∈ (s.group 1 0).arrived, e.1 ≠ m)
        ∧ (s.ctxAt 3 0).status = .running ∧ s.entryHeld 3 0 = false ∧ (s.ctxAt 3 0).rt = false ∧ (s.ctxAt 3 0).ih = false ∧ (s.core 3).tvec = 0
        ∧ ((group { startAt := 0 } { phase := true } true).ctxAt 3 0).status ≠ .running)
    ∧ ((group { startAt := 4 }).group 1 0).startAt ≠ (group { startAt := 4 }).ev.c := by decide

/-- In an exchange phase: a word to send, a bound input with a word, with none, and an input that is not bound. -/
def exchanging (qs : SMap (List Word)) (binds : SMap Nat := [(3, 1)]) : State :=
  (onCore fun k => { k with ex := { phase := true, binds := binds, queues := qs } }).modCur fun t => { t with regs := [(1, 0x100)] }

theorem witness_ExchangeWords :
    (g1 0x100).clear [1] ∧ (g1 0x100).localWaits 0x100 = false ∧ (exchanging []).clearAny [1] ∧ (exchanging []).inExchange = true
    ∧ (exchanging []).localWaits 0x100 = false ∧ localFault (exchanging []) 0x100 8 = none ∧ localPlace 0 0x100 = some (0, 0x100)
    ∧ SMap.find (exchanging []).curCore.ex.binds 3 ≠ none ∧ SMap.find (exchanging []).curCore.ex.binds 2 = none
    ∧ SMap.get [] (exchanging []).curCore.ex.queues 3 = [] ∧ SMap.get [] (exchanging [(3, [7])]).curCore.ex.queues 3 = [7]
    ∧ (exchanging []).guarded 0 0x100 8 = false ∧ (exchanging []).groupKey 0 = some (1, 0)
    ∧ 0 ∈ (exchanging []).members 1 0 ∧ (3, 0) ∈ ((exchanging [] [(3, 0)]).core 0).ex.binds
    ∧ localFault (exchanging []) 0x104 8 = some 1 := by
  unfold State.clear State.clearAny; decide

/-- xmit of a word of a sibling store, at its issue and as it performs. -/
theorem witness_ExchangeWords_sibling :
    localFault (exchanging []) 0x880000 8 = none ∧ localPlace 0 0x880000 = some (1, 0) ∧ (exchanging []).localWaits 0x880000 = false
    ∧ ({ due := 103, ctx := 0, target := 1, addr := 0, width := 8, signed := false, op := .xmit, v := 0, u := 0, id := 0 } : Sib).op = .xmit := by decide

/-- A word that arrives at an input with room, and at one that holds sixteen. -/
theorem witness_ExchangeWords_arrival :
    (let s := event 0 3 0 7 [] (exchanging []);
      s.ev.c ≠ 1 ∧ (s.core 0).ex.phase = true ∧ (s.core 0).ex.waiting = [] ∧ s.cal = [] ∧ (SMap.get [] (s.core 0).ex.queues 3).length < 16)
    ∧ 16 ≤ (SMap.get [] ((exchanging [(3, List.replicate 16 0)]).core 0).ex.queues 3).length ∧ (base.core 0).ex.phase = false
    ∧ base.clearAny [1] ∧ base.groupKey 0 = some (1, 0) ∧ base.inExchange = false
    ∧ (0x1000 + 4096 * 2 ≤ 0x58000 ∧ 0x1000 % 4096 = 0) ∧ ((0x800 : Nat) % 4096 ≠ 0) := by
  unfold State.clearAny; decide

/-- An error that may be repeated, one that may not, and a gang that is resident. -/
theorem witness_Errors :
    (let s := (group { rbc := 1 }).modGang 1 fun g => { g with chain := { g.chain with rbe := true } };
      s.groupKey 0 = some (1, 0) ∧ (s.gang 1).chain.rbe = true ∧ (s.group 1 0).unr = false ∧ (s.group 1 0).rbc < 2)
    ∧ ¬ ((group { rbc := 2 }).group 1 0).rbc < 2 ∧ (group {}).residentGang 1 = true ∧ (group {}).residentGang 2 = false
    ∧ (coresOf ((group {}).gang 1).octs).Nodup ∧ (∀ o ∈ ((group {}).gang 1).octs, o < 256)
    ∧ (∀ c ∈ coresOf ((group {}).gang 1).octs, ((group {}).core c).running = none) ∧ (group {}).cal = []
    ∧ ({ gang := 1, group := 0, line := 8, pre := List.replicate 64 0 } : JRec).keyed = none
    ∧ (({ gang := 1, group := 0, line := 8, pre := List.replicate 64 0 } : JRec)).pre.length = 64 ∧ 64 * 8 + 64 ≤ facetBase := by decide

/-- Errors of a line of memory: two bad positions are corrected, a third one is not; nor is an error that no line has. -/
theorem witness_Errors_lines :
    (let bad := (([3, 9, 3] : List Byte).map BitVec.toNat).eraseDups;
      bad = [3, 9] ∧ 2 * (bad.filter fun p => p ∉ ([] : List Nat)).length + 0 ≤ 4)
    ∧ (let bad := (([3, 9, 10] : List Byte).map BitVec.toNat).eraseDups;
      ¬ 2 * (bad.filter fun p => p ∉ ([] : List Nat)).length + 0 ≤ 4 ∧ 2 * (bad.filter fun p => p ∉ [9, 10]).length + 2 ≤ 4)
    ∧ SMap.get [] base.md.repair 0 = ([] : List Nat) ∧ base.ev.b = 0 := by decide

theorem witness_LaunchWords :
    (writableAt 0x10040 7).clear [1] ∧ (writableAt 0x10040 7).cur.ld = [] ∧ (writableAt 0x10040 7).cur.stq = []
    ∧ (writableAt 0x10040 7).cur.enc = 0 ∧ (g12 0x100 5).clear [1, 2] ∧ (g12 0x100 5).localWaits 0x100 = false
    ∧ 0x100 % 16 = 0 ∧ 0x100 + 128 ≤ 0x58000 ∧ (0x108 : Nat) % 16 ≠ 0
    ∧ (onCtx fun t => { t with enc := 1 }).cur.enc ≠ 0 := by
  unfold State.clear; decide

theorem witness_LaunchWords_go : goesTo (writableAt 0x10040 7) 0x10040 64 1 (.here 0x10040) ∧ goesTo base (2 ^ 51 + 3 * 2 ^ 42) 64 1 (.away 3) :=
  ⟨⟨by decide, .inl ⟨by decide, _, _, by rfl, rfl⟩⟩, by decide, .inr ⟨by decide, by decide⟩⟩

/-- schsel over a table of zeros: no row fits, and 0 is the answer. -/
theorem witness_LaunchWords_schsel :
    (∀ i, i < 8 → ¬ (ofBytes (base.curCore.lbytes (0x100 + 16 * i + 8) 8) ≠ 0 ∧ 5 ≤ ofBytes (base.curCore.lbytes (0x100 + 16 * i) 8)))
    ∧ settled base 0 := ⟨by decide, settled_here _ (by decide) 0⟩

/-- Helpers: all free, one ended, all in use; the last core of a gang to end. -/
theorem witness_Helpers :
    (g1 3).clear [1] ∧ base.clear [] ∧ (base.cur.localAt ≤ base.now ∧ base.accessing base.cc base.cx = false) ∧ base.cx = 0 ∧ (base.curCore.ctx 1).status = .free
    ∧ (∀ x, 1 ≤ x → x ≤ 10 → ((onCore fun k => { k with ctxs := k.ctxs ++ (List.range 10).map fun i => (i + 1, { status := .running }) }).curCore.ctx x).status ≠ .free)
    ∧ (let k := (onCore fun k => { k with ctxs := k.ctxs ++ [(3, { status := .ended, issuedAt := 90 })] }).curCore;
      (k.ctx 3).status = .ended ∧ (k.ctx 3).issuedAt < base.now)
    ∧ ((onCore fun k => { k with ctxs := k.ctxs ++ [(3, { status := .running })] }).curCore.ctx 3).status ≠ .ended
    ∧ base.cur.vqc = 0 ∧ base.cur.enc = 0 ∧ base.cur.mpend = 0 ∧ base.cur.ld = [] ∧ base.cur.stq = [] ∧ base.cur.rt = false
    ∧ base.curCore.gang = some 1 ∧ (base.gang 1).ended.length + 1 ≠ 8 * (base.gang 1).octs.length
    ∧ ((base.modGang 1 fun g => { g with ended := [1, 2, 3, 4, 5, 6, 7] }).gang 1).ended.length + 1 = 8 * (base.gang 1).octs.length := by
  unfold State.clear
  refine ⟨by decide, by decide, by decide, by decide, by decide, fun x h h' => ?_, by decide, by decide, by decide, by decide, by decide,
    by decide, by decide, by decide, by decide, by decide, by decide⟩
  interval_cases x <;> decide

/-- A gang number is free wherever some number from 1 to 4095 is. -/
theorem gangNumber_free (s : State) (n : Nat) (h : n < 4095) (h' : SMap.find s.gangs (n + 1) = none) : ∃ g, s.gangNumber = some g := by
  unfold State.gangNumber
  have m : n ∈ (List.range 4095).filter fun i => (SMap.find s.gangs (i + 1)).isNone := by
    rw [List.mem_filter, h']
    exact ⟨List.mem_range.mpr h, rfl⟩
  revert m
  generalize (List.range 4095).filter (fun i => (SMap.find s.gangs (i + 1)).isNone) = ns
  intro m
  cases ns with
  | nil => cases m
  | cons x xs =>
    simp only [List.isEmpty_cons, Bool.false_eq_true, if_false]
    rw [List.getElem?_eq_getElem (Nat.mod_lt _ (by simp))]
    exact ⟨_, rfl⟩

/-- A launch of one octant that has reached the scheduler: page tables, an RCB of the root with a budget of `n` cores, a descriptor. -/
def launched (n : Nat) (entry : Nat := 0x10000) (more : List (Nat × Nat) := []) : State :=
  let put (m : Mem) (e : Nat × Nat × Nat) : Mem := Mem.putBytes m e.1 (toBytes e.2.1 e.2.2)
  let m := [(0x8000, 8, 0x10001), (0x10000, 8, 0x18001), (0x18000, 8, 0x1F), (0x30014, 1, n), (0x20000, 2, 0),
    (0x20002, 1, 3), (0x2000A, 1, entry / 65536), (0x20008, 1, entry % 65536), (0x20018, 1, 1), (0x2001A, 1, 1), (0x2001C, 1, 1)].foldl put []
  let m := (more.map fun e => (0x20000 + e.1, 1, e.2)).foldl put m
  { event 7 0 0 with
    spaces := [(1, { ptb := 0x8000, oldPtb := 0x8000 })], mem := m,
    sched := [(7, { id := 7, core := 0, ctx := 0, gang := 1, asid := 1 })],
    reqs := [(7, { kind := .load, core := 0, ctx := 0, id := 7, va := 0x20000, pa := 0x20000, width := 64, asid := 1 })] }

/-- The chain, the placement and the gang number that a launch of one octant meets. -/
def launchedFits (n : Nat) : Bool :=
  match parseStart ((launched n).gread 0x20000 64), ({ launched n with reqs := [] } : State).readChain (some 1) 1 0x30000 with
  | some d, some (ch, top, s1) =>
    d.rcb == 0x30000 && !d.host && !d.tooBig ch.rbe && ch.pri == 0 && d.octants == 1 && !d.pmode && d.limg == 0
      && (s1.takeSups ch top).useId.fits ch.links 0 8 && (s1.takeSups ch top).useId.octsFor ch d == some [1]
      && (SMap.find (s1.takeSups ch top).useId.gangs 2).isNone
  | _, _ => false

set_option maxRecDepth 40000 in
/-- A well-formed start that may be placed, one without budget, one with a misaligned entry. -/
theorem witness_Starts :
    (∃ q r, SMap.find (launched 8).sched 7 = some q ∧ q.id = 7 ∧ q.stage = .sent ∧ q.node = false
      ∧ SMap.find (launched 8).reqs 7 = some r ∧ (launched 8).rejects r = none)
    ∧ bitsOf ((launched 8).gread 0x20000 64) 244 2 = 0 ∧ launchedFits 8 = true ∧ launchedFits 7 = false
    ∧ parseStart ((launched 8 0x10002).gread 0x20000 64) = none :=
  ⟨⟨_, _, rfl, rfl, rfl, rfl, rfl, by decide⟩, by decide, by decide, by decide, by decide⟩

/-- What a predicate says of the descriptor, the chain and the state after it that a start meets; false where it is malformed. -/
def startMeets (s : State) (p : Descr → Chain → State → Bool) : Bool :=
  match parseStart (s.gread 0x20000 64), ({ s with reqs := [] } : State).readChain (some 1) 1 0x30000 with
  | some d, some (ch, top, s1) => d.rcb == 0x30000 && !d.host && p d ch (s1.takeSups ch top).useId
  | _, _ => false

set_option maxRecDepth 40000 in
/-- Starts of 257 octants, of none, of one outside the octant set, and of one that is taken and not waited for; one above its permission; an
RCB at an address that is no multiple of 64. -/
theorem witness_Starts_refused :
    startMeets (launched 8 0x10000 [(25, 1)]) (fun d ch _ => d.tooBig ch.rbe) = true
    ∧ startMeets (launched 8 0x10000 [(24, 0)]) (fun d ch _ => !d.tooBig ch.rbe && d.octants == 0 && !d.gdn && d.caddr == 0) = true
    ∧ startMeets ((launched 8 0x10000 [(30, 0x40), (31, 5)]).modPart 0 fun p => { p with pom0 := 1 })
        (fun d ch s => d.pmode && d.octants == 1 && !(s.part ch.part).hasOct d.foct) = true
    ∧ startMeets (launched 8 0x10000 [(30, 0xC0)]) (fun d ch s => d.nowait && s.fits ch.links 0 8 && (s.part ch.part).hasOct d.foct && s.octsFor ch d == none) = true
    ∧ startMeets (launched 8) (fun _ ch _ => ({ id := 7, core := 0, ctx := 0, gang := 1, asid := 1, part := 3 } : SchedReq).permitted ch == false) = true
    ∧ (launched 8).readChain (some 1) 1 0x30001 = none ∧ bitsOf ((launched 8 0x10002).gread 0x20000 64) 355 1 = 0 := by
  refine ⟨by decide, by decide, by decide, by decide, by decide, by decide, by decide⟩

/-! The schedule of gangs: a running gang, one that is stopped with everything drained, one that is out. -/
def switched (st : GangStatus) (saved : List (Nat × CoreState) := []) (ended : List Nat := []) (fail : Bool := false) : State :=
  let k : CoreState := { gang := some 1, ctxs := [(0, { status := .running })] }
  { event 7 7 0 0 [] with
    cores := (List.range 8).map fun i => (i, k)
    gangs := [(1, { placedGang with status := st, saved := saved, ended := ended, fail := fail, stopBy := some 7, resumeBy := some 7, tags := List.replicate 8 0 })]
    spaces := [(1, { ptb := 0x8000, oldPtb := 0x8000 })], mem := Mem.putBytes (Mem.putBytes base.mem 0x8000 (toBytes 8 0x10301)) 0x10000 (toBytes 8 0x31F)
    sched := [(7, { id := 7, core := 0, ctx := 0, gang := 1, gid := 1, asid := 1, save := 0x4000000 })] }

/-! A save area that page tables map to where they do not lie can be read and written whole. -/
def mapped (s : State) : Prop :=
  s.gread 0x8000 8 = 0x10301 ∧ s.gread 0x10000 8 = 0x31F ∧ s.space 1 = { ptb := 0x8000, oldPtb := 0x8000 }
    ∧ s.watches = []

theorem walk_mapped {s : State} (h : mapped s) (va : Nat) (hv : va < 2 ^ 30) :
    s.walk 1 va = .leaf 0x31F 0x10000 2 [0x10000, 0x8000] := by
  have i3 : vaIndex 3 va = 0 := by simp only [vaIndex, bitsOf]; omega
  have i2 : vaIndex 2 va = 0 := by simp only [vaIndex, bitsOf]; omega
  have pb : s.ptbOf 1 = 0x8000 := by unfold State.ptbOf State.either; rw [h.2.2.1]; simp [bitsOf]
  unfold State.walk
  rw [pb, State.walkFrom]
  simp only [i3, Nat.mul_zero, Nat.add_zero, h.1]
  rw [if_neg (by decide), if_neg (by decide), if_neg (by decide), show ptePfn 0x10301 = 0x10000 from rfl, State.walkFrom]
  simp only [i2, Nat.mul_zero, Nat.add_zero, h.2.1, Nat.reduceSub]
  rw [if_neg (by decide), if_neg (by decide), if_pos (by decide)]

theorem markUsed_mapped {s : State} (h : mapped s) (w : Bool) : s.markUsed w [0x10000, 0x8000] = s := by
  simp only [State.markUsed, List.foldl, h.2.1]
  cases w <;> simp [h.1]

theorem xlateFor_mapped {s : State} (h : mapped s) (va need : Nat) (hv : va < 2 ^ 30) (hn : need = 1 ∨ need = 2) :
    s.xlateFor (some 1) 1 va need = .ok (va, s) := by
  have wd : s.window 1 va = none := by unfold State.window State.either; rw [h.2.2.1]; simp
  have p : permit need 0x31F = none := by rcases hn with rfl | rfl <;> decide
  have l : ptePfn 0x31F + va % leafSize 2 0x31F = va := by simp [ptePfn, leafSize, bitsOf]; omega
  unfold State.xlateFor
  simp only [if_neg (show ¬ 2 ^ 52 ≤ va by omega), if_neg (show ¬ 2 ^ 51 ≤ va by omega), wd, walk_mapped h va hv, p, l, markUsed_mapped h]

theorem readPages_mapped {s : State} (h : mapped s) (n va : Nat) (hv : va + 4096 * n ≤ 2 ^ 30) :
    s.readPages (some 1) 1 va n = some s := by
  induction n generalizing va with
  | zero => rfl
  | succ n ih =>
    unfold State.readPages
    rw [xlateFor_mapped h va 1 (by omega) (.inl rfl)]
    exact ih (va + 4096) (by omega)

theorem get_spliced (l m n : Mem) (x lo : Nat) (hx : x < lo) (hm : ∀ e ∈ m, lo ≤ e.1) (hn : ∀ e ∈ n, lo ≤ e.1) :
    SMap.get Mem.dflt (l.filter (fun e => e.1 < lo) ++ m ++ n) x = SMap.get Mem.dflt l x := by
  have none_ : ∀ k : Mem, (∀ e ∈ k, lo ≤ e.1) → SMap.get Mem.dflt k x = Mem.dflt := fun k => by
    induction k with
    | nil => exact fun _ => rfl
    | cons e k ih =>
      intro h
      rw [SMap.get, if_neg (fun q => by have := h e List.mem_cons_self; omega), ih fun f hf => h f (List.mem_cons_of_mem _ hf)]
  induction l with
  | nil => exact none_ _ fun e he => (List.mem_append.mp he).elim (hm e) (hn e)
  | cons e l ih =>
    by_cases q : e.1 < lo
    · rw [List.filter_cons_of_pos (by simpa using q), List.cons_append, List.cons_append, SMap.get, SMap.get, ih]
    · rw [List.filter_cons_of_neg (by simpa using q), ih, SMap.get, if_neg (by omega)]

theorem writePage_alone {s : State} (h : s.watches = []) (pa : Nat) :
    s.writePage pa = { (s.keepStale pa 4096).renew with
      mem := s.mem.filter (fun e => e.1 < pa) ++ freePage s.fresh pa ++ s.mem.filter fun e => pa + 4096 ≤ e.1 } := by
  have w (t : State) (q : t.watches = []) (ls : List Nat) : ls.foldl State.wakeLine t = t := by
    induction ls with
    | nil => rfl
    | cons l ls ih => rw [List.foldl_cons, show t.wakeLine l = t by unfold State.wakeLine; rw [q]; rfl, ih]
  unfold State.writePage
  dsimp only
  rw [w]
  · rfl
  · exact h

theorem mapped_writePage {s : State} (h : mapped s) (pa : Nat) (hp : 0x20000 ≤ pa) : mapped (s.writePage pa) := by
  rw [writePage_alone h.2.2.2]
  have r : ∀ a, a + 8 ≤ 0x20000 → State.gread { (s.keepStale pa 4096).renew with
      mem := s.mem.filter (fun e => e.1 < pa) ++ freePage s.fresh pa ++ s.mem.filter fun e => pa + 4096 ≤ e.1 } a 8 = s.gread a 8 := fun a ha => by
    unfold State.gread State.gbytes
    refine congrArg _ (List.map_congr_left fun i hi => ?_)
    have := List.mem_range.mp hi
    refine get_spliced s.mem (freePage s.fresh pa) (s.mem.filter fun e => pa + 4096 ≤ e.1) _ pa (by omega) (fun e he => ?_) fun e he => ?_
    · unfold freePage at he
      obtain ⟨i, -, rfl⟩ := List.mem_map.mp (List.mem_filter.mp he).1
      exact Nat.le_add_right _ _
    · have := (List.mem_filter.mp he).2
      simp at this; omega
  exact ⟨(r _ (by decide)).trans h.1, (r _ (by decide)).trans h.2.1, h.2.2.1, h.2.2.2⟩

theorem writePages_mapped {s : State} (h : mapped s) (n va f : Nat) (lo : 0x20000 ≤ va) (hv : va + 4096 * n ≤ 2 ^ 30) :
    ∃ t, s.writePages (some 1) 1 va f n = some t := by
  induction n generalizing va f s with
  | zero => exact ⟨_, rfl⟩
  | succ n ih =>
    unfold State.writePages
    have q1 : 0x20000 ≤ va + 4096 := Nat.le_add_right_of_le lo
    have q2 : va + 4096 + 4096 * n ≤ 2 ^ 30 := by omega
    rw [xlateFor_mapped h va 2 (by omega) (.inr rfl)]
    dsimp only
    split
    · exact ih (s := s.renew) h (va + 4096) (f - 1) q1 q2
    · exact ih (mapped_writePage h va lo) (va + 4096) (f - 1) q1 q2

theorem switched_mapped : mapped (switched .out) ∧ mapped (switched .stopping) := by unfold mapped; decide

/-- The save area of the gang that is out, and of the one that is stopped, of eight cores. -/
theorem witness_Gangs_area :
    (switched .out).readPages (some 1) 1 0x4000000 (savePages 8) = some (switched .out)
    ∧ (∃ t, (switched .stopping).writePages (some 1) 1 0x4000000 (128 * 8) (savePages 8) = some t)
    ∧ (switched .out).readPages (some 1) 0 0x4000000 (savePages 8) = none := by
  refine ⟨readPages_mapped switched_mapped.1 _ _ (by decide), writePages_mapped switched_mapped.2 _ _ _ (by decide) (by decide), ?_⟩
  rw [show savePages 8 = 5247 + 1 from rfl, State.readPages]
  rfl

theorem witness_Gangs_requests :
    (∃ q, SMap.find (switched .running).sched 7 = some q ∧ q.id = 7 ∧ q.node = false ∧ q.gid = 1 ∧ (switched .running).ev.a = 7)
    ∧ SMap.find (switched .running).gangs 1 ≠ none ∧ ((switched .running).gang 1).status = .running ∧ ((switched .running).gang 1).fail = false
    ∧ ((switched .out).gang 1).status = .out ∧ (switched .out).tagsAt (some 1) 1 0x4000000 8 = some ((switched .out).gang 1).tags
    ∧ (∀ o ∈ ((switched .out).gang 1).octs, o ∉ (switched .out).taken) ∧ ((switched .out).gang 1).saved = [] ∧ (switched .out).viral = false
    ∧ (switched .out).tagsAt (some 1) 1 0x4000000 8 ≠ some (List.replicate 8 1) ∧ (switched .running).stopped 3 = false := by
  refine ⟨⟨_, rfl, by decide⟩, by decide, by decide, by decide, by decide, by decide, by decide, by decide, by decide, by decide, by decide⟩

/-- The first issue of a gang that was placed: it is resident and runs, or it is not. -/
theorem witness_Starts_issue :
    (let s := event 7 1 2 0 [] (switched .running)
      ∃ q, SMap.find s.sched s.ev.a = some q ∧ q.id = s.ev.a ∧ q.node = false ∧ q.descr.host = false ∧ s.ev.c = 2
        ∧ s.residentGang s.ev.b = true ∧ ∀ c ∈ coresOf (s.gang s.ev.b).octs, s.stopped c = false)
    ∧ (switched .out).residentGang 1 = false ∧ (launched 8).ev.c = 0 ∧ (launched 8).viral = false := by
  refine ⟨⟨_, rfl, by decide, by decide, by decide, by decide, by decide, by decide⟩, by decide, by decide, by decide⟩

/-- A gang that is stopped and drained, with its save area mapped; one that comes back, before its stamp and at it; a gang that is
killed, one whose cores have all ended, a budget that is spent and one that is not. -/
theorem witness_Gangs_stamps :
    (let s := event 1 7 0 0 [] (switched .stopping)
      ∃ q, SMap.find s.sched s.ev.b = some q ∧ q.id = s.ev.b ∧ q.gid = s.ev.a ∧ q.node = false ∧ (s.gang 1).status = .stopping
        ∧ (s.gang 1).stopBy = some 7 ∧ (s.gang 1).ended.length ≠ 8 ∧ (coresOf (s.gang 1).octs) = List.range 8
        ∧ (∀ c ∈ List.range 8, s.stopped c = true ∧ (s.core c).running = none ∧ (s.core c).recalls = [] ∧ s.drainedCore c = true
            ∧ (s.core c).sibs = []) ∧ q.save = 0x4000000
        ∧ ∀ e ∈ s.sched, e.2.gid = 1 → e.2.opc ≠ 1 ∧ e.2.opc ≠ 2)
    ∧ ((switched .resuming).gang 1).status = .resuming ∧ ((switched .resuming).gang 1).resumeBy = some 7 ∧ 0 ≤ (switched .resuming).tb
    ∧ (let s := event 1 0 1 0 [] (switched .stopping [] [] true)
      ∃ w, SMap.find s.gangs 1 = some w ∧ w.fail = true ∧ w.status ≠ .out ∧ ∀ c ∈ coresOf w.octs, s.stopped c = true)
    ∧ (∃ w, SMap.find (switched .running [] (List.range 8)).gangs 1 = some w ∧ w.ended.length = (coresOf w.octs).length ∧ w.status ≠ .out
        ∧ (switched .running [] (List.range 8)).stepsDue 1 = false)
    ∧ ({ switched .running [] (List.range 8) with maps := [(5, { part := 0, gang := some 1, slices := [(0, { pending := 1 })] })] } : State).stepsDue 1 = true
    ∧ (let s := (switched .running).modGang 1 fun g => { g with chain := { g.chain with bcyc := 100 } }
      (s.gang 1).chain.bcyc ≠ 0 ∧ (s.gang 1).budgetSent = false ∧ s.residentGang 1 = true ∧ 100 ≤ (s.gang 1).resident + (s.tb - (s.gang 1).started))
    ∧ (let s := (switched .running).modGang 1 fun g => { g with chain := { g.chain with bcyc := 101 } }
      (s.gang 1).resident + (s.tb - (s.gang 1).started) < 101) := by
  refine ⟨⟨_, rfl, by decide, by decide, by decide, by decide, by decide, by decide, by decide, by decide, rfl, by decide⟩,
    by decide, by decide, by decide, ⟨_, rfl, by decide⟩, ⟨_, rfl, by decide⟩, by decide, by decide⟩

/-! ### Witnesses: clause arrays -/

theorem witness_ClauseWords :
    (g12 5 0x1000000100).clear [1, 2] ∧ base.cur.ld = [] ∧ (onCtx fun t => { t with ld := List.replicate 32 ⟨1, none, false, false⟩ }).cur.ld.length = 32
    ∧ (let v : Word := 0x1000000100
      v.toNat / 2 ^ 36 % 2 ^ 11 = 1 ∧ v.toNat % 2 ^ 24 = 0x100 ∧ v.toNat / 2 ^ 24 % 2 ^ 12 = 0 ∧ v.toNat < 2 ^ 47)
    ∧ base.localWaits 0x100 = false ∧ settled base 0 ∧ base.groupKey 0 = some (1, 0) :=
  ⟨by unfold State.clear; decide, by decide, by decide, by decide, by decide, settled_here _ (by decide) 0, by decide⟩

/-- An array that the issuing gang holds, with one column that says v5 or not v6, at level 1 with v5 false. -/
def clauses (op : Nat) (b : Word) (lits : List Nat := []) (held : Bool := true) : State :=
  { event 7 0 0 with
    clauseReqs := [(7, { id := 7, core := 0, ctx := 0, m := 3, op := op, b := b, gang := 1, lits := lits })]
    units := if held then [(4099, { gang := some 1 })] else []
    arrays := [(3, { cols := [(0, [(5, true), (6, false)])], vals := [(5, false, 1, 0)], trail := [⟨5, false, 1, 0xFFF⟩], cl := 1 })] }

/-- Each operation with an operand that is well formed, at the ends of its ranges. -/
theorem witness_ClauseOperations :
    (∃ r, SMap.find (clauses 0 0).clauseReqs (clauses 0 0).ev.a = some r ∧ r.id = (clauses 0 0).ev.a
      ∧ (∃ h, SMap.find (clauses 0 0).units (4096 + r.m) = some h ∧ h.gang = some r.gang))
    ∧ (∀ h, SMap.find (clauses 0 0 [] false).units 4099 ≠ some h)
    ∧ (let lits := [6, 0xFFF9]
      (∀ n ∈ lits, literal n ≠ none) ∧ ∀ p ∈ lits.filterMap literal, ∀ q ∈ lits.filterMap literal, p.1 = q.1 → p.2 = q.2)
    ∧ (let a : ClauseArr := SMap.get {} (clauses 2 0).arrays 3
      SMap.find a.cols 0 ≠ none ∧ SMap.find a.cols 1 = none ∧ (∀ c ∈ a.cols, c.1 < 4096) ∧ a.trail.length = 1
        ∧ SMap.find a.vals 5 = some (false, 1, 0) ∧ SMap.find a.vals 6 = none ∧ a.cl = 1)
    ∧ (0x1FFF000 < 2 ^ 25 ∧ 0x1000 / 2 ^ 12 ≠ 0 ∧ 0xFFF + 0x1000 / 2 ^ 12 ≤ 4096 ∧ 0 + 0x1000000 / 2 ^ 12 ≤ 4096) := by
  refine ⟨⟨_, rfl, rfl, _, rfl, rfl⟩, fun h => ?_, by decide, by decide, by decide⟩
  intro e; cases e

/-- A list whose last words are still to be read, four of five and one of one; the operation at its array. -/
theorem witness_ClauseOperations_list :
    (let s : State := { event 7 1 0 with clauseReqs := [(7, { id := 7, core := 0, ctx := 0, m := 3, op := 0, b := 0x9000000100, gang := 1, list := some (0, 0x108, 5) })] }
      ∃ r, SMap.find s.clauseReqs s.ev.a = some r ∧ r.id = s.ev.a ∧ s.ev.b = 1 ∧ r.list = some (0, 0x108, 5) ∧ 4 < 5 ∧ 1 ≤ 4)
    ∧ (clauses 0 0).ev.b = 0 := by
  refine ⟨⟨_, rfl, by decide⟩, by decide⟩

/-- A list behind an earlier sibling access of its context, and one behind none. -/
theorem witness_ClauseOperations_held :
    let r : ClauseReq := { id := 7, core := 0, ctx := 0, m := 3, op := 0, b := 0x9000000100, gang := 1, list := some (0, 0x108, 5), at_ := 100 }
    (onCore fun k => { k with sibs := [⟨102, 0, 1, 0x10, 8, false, .store, 5, 0, 0⟩] }).listHeld r = true ∧ base.listHeld r = false
      ∧ ∀ b ∈ base.curCore.sibs, b.ctx ≠ base.cx := by decide

/-- A decision on a variable that has a value, on one that has none, one at the last level, and a way back to level 0. -/
theorem witness_Decisions :
    (let a : ClauseArr := SMap.get {} (clauses 3 6).arrays 3;
      SMap.find a.vals 5 ≠ none ∧ SMap.find a.vals 6 = none ∧ a.cl < 1023 ∧ ((6 : Word).toNat < 2 ^ 11)
        ∧ a.trail = [] ++ [⟨5, false, 1, 0xFFF⟩] ∧ (∀ e ∈ a.trail, 0 < e.level) ∧ a.trail = a.trail ++ []
        ∧ ∀ e, a.trail.getLast? = some e → e.level ≤ 1)
    ∧ ({ cl := 1023 } : ClauseArr).cl = 1023 ∧ 2 ^ 11 ≤ (0x800 : Word).toNat := by
  refine ⟨⟨by decide, by decide, by decide, by decide, by decide, by decide, by decide, fun e h => ?_⟩, by decide, by decide⟩
  cases h; decide

/-! ### Witnesses: traps, system registers, debug and errors -/

/-- A vector and a frame area, a late fault, an interrupt that is due and one that is masked. -/
theorem witness_Traps :
    base.clear [] ∧ base.entryHeld 0 0 = false ∧ base.cur.entering = false ∧ base.cur.rt = false ∧ (base.core 0).tvec = 0
    ∧ (onCore fun k => { k with sibs := [⟨102, 0, 1, 0x10, 8, false, .store, 5, 0, 0⟩] }).entryHeld 0 0 = true
    ∧ (onCtx fun t => { t with rt := true }).cur.rt = true
    ∧ (let s := onCore fun k => { k with tvec := 0x20000, tfa := 0x57000 - 0x1000 }
      s.cur.ih = false ∧ (s.core 0).tvec ≠ 0 ∧ s.frameFits 0 0)
    ∧ (let s := onCtx fun t => { t with late := [{ kind := 2, cause := 70 }] }
      ∃ f rest, (s.ctxAt s.ev.a s.ev.b).late = f :: rest ∧ (s.ctxAt s.ev.a s.ev.b).wait = .none)
    ∧ (let s := onCtx fun t => { t with late := [{ kind := 2, cause := 70 }], wait := .counter 0 0 }
      ∃ f rest k n, (s.ctxAt s.ev.a s.ev.b).late = f :: rest ∧ (s.ctxAt s.ev.a s.ev.b).wait = .counter k n
        ∧ (s.ctxAt s.ev.a s.ev.b).counter k ≤ n)
    ∧ (let s := onCtx fun t => { t with late := [{ kind := 2, cause := 70 }], wait := .counter 0 0, ld := [⟨1, none, false, false⟩] }
      ¬ (s.ctxAt s.ev.a s.ev.b).counter 0 ≤ 0)
    ∧ (let s := (onCore fun k => { k with tvec := 0x20000 }).modCur fun t => { t with ien := 3, soft := true, tcmp := 1 }
      let t := s.ctxAt 0 0
      t.wait = .none ∧ t.status = .running ∧ t.ien % 2 = 1 ∧ t.soft = true ∧ t.ih = false ∧ t.rt = false ∧ (s.core 0).tvec ≠ 0
        ∧ (s.core 0).ex.phase = false ∧ t.ien / 2 % 2 = 1)
    ∧ (let s := (onCore fun k => { k with tvec := 0x20000 }).modCur fun t => { t with ien := 2, tpost := true }
      let t := s.ctxAt 0 0
      t.wait = .none ∧ t.status = .running ∧ t.ien / 2 % 2 = 1 ∧ t.tpost = true ∧ t.tcmp = 0 ∧ t.soft = false ∧ (s.core 0).tvec ≠ 0)
    ∧ (let t := (onCtx fun t => { t with frame := [0, 0x1], st := 0x4400000000000100 }).cur
      t.frame ≠ [] ∧ t.st.getLsbD 62 = true ∧ t.st.toNat / 2 ^ 58 % 16 = 1)
    ∧ base.cur.late = [] ∧ base.cur.soft = false ∧ base.cur.tpost = false := by
  unfold State.clear State.frameFits
  refine ⟨by decide, by decide, by decide, by decide, by decide, by decide, by decide, ⟨by decide, by decide, regions_none (by decide), by decide⟩,
    ⟨_, _, rfl, rfl⟩, ⟨_, _, _, _, rfl, rfl, by decide⟩, by decide, by decide, by decide, by decide, by decide⟩

theorem witness_ReturnsYieldsAndHalts :
    base.clear [] ∧ base.cur.ih = false ∧ (onCtx fun t => { t with ih := true }).cur.ih = true
    ∧ (g1 0).clear [1] ∧ (g1 0).cur.ld.length < 32 ∧ base.level 0 = 2 ∧ (userLevel base).level 0 = 0 ∧ base.listedOnce
    ∧ (let v := 2 ^ 22 + 1
      v / 2 ^ 22 % 2 ^ 11 ≠ 0 ∧ v % 2 ^ 11 + (v / 2 ^ 11 % 2 ^ 11 + 1) ≤ 2048 ∧ v < 2 ^ 35)
    ∧ (2 ^ 22 + 2047 : Nat) % 2 ^ 11 + (2 ^ 11 + 2047) / 2 ^ 11 % 2 ^ 11 + 1 > 2048
    ∧ (let s := event 0 0 5 0 [] (onCtx fun t => { t with hp := true });
      (s.ctxAt s.ev.a s.ev.b).status = .running ∧ (s.ctxAt s.ev.a s.ev.b).hp = true ∧ (s.ctxAt s.ev.a s.ev.b).wait = .none ∧ s.landingHeld 0 0 = false ∧ (s.core 0).ex.phase = false
        ∧ ((event 0 0 5 0 [] (exchanging [])).core 0).ex.phase = true)
    ∧ (let s : State := { event 0 0 5 with halts := [(5, { core := 0, ctx := 0, id := 9, left := [(0, 0)] })] }
      ∃ h, SMap.find s.halts 5 = some h ∧ h.left = [(0, 0)] ∧ h.out = [])
    ∧ (let h : HaltReq := { core := 0, ctx := 0, id := 9, left := [(1, 2)], at_ := 100 }
      let s : State := { base with halts := [(5, h)], cores := SMap.put base.cores 1 { ctxs := [(2, { status := .halted, hk := 2 })] } }
      h.at_ ≠ 0 ∧ h.at_ ≤ s.now ∧ s.viral = false ∧ (s.ctxAt 1 2).status = .halted ∧ (s.ctxAt 1 2).hk = 2 ∧ ¬ h.at_ ≤ 99) := by
  unfold State.clear State.listedOnce
  refine ⟨by decide, by decide, by decide, by decide, by decide, by decide, by decide, by decide, by decide, by decide, by decide, ⟨_, rfl, rfl, rfl⟩, by decide⟩

/-- A supervisor of level 1, for the root's core 5, which its partition has not; a set of one whole barrier group, and a part of one; a halt
that lands behind a sibling access. -/
theorem witness_ReturnsYieldsAndHalts_sets :
    (let s : State := { base with parts := [(0, { Part.root with sup := 8 }), (1, { sup := 0 })] };
      s.level 0 = 1 ∧ s.actsFor 0 = 1 ∧ s.belongs 5 1 = false ∧ s.belongs 0 1 = true ∧ (2 ^ 33 + 2 ^ 22 : Nat) / 2 ^ 33 % 4 = 1)
    ∧ (let s := group {};
      s.groupKey 0 = some (1, 0) ∧ (s.members 1 0) = List.range 8 ∧ ∀ m ∈ List.range 8, (s.ctxAt m 0).status = .running)
    ∧ (onCore fun k => { k with sibs := [⟨102, 0, 1, 0x10, 8, false, .store, 5, 0, 0⟩] }).landingHeld 0 0 = true := by decide

/-- Each bound that a write rule names, at its last allowed value and at the first refused. -/
theorem witness_SystemRegisters :
    base.clear [] ∧ (g1 0).clear [1] ∧ (∀ p ∈ base.cur.pend, p.slotAt = 0)
    ∧ (∃ p ∈ (onCtx fun t => { t with pend := [{ id := 3, slotAt := 200 }] }).cur.pend, p.slotAt ≠ 0)
    ∧ base.level 0 = 2 ∧ (userLevel base).level 0 = 0
    ∧ 65535 < 65536 ∧ (0x1FC : Nat) % 4 = 0 ∧ 2 ^ 52 - 4 < 2 ^ 52 ∧ (0x56A00 : Nat) % 512 = 0 ∧ 0x56A00 + 5632 = 0x58000
    ∧ 32768 + (base.part 0).gnn.toNat ≤ 32768 ∧ ¬ 32769 + (base.part 0).gnn.toNat ≤ 32768
    ∧ (0x7FFFFFFFFFFFF : Nat) < 2 ^ 51 ∧ (2 ^ 51 - 2 ^ 28) % 2 ^ 28 = 0
    ∧ ((launched 8).partAt 0x30000).isSome = true ∧ (launched 8).partAt 0x30001 = none := by
  unfold State.clear
  refine ⟨by decide, by decide, by decide, ⟨_, List.mem_singleton.mpr rfl, by decide⟩, by decide, by decide, by decide, by decide, by decide, by decide, by decide,
    by decide, by decide, by decide, by decide, by decide, by decide⟩

/-- Core 1 has a halted context 2; core 0 may look at it. -/
def windowed (a b v : Word) : State :=
  let s := { base with cores := SMap.put base.cores 1 { ctxs := [(2, { status := .halted, hk := 2 })] } }
  s.modCur fun t => { t with regs := [(1, a), (2, b), (3, v)] }

theorem witness_RegisterWindow :
    (windowed 0x1001 0 0).clear [3, 1, 2] ∧ (windowed 0x1001 0 0).cur.ld.length < 32 ∧ (windowed 0x1001 0 0).cur.stq.length < 64
    ∧ ((windowed 0x1001 0 0).opnd 1).toNat % 2 ^ 11 = 1 ∧ ((windowed 0x1001 0 0).opnd 1).toNat / 2 ^ 11 % 16 = 2
    ∧ (windowed 0x1001 0 0).level (windowed 0x1001 0 0).cc = 2 ∧ ((windowed 0x1001 0 0).ctxAt 1 2).status = .halted
    ∧ ((windowed 0x1001 0 0).ctxAt 1 2).hk = 2 ∧ (∀ e ∈ ((windowed 0x1001 0 0).core 1).ctxs, e.2.status ≠ .running)
    ∧ ((1, 2) : Nat × Nat) ≠ ((windowed 0x1001 0 0).cc, (windowed 0x1001 0 0).cx)
    ∧ ((windowed 0x1001 0 0).ctxAt 1 3).status ≠ .halted ∧ ¬ (∀ e ∈ (base.core 0).ctxs, e.2.status ≠ .running)
    ∧ (windowed 0x1001 0x100000 0).openRange 1 0 8 ∧ 0x157FF8 + 8 ≤ 0x158000 := by
  unfold State.clear State.openRange
  refine ⟨by decide, by decide, by decide, by decide, by decide, by decide, by decide, by decide, by decide, by decide, by decide, by decide,
    ⟨regions_none (by decide), by decide, by decide⟩, by decide⟩

/-- Entries of the queues of a core that the window reads, with the groups that have begun one. -/
theorem witness_RegisterWindow_queues :
    (∃ e i, (vectorEntry (.vadd 0 1 2 3 0)).curCore.vec.q[(0x100 - 0x100 : Nat)]? = some e ∧ encode e.ins = some i ∧ ∀ g, (0 : Nat).testBit g = true ↔ g ∈ e.begun)
    ∧ (vectorEntry (.vadd 0 1 2 3 0)).curCore.vec.q[(0x10F - 0x100 : Nat)]? = none
    ∧ (∃ e, (tiled { q := [someEntry 0] }).curCore.mat.q[(0x110 - 0x110 : Nat)]? = some e) ∧ (tiled {}).curCore.mat.q[(0x117 - 0x110 : Nat)]? = none
    ∧ (0x12000 ≤ 0x123FF ∧ 0x123FF < 0x12400) :=
  ⟨⟨_, _, rfl, rfl, fun g => by simp⟩, by decide, ⟨_, rfl⟩, by decide, by decide⟩

/-- A context that halted at a captured word, and goes on there or elsewhere. -/
theorem witness_RegisterWindow_frame :
    let t : Ctx := { status := .halted, pc := 0x10008, st := BitVec.ofNat 64 (2 ^ 62), haltBack := 8 }
    (t.pc = t.pc ∧ t.st.getLsbD 62 = true) ∧ ¬ ((0x20000 : BitVec 52) = t.pc ∧ t.st.getLsbD 62 = true) := by decide

theorem witness_Generations :
    (g12 1 1).clear [1, 2] ∧ (g1 1).clear [1] ∧ (g1 1).cur.ld = [] ∧ (g1 1).cur.stq = [] ∧ SMap.rising 0 base.cores = true
    ∧ SMap.rising 0 base.watches = true ∧ (g1 1).level (g1 1).cc = 2 ∧ (userLevel base).level 0 = 0 ∧ (userLevel base).asidOf 0 = 1
    ∧ (userLevel (onCtx fun t => { t with stq := [⟨1, none, false, false⟩] })).cur.stq ≠ []
    ∧ ((3 * 2 ^ 16 : Nat) / 2 ^ 16 % 4 = 3) ∧ ((2 ^ 16 + 1 : Nat) / 2 ^ 16 % 4 ≠ 3 ∧ 2 ^ 16 + 1 < 2 ^ 19)
    ∧ base.curCore.gang ≠ none := by
  unfold State.clear; decide

/-- An invalidation that acts at the cycle its answer arrives, and one whose cycle is still to come. -/
theorem witness_Generations_tlbi :
    (let s (due : Nat) : State := { base with tlbWaits := [⟨0, 0, 9, 1, placedVa, false, 2, due⟩] };
      (s 100).tlbWaits = [⟨0, 0, 9, 1, placedVa, false, 2, 100⟩] ∧ (100 : Nat) ≤ (s 100).now ∧ ¬ (101 : Nat) ≤ (s 101).now)
    ∧ (0 : Nat) = base.cc ∧ dieOf 0 = dieOf base.cc ∧ dieOf 2047 ≠ dieOf base.cc := by decide

/-- Scrubs: of core 2047, past the last core, of the core in use, of a partition of HBM up to its end and past it. -/
theorem witness_Generations_scrub :
    (2047 + (0 + 1) ≤ 2048) ∧ ¬ (2047 + (1 + 1) ≤ 2048) ∧ (∃ e ∈ base.cores, (0 ≤ e.1 ∧ e.1 < 0 + 1) ∧ e.2.gang ≠ none)
    ∧ (∀ e ∈ base.cores, ¬ ((2047 ≤ e.1 ∧ e.1 < 2047 + 1) ∧ e.2.gang ≠ none)) ∧ base.units = []
    ∧ (∃ e ∈ ({ base with units := [(32, { gang := some 1 })] } : State).units, e.1 < 4096 ∧ 1 ≤ e.1 / 32 ∧ e.1 / 32 < 2)
    ∧ 2 ^ 23 - 1 + 1 ≤ 2 ^ 23 ∧ 2 ^ 23 < 2 ^ 23 + 1 := by
  refine ⟨by decide, by decide, ⟨_, List.mem_singleton.mpr rfl, by decide⟩, by decide, by decide, ⟨_, List.mem_singleton.mpr rfl, by decide⟩,
    by decide, by decide⟩

theorem witness_DebugAndErrorEvents :
    (({ mode := 2 } : Trace).mode = 2) ∧ (SMap.get {} base.traces 0 : Trace).mode ≠ 2 ∧ (SMap.get {} base.traces 0 : Trace).run = false
    ∧ (SMap.get {} ({ base with traces := [(0, { run := true })] } : State).traces 0 : Trace).run = true
    ∧ (base.core 0).injS = false ∧ ((onCore fun k => { k with injS := true }).core 0).injS = true ∧ base.viral = false
    ∧ ({ base with viral := true } : State).viral = true ∧ base.listedOnce ∧ (base.ctxAt 0 0).status = .running
    ∧ (base.ctxAt 0 1).status ≠ .running ∧ (base.core (base.part 0).sup).fifo15.length < 64 := by
  unfold State.listedOnce; decide

/-! ### Witnesses: what is outside the module -/

def granted : State := { event 3 0 8 0x200000 [] with md := { base.md with grants := [(3, 1)] } }

theorem witness_HostAccesses :
    granted.viral = false ∧ ((0x200000 : Nat) + 8 ≤ 2 ^ 39 ∧ (3, 0x200000 / 2 ^ 21) ∈ granted.md.grants ∧ (3, (0x200000 + 8 - 1) / 2 ^ 21) ∈ granted.md.grants)
    ∧ ¬ ((3, (0x3FFFFC + 8 - 1) / 2 ^ 21) ∈ granted.md.grants) ∧ (3, (0x3FFFF8 + 8 - 1) / 2 ^ 21) ∈ granted.md.grants
    ∧ (let data : List Byte := 1 :: List.replicate 63 0
      data.length = 64 ∧ ofBytes (data.take 4) ≠ 0 ∧ ofBytes ((data.drop 6).take 2) = 0 ∧ ofBytes (data.drop 48) = 0) ∧ granted.md.tenant = false
    ∧ ((255 : Nat) < 256 ∧ (0x40 : Nat) % 64 = 0) ∧ ¬ (17 : Nat) ≤ 16 := by decide

/-- A ring is full where PUT is 16 past TAKEN, and not where TAKEN is past PUT; a link reaches a window where the links are bonded. -/
theorem witness_HostAccesses_ring :
    (0 + 16 ≤ 16) ∧ ¬ (0 + 16 ≤ 15) ∧ ¬ (2 ^ 64 - 1 + 16 ≤ 15)
    ∧ ({ base with md := { base.md with bonded := true } } : State).md.bonded = true ∧ (∀ n, n % 2 = 0 → ¬ (n + 1) % 2 = n % 2) := by
  refine ⟨by decide, by decide, by decide, rfl, fun n h => by omega⟩

/-- A port that is up, with all its lanes. -/
def up (v : Port := {}) : Port := { v with down := false, width := 16 }
def ported (v : Port) : State := { event 3 0 0 with md := { base.md with ports := [(3, up v)] }, tb := 4200 }

theorem witness_Ports :
    ((ported {}).port 3).down = false ∧ ((ported {}).port 3).training = false ∧ (base.port 3).down = true
    ∧ (let s := ported { sent := [{ seq := 4 }, { seq := 5 }], since := 0, replays := 64 }
      (s.port 3).sent ≠ [] ∧ (s.port 3).since + 4200 ≤ s.tb ∧ 64 ≤ (s.port 3).replays
        ∧ 4 ∈ (s.port 3).sent.map (·.seq) ∧ ((s.port 3).sent.dropWhile (·.seq != 4)).drop 1 = [{ seq := 5 }])
    ∧ (((ported {}).port 3).lane ≤ 15 % 16 ∧ 15 % 16 < ((ported {}).port 3).lane + ((ported {}).port 3).width)
    ∧ (widthFor (2 ^ 15)).1 ≠ 0 ∧ (widthFor (2 ^ 16 - 1)).1 = 0 ∧ (2 ^ 16 - 2 ||| 2 ^ 0 = 2 ^ 16 - 1)
    ∧ (let s := ported { training := true }
      (s.port 3).training = true ∧ (s.port 3).sent = [] ∧ (s.port 3).queue = []) := by decide

/-- A flit of 256 bytes whose check word holds, for any check word, type, channel and destination; ports that wait with nothing, with one
flit, and are full; a request that a response answers. -/
theorem witness_Ports_flits (typ vc dst src : Nat) (h : typ < 16) (hv : vc < 4) (hd : dst < 512) (hs : src < 512) :
    (∃ data : List Byte, data.length = 256 ∧ ofBytes ((data.drop 248).take 8) = Config.crc64 (data.take 248) % 2 ^ 64
      ∧ ofBytes (data.take 8) % 2 ^ 12 = ((ported {}).port 3).rx ∧ ofBytes (data.take 8) / 2 ^ 12 % 2 ^ 4 = typ
      ∧ ofBytes (data.take 8) / 2 ^ 28 % 2 ^ 2 = vc ∧ ofBytes (data.take 8) / 2 ^ 32 % 2 ^ 9 = dst ∧ ofBytes (data.take 8) / 2 ^ 41 % 2 ^ 9 = src)
    ∧ base.viral = false ∧ ((ported {}).port 3).queue = [] ∧ ((ported {}).port 3).rx = 0 ∧ base.xfers = []
    ∧ (let v : Port := { queue := [{ vc := 1 }], sent := [{}] }; v.queue = [{ vc := 1 }] ∧ v.sent.length < 512)
    ∧ SMap.get [] ((ported {}).port 3).inbox 2 = ([] : List Byte)
    ∧ (let r : Req := { kind := .load, core := 0, ctx := 0, id := 5, va := 0, pa := 0, width := 8, remote := some 2, left := 1 }
      r.left = 1 ∧ r.remote = some 2 ∧ r.obj = none) := by
  refine ⟨?_, by decide, by decide, by decide, by decide, by decide, by decide, by decide⟩
  let n := typ * 2 ^ 12 + vc * 2 ^ 28 + dst * 2 ^ 32 + src * 2 ^ 41
  let head : List Byte := toBytes 8 n ++ List.replicate 240 0
  have hl : head.length = 248 := by simp only [head, List.length_append, toBytes_length, List.length_replicate]
  have e : ofBytes (toBytes 8 n) = n := by
    rw [ofBytes_toBytes]; exact Nat.mod_eq_of_lt (by simp only [n]; omega)
  have t8 : (head ++ toBytes 8 (Config.crc64 head)).take 8 = toBytes 8 n := by
    rw [List.take_append_of_le_length (by rw [hl]; decide)]
    exact List.take_left' (toBytes_length 8 _)
  refine ⟨head ++ toBytes 8 (Config.crc64 head), by rw [List.length_append, hl, toBytes_length], ?_, ?_, ?_, ?_, ?_, ?_⟩
  · rw [List.drop_left' hl, List.take_left' hl, List.take_of_length_le (by rw [toBytes_length]), ofBytes_toBytes]; rfl
  · rw [t8, e, show ((ported {}).port 3).rx = 0 from by decide]; simp only [n]; omega
  all_goals rw [t8, e]; simp only [n]; omega

/-- What a payload says is the model's free choice: one that begins a request, one that ends it, one that answers, whichever they are. -/
theorem witness_Ports_payloads (pay : List Byte) :
    (Config.payRequest pay = none ∨ ∃ part c a bs, Config.payRequest pay = some (part, c, a, bs))
    ∧ ∀ tag part cause x, Config.payResponse pay = [2, tag, part, cause, x] → (Config.payResponse pay).length = 5 := by
  refine ⟨?_, fun _ _ _ _ h => by rw [h]; rfl⟩
  cases h : Config.payRequest pay with
  | none => exact .inl rfl
  | some x => exact .inr ⟨x.1, x.2.1, x.2.2.1, x.2.2.2, rfl⟩

/-- A request of device 2, partition 1, whose sender is bound to address space 1, or to none. -/
theorem witness_Ports_remote :
    SMap.find base.md.bindings (2 * 2 ^ 16 + 1) = none
    ∧ (∃ b, SMap.find ({ base with md := { base.md with bindings := [(2 * 2 ^ 16 + 1, { asid := 1, part := 0 })] } } : State).md.bindings (2 * 2 ^ 16 + 1) = some b
        ∧ b.asid = 1)
    ∧ (Away.read 0 (List.replicate 32 0)).kind = 0 ∧ (Away.read 6 (List.replicate 32 0)).kind = 6
    ∧ (∃ pa u, (switched .out).xlateWalk 1 0 1 = .ok (pa, u) ∧ pa = 0 ∧ u.gread pa 8 ≠ 5) ∧ (∃ x, base.xlateWalk 1 0 1 = .error x)
    ∧ atomicNew 0 8 false 7 1 0 ≠ 7 ∧ (∀ sl, SMap.get [] base.watches sl = ([] : List Watch)) ∧ ((ported {}).port 3).down = false ∧ ((ported {}).port 3).sent.length < 512 := by
  refine ⟨by decide, ⟨_, rfl, rfl⟩, by decide, by decide, ⟨_, _, rfl, by decide, by decide⟩, ⟨_, rfl⟩, by decide, fun _ => rfl, by decide, by decide⟩

/-- The readings are the outside world's: with no trip and the clock full, a hot sample is one that steps down; a cool one is low
where the limit is far above. -/
theorem witness_Power :
    base.md.trip = false ∧ base.clk = 0 ∧ base.md.plim = 2000 ∧ base.md.lowSince = none
    ∧ ({ base with clk := 15 } : State).clk = 15
    ∧ (let s : State := { base with md := { base.md with lowSince := some 0 }, tb := 1050000 }
      s.md.lowSince.getD s.tb + 1050000 ≤ s.tb)
    ∧ (base.tb < base.md.lowSince.getD base.tb + 1050000) ∧ (800 ≤ (800 : Word).toNat ∧ (2000 : Word).toNat ≤ 2000) ∧ ¬ 800 ≤ (799 : Word).toNat := by
  decide

/-- A limit below the last sample's power, one that is not, and a machine whose limit was lowered. -/
theorem witness_Power_lowered (s : State) :
    (900 * 1000 < ({ base.md with power := 900001 } : Module).power) ∧ ¬ (900 * 1000 < base.md.power)
    ∧ (let t : State := { s with md := { s.md with lowered := true, plim := 0 } }
      t.md.lowered = true ∧ t.md.plim * 1000 ≤ t.freeN 0 % 2 ^ 32) := by
  refine ⟨by decide, by decide, rfl, ?_⟩
  show 0 * 1000 ≤ _
  rw [Nat.zero_mul]; exact Nat.zero_le _

theorem witness_Power_low (s : State) : (({ s with md := { s.md with plim := 2 ^ 32 } } : State).freeN 0 % 2 ^ 32) * 100 < 95 * 2 ^ 32 * 1000 := by
  have := Nat.mod_lt (({ s with md := { s.md with plim := 2 ^ 32 } } : State).freeN 0) (show 0 < 2 ^ 32 by decide)
  omega

theorem witness_Power_hot (h : 0 < base.freeN 0 % 2 ^ 32) :
    ({ base with md := { base.md with plim := 0 } } : State).md.plim * 1000 < ({ base with md := { base.md with plim := 0 } } : State).freeN 0 % 2 ^ 32 := by
  show 0 * 1000 < _
  rw [Nat.zero_mul]; exact h

/-- Steps 7 to 10 may be skipped, others not; a step fails with mode 1 or 3, is pinned by bit 4, takes the alternate by bit 5. -/
theorem witness_StartUp :
    (1 : Nat) < 2 ^ 64 ∧ ¬ (7 ≤ 1 ∧ 1 ≤ 10) ∧ (7 ≤ 7 ∧ 10 ≤ 10) ∧ ¬ 11 ≤ 10
    ∧ (let e := 11
      e % 8 = 3 ∧ e / 2 ^ 3 % 2 = 1 ∧ e / 2 ^ 4 % 2 = 0) ∧ (SMap.get 0 base.md.boot 5 : Nat) = 0
    ∧ ({ base with md := { base.md with trip := true } } : State).md.trip = true
    ∧ ({ base with md := { base.md with failed := true } } : State).md.failed = true ∧ base.md.failed = false
    ∧ (List.replicate 32 (0 : Byte)).length = 32 ∧ (event 1 0 0 1).ev.w = 1 ∧ (event 1 0 0 1).gangs ≠ [] ∧ State.reset.gangs = [] ∧ base.units = [] := by
  decide

/-- Images that verify, of a slot that holds none, and one whose version is too low; ports without a failed lane; gangs left and none. -/
theorem witness_StartUp_images :
    (∀ i ∈ (SMap.get [{}] [(0, ([] : List Image))] 0 : List Image), Config.signed [] i.bytes = true ∧ 1 ≤ i.version)
    ∧ ¬ (∀ i ∈ (SMap.get [{}] ([] : SMap (List Image)) 0 : List Image), Config.signed [] i.bytes = true ∧ 1 ≤ i.version)
    ∧ (∀ p < 16, (base.port p).failed = 0) ∧ (∃ g ∈ base.gangs, g.2.fail = false) ∧ base.md.tenant = false ∧ base.md.failed = false := by
  refine ⟨fun i h => (List.not_mem_nil h).elim, fun h => ?_, by decide, by decide, by decide, by decide⟩
  exact absurd (h {} List.mem_cons_self).2 (by decide)

/-- A warm start keeps the steps of its links; a cold one takes the device's number. -/
theorem witness_StartUp_warm :
    (let e := 10;
      ({ base with md := { base.md with warm := true } } : State).md.warm = true ∧ 8 ≤ 8 ∧ 10 ≤ 10 ∧ e % 8 = 2 ∧ e < 2 ^ 64) ∧ base.md.warm = false
    ∧ (event 0 1 0 0 (List.replicate 32 0)).ev.b = 1 := by decide

/-- A step of the start-up may pass or fail: the draw is free, and no value of it is fixed. -/
theorem witness_StartUp_draw (s : State) : s.freeB 1 = true ∨ s.freeB 1 = false := by cases s.freeB 1 <;> simp

/-! ### Witnesses: encoding, the step and the whole machine -/

theorem witness_DecodingAndEncoding :
    (Instr.vfma 0 3 50 9 1).WellFormed = true ∧ encode (.vfma 0 3 50 9 1) = some 0x0CC3C898 ∧ decode 0x0CC3C898 = .instr (.vfma 0 3 50 9 1) := by
  decide

/-- A due event; and core 0 alone, whose context 0 is ready at the word of an addi. -/
theorem witness_StepRuns :
    ({ base with cal := [⟨100, 0, .powerSample, {}⟩] } : State).dueEvent = some (.powerSample, base)
    ∧ (let s := State.reset.withFetchWord 32 0x01030FFF
      s.md.trip = false ∧ s.dueEvent = none ∧ ∃ k, s.cores = [] ++ (0, k) :: [] ∧ s.scan ≤ 0 ∧ s.routineAbsent 0 = false ∧ s.stopped 0 = false
        ∧ (∀ e ∈ k.ctxs, (k.ctx e.1).lateDue = false) ∧ s.routineReady 0 = false ∧ (∀ e ∈ k.ctxs, s.interruptDue 0 e.1 = false)
        ∧ k.nextReady s.now = some 0 ∧ (k.ctx 0).wait = .none ∧ (k.ctx 0).rt = false ∧ k.injS = false ∧ s.ctxAt 0 0 = k.ctx 0
        ∧ (k.ctx 0).inFrame = false ∧ s.fetchAt 0 (k.ctx 0).pc = .code 0x01030FFF ∧ decode 0x01030FFF = .instr (.addi 0 3 3 0x3FF)) := by
  refine ⟨by decide, by decide, by decide, _, rfl, by decide, by decide, by decide, by decide, by decide, by decide, by decide, by decide, by decide,
    by decide, by decide, by decide, by decide, by decide⟩

/-- A pointer at the last context; a core with no context that is ready. -/
theorem witness_CoresIssue :
    (let k : CoreState := { rr := 10, ctxs := [(0, { status := .running }), (10, { status := .running, readyAt := 7 })] };
      k.nextReady 7 = some 10 ∧ k.nextReady 6 = some 0 ∧ (10 + 1) % 11 = 0)
    ∧ (let k : CoreState := { ctxs := [(0, { status := .running, wait := .tile 0x40 false false false 0 0 })] }
      (k.ctx 0).expanding 7 = true ∧ (k.ctx 0).couldIssue 7 = false)
    ∧ (onCore fun k => { k with rootAt := 101 }).now < (onCore fun k => { k with rootAt := 101 }).curCore.rootAt
    ∧ (onCore fun k => { k with vec := { k.vec with q := List.replicate 16 { seq := 0, ctx := 0, ins := .vadd 0 0 0 0 0 } } }).curCore.vec.q.length = 16
    ∧ ({} : CoreState).nextReady 7 = none ∧ base.cur.prefixed = false ∧ base.inExchange = false ∧ base.routineAbsent 0 = false ∧ base.stopped 0 = false ∧ base.routineReady 0 = false := by decide

set_option maxRecDepth 40000 in
theorem witness_BranchConditions :
    (g1 5).clear [1] ∧ (2 : Opnd).toNat ≤ 5 ∧ (0x04001800 : Code).toNat / 2 ^ 22 % 2 ^ 7 = 0x10 ∧ (0x04001800 : Code).toNat / 2 ^ 10 % 2 ^ 6 = 6 := by
  unfold State.clear; decide

theorem witness_StepKeepsMemories : base.canonical ∧ ∃ t, step base = .next t := by
  unfold State.canonical
  exact ⟨by decide, _, rfl⟩

/-- stall, pfx, red, barm and bwait with nothing that holds them back, with an object and without. -/
theorem witness_BarrierWordsComplete :
    base.clear [] ∧ (writableAt 0x10008 0x10010).clearPfx (redAccepts 0) [1, 0x20] ∧ (writableAt 0x10008 0x10010).clearPfx (redAccepts 5) [1, 0x20, 2]
    ∧ (writableAt 0x10008 0x10010).cur.stq.length < 64 ∧ goesTo (writableAt 0x10008 0x10010) 0x10008 8 2 (.here 0x10008)
    ∧ (writableAt 0x10008 0x10010).objectAt ((writableAt 0x10008 0x10010).opnd 2).toNat 2 = .ok 0x10010
    ∧ (writableAt 0x10008 7).clear [1] ∧ (writableAt 0x10008 7).cur.ld.length < 32 ∧ (writableAt 0x10008 7).objectAt 0x10008 3 = .ok 0x10008
    ∧ (writableAt 0x10008 7).clear [1, 2] ∧ (writableAt 0x10008 7).objectAt 0x10008 1 = .ok 0x10008 := by
  unfold State.clear State.clearPfx
  exact ⟨by decide, by decide, by decide, by decide, goes_here _ _ 2 (by rfl), by decide, by decide, by decide, by decide, by decide, by decide⟩

/-- A watch whose word is still as it was; a command that has ended; COPY out of the store; a HOTSET row that has been read. -/
theorem witness_UnitEventsComplete :
    (∃ r, SMap.find (arrived .watch 0 0x200 0).reqs 5 = some r ∧ r.kind = .watch ∧ (arrived .watch 0 0x200 0).rejects r = none
      ∧ ofBytes ((arrived .watch 0 0x200 0).gbytes r.pa 8) = r.v)
    ∧ (let c : Cmd := { command 0 [(0, 1, 2)] with ended := true }; (engined c).findCmd 0 5 = some c ∧ c.id = 5 ∧ c.ended = true ∧ c.begun = true)
    ∧ (let c : Cmd := command 0 [(0, 1, 1), (1, 1, 1), (4, 4, 0x100), (16, 4, 8)];
      c.code = 1 ∧ c.out = true ∧ c.hdr = false ∧ c.buf = [] ∧ c.failed = false ∧ c.rd < c.total ∧ c.rd % 8 = 0 ∧ c.total % 8 = 0
        ∧ c.n 4 4 % 8 = 0 ∧ c.n 4 4 + c.total ≤ 0x60000)
    ∧ (let c : Cmd := { command 2 [(0, 1, 5), (16, 4, 1), (20, 4, 8)] with cur := some 3, buf := List.replicate 8 0 };
      c.cur = some 3 ∧ c.rd < c.n 16 4 ∧ c.rlen ≤ c.buf.length)
    ∧ (let x : Xfer := { core := 1, w := 4, ks := 0, branches := [{ core := 0, slot := 2 }] }
      let s : State := { event 9 0 0 0 (List.replicate 64 7) (landingTile { st := 1, w := 4, addr := 0x100 }) with xfers := [(9, x)] }
      SMap.find s.xfers 9 = some x ∧ x.branches[0]? = some { core := 0, slot := 2 } ∧ x.dev = none ∧ s.ev.c = 0 ∧ s.ev.w = 0
        ∧ (s.myTurn (s.sectionTurn 9 0 0 x { core := 0, slot := 2 })).2 = true ∧ s.lands 0 = true
        ∧ (SMap.get {} (s.core 0).land 2 : Land).st = 1 ∧ (SMap.get {} (s.core 0).land 2 : Land).w = x.w) := by
  refine ⟨⟨_, rfl, rfl, by decide, by decide⟩, by decide, by decide, by decide, by decide⟩

/-- Events whose conditions no statement above has in the same form: an error that rolls back, a confirmation at an array, a drained routine. -/
theorem witness_MachineEventsComplete :
    (let s := (group { rbc := 1 }).modGang 1 fun g => { g with chain := { g.chain with rbe := true } };
      s.groupKey 0 = some (1, 0) ∧ s.ev.b = 0 ∧ (s.gang 1).chain.rbe = true ∧ (s.group 1 0).unr = false ∧ (s.group 1 0).rbc < 2)
    ∧ (let s := clauses 8 1;
      ∃ r h, SMap.find s.clauseReqs s.ev.a = some r ∧ r.op = 8 ∧ r.b.toNat % 4 = 1 ∧ SMap.find s.units (4096 + r.m) = some h ∧ h.gang = some r.gang)
    ∧ base.viral = false ∧ base.listedOnce ∧ (∀ p ∈ base.cal, base.sentBy 1 p = false)
    ∧ (let s : State := { event 9 0 4 with units := [(9, { gang := some 1, recalled := some 4, finish := true })] }
      ∃ h, SMap.find s.units s.ev.a = some h ∧ h.finish = true ∧ h.recalled = some s.ev.c ∧ s.waiting 9 = [])
    ∧ (base.md.warm = false ∧ (SMap.get 0 base.md.boot 1 : Nat) = 0) ∧ ((List.replicate 32 (0 : Byte)).length = 32)
    ∧ (SMap.get {} ({ base with traces := [(0, { mode := 2, run := true })] } : State).traces 0 : Trace).mode = 2 := by
  unfold State.listedOnce
  refine ⟨by decide, ⟨_, _, rfl, by decide, by decide, rfl, by decide⟩, by decide, by decide, by decide, ⟨_, rfl, by decide⟩, by decide, by decide, by decide⟩

theorem witness_LevelZero :
    (userLevel base).level (userLevel base).cc = 0 ∧ encode (.addi 0 3 3 1) ≠ none ∧ ∃ t, exec (.addi 0 3 3 1) (userLevel base) = .next t :=
  ⟨by decide, by decide, _, rfl⟩

end Sys2Proof.Tests
end

section
/-! The branch on a condition against zero: its target, its condition, and the words that are a br (R28, R45, R86). -/
namespace Sys2Proof.Machine

/-! ### Branches -/

/-- An offset in words from a pc, modulo the 52 bits of a pc (R28). -/
theorem wordOffset_signExtend {n : Nat} (pc : BitVec 52) (o : BitVec n) :
    wordOffset pc (o.signExtend 52) = BitVec.ofInt 52 (pc.toNat + 4 * o.toInt) := by
  rw [wordOffset, BitVec.ofInt_add, BitVec.ofInt_mul, BitVec.ofInt_natCast, BitVec.ofNat_toNat, BitVec.setWidth_eq]
  rfl

/-- A branch goes to its target where its condition holds, else on to the next word. -/
theorem branch_onlyCur (s : State) (S : Stall) (o : BitVec 10) (taken : Bool) :
    (taken = true → OnlyCur s (s.cur.jumped (BitVec.ofInt 52 (s.cur.pc.toNat + 4 * o.toInt)) s.now S) 0 (branch S o taken s))
    ∧ (taken = false → OnlyCur s (s.cur.issued s.now S) 0 (branch S o taken s)) := by
  rw [← wordOffset_signExtend]
  cases taken with
  | true => exact ⟨fun _ => s.jump_onlyCur _ S, nofun⟩
  | false => exact ⟨nofun, fun _ => s.finish_onlyCur S⟩

theorem exec_br_clear {s : State} {S : Stall} {a c : Opnd} {o : BitVec 10} (h : s.clear [a]) :
    exec (.br S a c o) s = .next (branch S o (zeroCondition c.toNat (s.opnd a)) s) := by
  rw [exec_br, execBr, State.issue_clear h rfl rfl]

/-- What each condition of br asks of its operand as a signed number (R45). -/
theorem zeroCondition_iff (a : Word) {c : Nat} (h : c ≤ 5) :
    zeroCondition c a = true ↔
      (c = 0 ∧ a.toInt = 0) ∨ (c = 1 ∧ a.toInt ≠ 0) ∨ (c = 2 ∧ a.toInt < 0) ∨ (c = 3 ∧ a.toInt ≤ 0)
        ∨ (c = 4 ∧ a.toInt > 0) ∨ (c = 5 ∧ a.toInt ≥ 0) := by
  have eq_zero : a = 0#64 ↔ a.toInt = 0 := BitVec.toInt_inj.symm
  match c, h with
  | 0, _ => simp [zeroCondition, eq_zero]
  | 1, _ => simp [zeroCondition, eq_zero]
  | 2, _ => simp [zeroCondition, BitVec.slt_iff_toInt_lt]
  | 3, _ => simp [zeroCondition, BitVec.sle_iff_toInt_le]
  | 4, _ => simp [zeroCondition, BitVec.slt_iff_toInt_lt]
  | 5, _ => simp [zeroCondition, BitVec.sle_iff_toInt_le]

/-! ### The words of major 0x10 -/

/-- A word's field as a number (R26). -/
theorem Code.get_toNat (w : Code) (lo n : Nat) : (w.get lo n).toNat = w.toNat / 2 ^ lo % 2 ^ n := BitVec.toNat_ofNat ..

/-- The br that a word of major 0x10 holds. -/
def brOf (w : Code) : Instr := .br (w.get 29 3) (w.get 16 6) (w.get 10 6) (w.get 0 10)

theorem build_br {w : Code} (h : (w.get 22 7).toNat = 0x10) : build w = some (brOf w) := by
  unfold build; rw [h]; rfl

/-- The fields of a br and its major are all 32 bits of its word. -/
theorem encode_brOf {w : Code} (h : (w.get 22 7).toNat = 0x10) : encode (brOf w) = some w := by
  rw [Code.get_toNat] at h
  refine congrArg some (BitVec.eq_of_toNat_eq ?_)
  simp only [sumFields, Code.get_toNat, BitVec.toNat_ofNat]
  omega

/-- A word of major 0x10 is a br, or illegal with a reserved condition: no other check of R51 can refuse it. -/
theorem decode_br {w : Code} (h : (w.get 22 7).toNat = 0x10) :
    decode w = if (w.get 10 6).toNat ≤ 5 then .instr (brOf w) else .illegal .reservedValue := by
  have major : majorReserved (w.get 22 7).toNat = false := by rw [h]; decide
  have values : (brOf w).valuesOk = decide ((w.get 10 6).toNat ≤ 5) := rfl
  have bits : (brOf w).bitsOk = true := rfl
  have codes : (brOf w).codesOk = true := rfl
  have formats : (brOf w).formatsOk = true := rfl
  rw [decode, major, build_br h]
  by_cases hc : (w.get 10 6).toNat ≤ 5 <;> simp [checkWord, encode_brOf h, bits, values, codes, formats, hc]

/-- Settles O55: a br compares its operand with zero as its condition says, and a word with a reserved condition is illegal. -/
theorem branchConditionsAgainstZero : Obligations.BranchConditionsAgainstZero := by
  unfold Obligations.BranchConditionsAgainstZero
  refine ⟨fun s S a c o clear => ?_, fun w major reserved => ?_⟩
  · intro x taken hc
    have condition : zeroCondition c.toNat (s.opnd a) = true ↔ taken := zeroCondition_iff (s.opnd a) hc
    obtain ⟨jumps, goesOn⟩ := branch_onlyCur s S o (zeroCondition c.toNat (s.opnd a))
    refine ⟨_, exec_br_clear clear, fun h => jumps (condition.2 h), fun h => goesOn ?_⟩
    exact Bool.eq_false_iff.2 (mt condition.1 h)
  · rw [← Code.get_toNat] at major reserved
    rw [decode_br major, if_neg (by omega)]

end Sys2Proof.Machine
end

section
/-! Decisions and backtracking at a clause array that the issuing gang holds (R321, R325, R327). -/
namespace Sys2Proof.Machine

/-! ### An operation at an array that is held -/

/-- What is found in a table of which the keys that `p` refuses were taken out. -/
theorem SMap.find_filter_key {α : Type} (p : Nat → Bool) (m : SMap α) (k : Nat) :
    SMap.find (m.filter fun e => p e.1) k = if p k then SMap.find m k else none := by
  induction m with
  | nil => simp [SMap.find]
  | cons e m ih =>
    rw [List.filter_cons]
    by_cases hp : p e.1 <;> by_cases hk : e.1 = k
    · subst hk
      simp [SMap.find, hp]
    · simp [SMap.find, hp, hk, ih]
    · subst hk
      simp [hp, ih]
    · simp [SMap.find, hp, hk, ih]

/-- The state in which an operation has left its array as `a'`, and its result `y` is on its way (R321). -/
def State.clauseRan (s : State) (r : ClauseReq) (a' : ClauseArr) (y : Word) : State :=
  ({ s with clauseReqs := SMap.del s.clauseReqs r.id, arrays := SMap.set ClauseArr.init s.arrays r.m a' } : State).renew.respondOn
    (lsBack (2 * r.m) r.core) .resultArrival r.core r.ctx r.id { v := y }

section
variable (s : State) (r : ClauseReq) (a' : ClauseArr) (y : Word)

@[simp] theorem State.clauseRan_cores : (s.clauseRan r a' y).cores = s.cores := rfl
@[simp] theorem State.clauseRan_mem : (s.clauseRan r a' y).mem = s.mem := rfl
@[simp] theorem State.clauseRan_array : SMap.get {} (s.clauseRan r a' y).arrays r.m = a' :=
  SMap.get_set_same ClauseArr.init s.arrays r.m a'
@[simp] theorem State.clauseRan_resp : SMap.find (s.clauseRan r a' y).resps r.id = some { v := y } :=
  SMap.find_put_same s.resps r.id { v := y }

theorem State.clauseRan_posts :
    ∃ p ∈ (s.clauseRan r a' y).cal, p.ev = .resultArrival ∧ p.args = ⟨r.core, r.ctx, r.id, 0, []⟩ :=
  ⟨_, List.mem_append_right s.cal (List.mem_singleton_self _), rfl, rfl⟩

end

/-- R321: an operation of the gang that holds its array runs there. -/
theorem exec_clauseOperation_held {s : State} {r : ClauseReq} {h : UnitHold} (request : SMap.find s.clauseReqs s.ev.a = some r)
    (id : r.id = s.ev.a) (atArray : s.ev.b = 0) (unit : SMap.find s.units (4096 + r.m) = some h) (holds : h.gang = some r.gang)
    {a' : ClauseArr} {y : Word} (run : (SMap.get {} s.arrays r.m : ClauseArr).run r h (s.freeN 0 % 4096) = (a', y)) :
    exec .clauseOperationAtArray s = .next (s.clauseRan r a' y) := by
  have ranAlone : (SMap.get ClauseArr.init s.arrays r.m).run r h
      (State.freeN { s with clauseReqs := SMap.del s.clauseReqs r.id } 0 % 4096) = (a', y) := run
  have found : SMap.find s.clauseReqs r.id = some r := id ▸ request
  rw [exec_clauseOperationAtArray, execClauseOperationAtArray, if_neg (by omega), ← id]
  simp only [State.clausePerforms, found, unit, holds, if_true, ranAlone]
  rfl

/-! ### Operands and results -/

/-- Bits 63:11 of an operand of cdec or cback are zero (R327). -/
theorem fld_high_eq_zero_iff (b : Word) : fld b 11 53 = 0 ↔ b.toNat < 2 ^ 11 := by
  have := b.isLt
  rw [fld, bitsOf, Nat.shiftRight_eq_div_pow]
  omega

theorem fld_high_ne_zero {b : Word} (malformed : 2 ^ 11 ≤ b.toNat) : fld b 11 53 ≠ 0 := by
  rw [Ne, fld_high_eq_zero_iff]
  omega

theorem bit_eq_decide (b : Word) (i : Nat) : bit b i = decide (b.toNat / 2 ^ i % 2 = 1) := Nat.testBit_eq_decide_div_mod_eq

theorem clauseWord_toNat {sts low : Nat} (hs : sts < 16) (hl : low < 2 ^ 32) :
    (clauseWord sts low).toNat = 2 ^ 63 + sts * 2 ^ 16 + low := by
  rw [clauseWord, word, BitVec.toNat_ofNat, Nat.mod_eq_of_lt (by omega)]

/-- The status and CL in a result of cdec (R325, R327). -/
theorem decision_result {sts cl : Nat} (hs : sts < 16) (hc : cl < 2 ^ 10) :
    (clauseWord sts cl).toNat / 2 ^ 16 % 16 = sts ∧ (clauseWord sts cl).toNat % 2 ^ 10 = cl := by
  rw [clauseWord_toNat hs (by omega)]
  omega

/-- The status, TL and CL in a result of cback (R325, R327). -/
theorem backtrack_result {sts tl cl : Nat} (hs : sts < 16) (ht : tl < 2 ^ 11) (hc : cl < 2 ^ 10) :
    let y := clauseWord sts (tl + cl * 2 ^ 22)
    y.toNat / 2 ^ 16 % 16 = sts ∧ y.toNat % 2 ^ 11 = tl ∧ y.toNat / 2 ^ 22 % 2 ^ 10 = cl := by
  dsimp only
  rw [clauseWord_toNat hs (by omega)]
  omega

/-! ### cdec and cback at the array -/

section
variable (a : ClauseArr) {b : Word}

theorem ClauseArr.decide_malformed (malformed : 2 ^ 11 ≤ b.toNat) : a.decide b = (a, clauseWord 1 a.cl) := by
  rw [ClauseArr.decide, if_pos (fld_high_ne_zero malformed)]

theorem ClauseArr.decide_assigned (wf : b.toNat < 2 ^ 11) (assigned : SMap.find a.vals (fld b 0 10) ≠ none) :
    a.decide b = (a, clauseWord 4 a.cl) := by
  rw [ClauseArr.decide, if_neg (not_not.2 ((fld_high_eq_zero_iff b).2 wf)), if_pos (Option.isSome_iff_ne_none.2 assigned)]

theorem ClauseArr.decide_unassigned (wf : b.toNat < 2 ^ 11) (unassigned : SMap.find a.vals (fld b 0 10) = none) :
    a.decide b = if a.cl = 1023 then (a, clauseWord 5 a.cl)
      else ({ a with cl := a.cl + 1 }.assign (fld b 0 10) (bit b 10) 0xFFF, clauseWord 0 (a.cl + 1)) := by
  rw [ClauseArr.decide, if_neg (not_not.2 ((fld_high_eq_zero_iff b).2 wf)), unassigned]
  rfl

theorem ClauseArr.back_malformed (malformed : 2 ^ 11 ≤ b.toNat) :
    a.back b = (a, clauseWord 1 (a.trail.length + a.cl * 2 ^ 22)) := by
  rw [ClauseArr.back, if_pos (fld_high_ne_zero malformed)]

/-- What cback leaves of the trail: nothing under ALL, else what stands before the entries above the level at its end (R327). -/
def ClauseArr.keptBy (b : Word) : List TrailEntry :=
  if bit b 10 then [] else a.trail.rdropWhile fun e => fld b 0 10 < e.level

/-- The level that cback goes back to (R327). -/
def ClauseArr.levelBy (b : Word) : Nat := if bit b 10 then 0 else Nat.min a.cl (fld b 0 10)

/-- The array behind a cback that cuts its trail into what is kept and what is gone. -/
def ClauseArr.cutTo (kept gone : List TrailEntry) (cl : Nat) : ClauseArr :=
  { a with trail := kept, vals := a.vals.filter fun e => !(gone.map (·.var)).contains e.1, cl := cl }

theorem ClauseArr.find_cutTo_vals (kept gone : List TrailEntry) (cl u : Nat) :
    SMap.find (a.cutTo kept gone cl).vals u = if u ∈ gone.map (·.var) then none else SMap.find a.vals u := by
  rw [ClauseArr.cutTo, SMap.find_filter_key (fun k => !(gone.map (·.var)).contains k)]
  by_cases hu : u ∈ gone.map (·.var) <;> simp [hu]

theorem ClauseArr.back_wellFormed (wf : b.toNat < 2 ^ 11) {kept gone : List TrailEntry} (trail : a.trail = kept ++ gone)
    (keeps : a.keptBy b = kept) :
    a.back b = (a.cutTo kept gone (a.levelBy b), clauseWord 0 (kept.length + a.levelBy b * 2 ^ 22)) := by
  have dropped : a.trail.drop kept.length = gone := by rw [trail, List.drop_left]
  have keep : (if bit b 10 then [] else (a.trail.reverse.dropWhile fun e => fld b 0 10 < e.level).reverse) = kept := keeps
  simp only [ClauseArr.back, (fld_high_eq_zero_iff b).2 wf, ne_eq, not_true_eq_false, if_false, keep, dropped]
  rfl

end

/-- The trail is cut before the last entries that lie above the level, and at an entry that does not (R327). -/
theorem rdropWhile_level {level : Nat} {kept gone : List TrailEntry} (above : ∀ e ∈ gone, level < e.level)
    (last : ∀ e, kept.getLast? = some e → e.level ≤ level) :
    (kept ++ gone).rdropWhile (fun e => decide (level < e.level)) = kept := by
  have gone_all : ∀ e ∈ gone.reverse, decide (level < e.level) = true := by simpa using above
  have kept_stays : kept.rdropWhile (fun e => decide (level < e.level)) = kept := by
    refine List.rdropWhile_eq_self_iff.2 fun hne => ?_
    simpa using last _ (List.getLast?_eq_some_getLast hne)
  calc (kept ++ gone).rdropWhile (fun e => decide (level < e.level))
      = kept.rdropWhile (fun e => decide (level < e.level)) := by
        rw [List.rdropWhile, List.rdropWhile, List.reverse_append, List.dropWhile_append_of_pos gone_all]
    _ = kept := kept_stays

/-- A cut of the trail where R327's loop ends is the one that cback makes. -/
theorem ClauseArr.keptBy_eq {a : ClauseArr} {b : Word} {kept gone : List TrailEntry} (trail : a.trail = kept ++ gone)
    (cut : if bit b 10 then kept = []
      else (∀ e ∈ gone, fld b 0 10 < e.level) ∧ ∀ e, kept.getLast? = some e → e.level ≤ fld b 0 10) :
    a.keptBy b = kept := by
  rw [ClauseArr.keptBy]
  split at cut
  case isTrue hall => rw [if_pos hall, cut]
  case isFalse hall =>
    obtain ⟨above, last⟩ := cut
    rw [if_neg hall, trail, rdropWhile_level above last]

/-- Settles O40: the operation runs at the array that its gang holds, and each case of R327 is what decide or back gives there. -/
theorem decisionsOpenAndCloseLevels : Obligations.DecisionsOpenAndCloseLevels := by
  unfold Obligations.DecisionsOpenAndCloseLevels
  intro s r h request id atArray unit holds a x gives status v level value
  have gives_of_run {P : ClauseArr → Prop} {W : Word → Prop} {a' : ClauseArr} {y : Word}
      (run : a.run r h (s.freeN 0 % 4096) = (a', y)) (hP : P a') (hW : W y) : gives P W := by
    have next := exec_clauseOperation_held request id atArray unit holds run
    exact ⟨_, y, next, by rwa [s.clauseRan_array], hW, s.clauseRan_cores r a' y, s.clauseRan_mem r a' y,
      s.clauseRan_resp r a' y, s.clauseRan_posts r a' y⟩
  clear_value gives
  have run_cdec (op : r.op = 3) : a.run r h (s.freeN 0 % 4096) = a.decide r.b := by simp only [ClauseArr.run, op]
  have run_cback (op : r.op = 4) : a.run r h (s.freeN 0 % 4096) = a.back r.b := by simp only [ClauseArr.run, op]
  have value_eq : value = bit r.b 10 := (bit_eq_decide r.b 10).symm
  refine ⟨?_, ?_, ?_, ?_⟩
  · intro op malformed
    refine gives_of_run ((run_cdec op).trans (a.decide_malformed malformed)) rfl fun hc => ?_
    exact (decision_result (by decide) hc).1
  · intro op wf
    refine ⟨fun assigned => ?_, fun unassigned top => ?_, fun unassigned below => ?_⟩
    · refine gives_of_run ((run_cdec op).trans (a.decide_assigned wf assigned)) rfl fun hc => ?_
      exact decision_result (by decide) hc
    · have run := (run_cdec op).trans (a.decide_unassigned wf unassigned)
      rw [if_pos top, top] at run
      exact gives_of_run run rfl (decision_result (by decide) (by decide))
    · have run := (run_cdec op).trans (a.decide_unassigned wf unassigned)
      rw [if_neg (by omega), ← value_eq] at run
      exact gives_of_run run rfl (decision_result (by decide) (by omega))
  · intro op malformed
    refine gives_of_run ((run_cback op).trans (a.back_malformed malformed)) rfl fun ht hc => ?_
    exact (backtrack_result (by decide) ht hc).1
  · intro op wf kept gone trail cut cl
    rw [value_eq] at cut
    have level_eq : a.levelBy r.b = cl := by rw [ClauseArr.levelBy, ← value_eq]; rfl
    have run := (run_cback op).trans (a.back_wellFormed wf trail (ClauseArr.keptBy_eq trail cut))
    rw [level_eq] at run
    refine gives_of_run run ⟨rfl, rfl, rfl, a.find_cutTo_vals kept gone cl⟩ fun ht hc => ?_
    exact backtrack_result (by decide) ht hc

end Sys2Proof.Machine
end
